-- ==== Sys2Proof/Word.lean ====
section
/-!
DEFINITION. The word types of the Carnov and the keyed tables that State is built from (R2 to R4, R16).
-/
set_option Elab.async false
namespace Sys2Proof

/-- A scalar register, 64 bits (R4: a dword). -/
abbrev Word := BitVec 64

/-- A vector register, 256 bits (R4). -/
abbrev Vec := BitVec 256

/-- A predicate: bit k is lane k (R86). -/
abbrev Pred := BitVec 8

/-- One byte of memory (R4). -/
abbrev Byte := BitVec 8

/-- A group ID: index [23:6], generation [5:0] (R32). -/
abbrev GroupId := BitVec 24

/-- A core's logical coordinate packed as in R16: die [17:12], row [11:6], col [5:0]. Kept as a number, as a key. -/
abbrev CoreId := Nat

/-- A sparse collection held in State: key and value pairs, keys strictly rising. -/
abbrev Tab (α : Type) := List (Nat × α)

/-- Sign extension of a w-bit value to 64 bits. -/
abbrev sext64 {w : Nat} (v : BitVec w) : Word := v.signExtend 64

/-- Zero extension of a w-bit value to 64 bits. -/
abbrev zext64 {w : Nat} (v : BitVec w) : Word := v.setWidth 64

end Sys2Proof
end

