-- ==== Sys2Proof/Syntax.lean ====
section
/-!
DEFINITION. The instructions and device events of the Carnov: one constructor of Instr for each row of the opcode table.
An instruction carries its whole 128-bit word: the scheduling fields of R56 are its first argument.
Register fields are bounded by their files (R62), so a field outside its file cannot be written down.
-/
set_option Elab.async false
namespace Sys2Proof

abbrev XReg := Fin 32
abbrev VReg := Fin 16
abbrev PReg := Fin 8
abbrev CtrReg := Fin 16
/-- An accumulator tile: 0 a0, 1 a1, 2 ag0, 3 ag1 (R62). -/
abbrev AccReg := Fin 4

/-- The claim an instruction places on a scoreboard (R56, R66). -/
inductive Claim where
  | none
  | written (sb : Fin 8)   -- mode 1: released when the destinations are written
  | read (sb : Fin 8)      -- mode 2: released when the sources have been read
  deriving DecidableEq, Repr

/-- The scheduling fields and the guard, bits [127:102] of a word (R56). -/
structure Hdr where
  pace  : BitVec 5
  yld   : Bool
  reuse : BitVec 3
  claim : Claim
  wait  : BitVec 8
  neg   : Bool
  guard : PReg
  deriving DecidableEq, Repr

/-- Rounding code (R111). -/
inductive Rnd where
  | rne | rtz | rdn | rup
  deriving DecidableEq, Repr

/-- Operand types of class 5 (R126). -/
inductive FTy where
  | f32 | f16 | bf16
  deriving DecidableEq, Repr

/-- Integer lane types of class 6 (R134). -/
inductive ITy where
  | i16 | i32 | n16 | n32
  deriving DecidableEq, Repr

/-- Lane types of the moving instructions of class 6, which set only the width (R134). -/
inductive LTy where
  | int (t : ITy)
  | flt (t : FTy)
  deriving DecidableEq, Repr

/-- Types of the converting instructions (R140). -/
inductive CTy where
  | f32 | f16 | bf16 | e8m12
  deriving DecidableEq, Repr

/-- Operand types of the matrix unit (R245). -/
inductive MTy where
  | i8 | n8 | f16 | bf16 | e8m12 | q8
  deriving DecidableEq, Repr

/-- Drain formats (R244). -/
inductive DFmt where
  | bf16 | f32 | i32 | f40
  deriving DecidableEq, Repr

/-- Integer condition codes (R85). -/
inductive Cc where
  | eq | ne | lt | le | gt | ge | ltn | len | gtn | gen
  deriving DecidableEq, Repr

/-- Floating-point condition codes (R131). -/
inductive FCc where
  | eq | ne | lt | le | gt | ge | ord | uno
  deriving DecidableEq, Repr

/-- Branch tests (R89). -/
inductive BrTest where
  | l0 | any | all
  deriving DecidableEq, Repr

/-- Sizes 0 to 4 of the memory layout (R59). -/
inductive Size where
  | b | h | w | d | v
  deriving DecidableEq, Repr

inductive Sync where
  | none | acq | rel | acqrel
  deriving DecidableEq, Repr

inductive Scope where
  | core | cluster | die | device | system
  deriving DecidableEq, Repr

/-- The ordering fields of the memory layout (R59). -/
structure Ord where
  stream : Fin 8
  after  : BitVec 8
  sync   : Sync
  scope  : Scope
  deriving DecidableEq, Repr

/-- Operations of AMO (R175). -/
inductive AmoOp where
  | add | and | or | xor | min | max | minn | maxn | swap
  deriving DecidableEq, Repr

/-- Targets of PFX (R174). -/
inductive PfxTarget where
  | nc | ro | sl
  deriving DecidableEq, Repr

/-- Sources of TBLLD (R149). -/
inductive TblSrc where
  | mem | q43 | q52
  deriving DecidableEq, Repr

/-- Sources of MTBL (R245). -/
inductive MtblSrc where
  | mem | ta | tb
  deriving DecidableEq, Repr

/-- The control registers of R94. -/
inductive CReg where
  | ident | feat | asid | hintctl | fpstat | tstat | strmsnap | shares | opnow | time | xferid | uepc
  | tvec | uvec | tframe | slhash | waymask | rtcode | rtlimit | fwvec | fwframe | upcode | uplimit
  deriving DecidableEq, Repr

/-- A register of the host's or of the gateway control window that REGISTER_WRITE may name (R7). The registers whose
write does more (TBINV1, FQRING, FQNOTE, PRRESP, ERRCFG) have event rows of their own. -/
inductive GReg where
  | tbinv0 (core : Nat)      -- translation block of a control core (R155)
  | sldmask (slice : Nat)    -- R194; slice 256 is every live slice
  | slqsel (slice : Nat)
  | slquota (slice : Nat)
  | sllock (slice : Nat)
  | fqsel                    -- R337
  | fqstat
  | prqcfg (vf : Nat)        -- R343
  | errsig                   -- R366
  | errlost
  | wgcnt (die : Nat)        -- R363
  | netenc (port : Nat)      -- R374
  | netstat (port : Nat)
  | ecccnt (die : Nat)       -- R378
  | apr (i : Nat)            -- R48
  | table (pa : Nat)         -- a store through the table port (R153, R155)
  | micro (engine off : Nat) -- a dword of a streamer's microcode store (R199)
  | root (asid vf : Nat)     -- the ASID root table, written by the root firmware (R153, R342)
  | vfroot (vf : Nat)        -- a virtual function's stage-two table (R342)
  | counterVf (col k : Nat)  -- the runtime's assignment of a counter of the window of R47 to a virtual function
  deriving DecidableEq, Repr

/-- A network message that arrives from a peer package (R233). -/
structure NetMsg where
  asid   : Nat
  raddr  : Word
  data   : List Byte
  redop  : Nat
  tc     : Nat
  port   : Nat
  rcoord : Nat
  rctr   : Nat
  ren    : Bool
  deriving DecidableEq, Repr

/-- The structure in which an ECC error is detected (R378). -/
inductive EccLoc where
  | stack (pa : Nat)
  | slice (slice pa : Nat)
  | localMem (core off : Nat)
  | regFile (core : Nat)
  | pod (core ctx : Nat)
  | nearWord (cluster asid line word : Nat)      -- a word of a near-cache line (R349)
  | roWord (cluster asid line word : Nat)        -- a word of a read-only cache line (R349)
  deriving DecidableEq, Repr

/-- What the root firmware found at boot (R377). -/
structure BootInfo where
  slhash  : Word
  gwlost  : BitVec 8
  dielost : BitVec 40
  fwvec   : Word
  fwframe : Word
  clusters : List (Nat × Nat × BitVec 16)   -- die, logical cluster, cluster remap entry (R19)
  cores    : List (Nat × BitVec 32) := []   -- die, core remap entry (R19)
  deriving DecidableEq, Repr

/-- A host access through BAR2 (R48): the function it comes from, the offset, and the bytes written or the length read. -/
structure Bar2Access where
  vf    : Nat
  off   : Nat
  write : Bool
  data  : List Byte
  len   : Nat
  deriving DecidableEq, Repr

/-- One constructor per row of the opcode table. The instructions come first, in the table's order of classes; the
events, which have no word, stand last. -/
inductive Instr where
  -- class 0 (R94 to R105)
  | illegal (w : BitVec 128)
  | nop (h : Hdr)
  | brk (h : Hdr) (code : BitVec 16)
  | trap (h : Hdr) (code : BitVec 16)
  | trapret (h : Hdr)
  | trapretMove (h : Hdr)
  | trapretEnd (h : Hdr)
  | upret (h : Hdr)
  | crrd (h : Hdr) (d : XReg) (r : CReg)
  | crwr (h : Hdr) (a : XReg) (r : CReg)
  | crset (h : Hdr) (d a : XReg) (r : CReg)
  | crclr (h : Hdr) (d a : XReg) (r : CReg)
  | ident (h : Hdr) (d : XReg)
  | feat (h : Hdr) (d : XReg)
  | halt (h : Hdr)
  | sleep (h : Hdr) (d : XReg) (c : CtrReg) (b : XReg) (timeout : BitVec 32)
  -- class 1 (R88)
  | br (h : Hdr) (p : PReg) (t : BrTest) (inv : Bool) (imm : BitVec 48)
  | bri (h : Hdr) (a : XReg) (imm : BitVec 48)
  | call (h : Hdr) (imm : BitVec 48)
  | calli (h : Hdr) (a : XReg) (imm : BitVec 48)
  | ret (h : Hdr) (a : XReg)
  | loop (h : Hdr) (a : XReg) (imm : BitVec 48)
  | endTask (h : Hdr)
  | yieldSlot (h : Hdr)
  | ipf (h : Hdr) (n : BitVec 4) (imm : BitVec 48)
  -- class 2 (R79)
  | add (h : Hdr) (w : Bool) (d a b : XReg)
  | sub (h : Hdr) (w : Bool) (d a b : XReg)
  | addi (h : Hdr) (w : Bool) (d a : XReg) (imm : BitVec 48)
  | mul (h : Hdr) (w : Bool) (d a b : XReg)
  | mulh (h : Hdr) (w : Bool) (d a b : XReg)
  | mulhn (h : Hdr) (w : Bool) (d a b : XReg)
  | mad (h : Hdr) (w : Bool) (d a b c : XReg)
  | div (h : Hdr) (w : Bool) (d a b : XReg)
  | divn (h : Hdr) (w : Bool) (d a b : XReg)
  | rem (h : Hdr) (w : Bool) (d a b : XReg)
  | remn (h : Hdr) (w : Bool) (d a b : XReg)
  | and (h : Hdr) (d a b : XReg)
  | or (h : Hdr) (d a b : XReg)
  | xor (h : Hdr) (d a b : XReg)
  | andn (h : Hdr) (d a b : XReg)
  | orn (h : Hdr) (d a b : XReg)
  | shl (h : Hdr) (w : Bool) (d a b : XReg)
  | shr (h : Hdr) (w : Bool) (d a b : XReg)
  | sar (h : Hdr) (w : Bool) (d a b : XReg)
  | rol (h : Hdr) (w : Bool) (d a b : XReg)
  | shli (h : Hdr) (w : Bool) (d a : XReg) (n : BitVec 6)
  | shri (h : Hdr) (w : Bool) (d a : XReg) (n : BitVec 6)
  | sari (h : Hdr) (w : Bool) (d a : XReg) (n : BitVec 6)
  -- class 3 (R82)
  | min (h : Hdr) (d a b : XReg)
  | max (h : Hdr) (d a b : XReg)
  | minn (h : Hdr) (d a b : XReg)
  | maxn (h : Hdr) (d a b : XReg)
  | clz (h : Hdr) (d a : XReg)
  | ctz (h : Hdr) (d a : XReg)
  | popc (h : Hdr) (d a : XReg)
  | brev (h : Hdr) (d a : XReg)
  | bfx (h : Hdr) (d a : XReg) (pos len : BitVec 6)
  | bfxz (h : Hdr) (d a : XReg) (pos len : BitVec 6)
  | bfi (h : Hdr) (d a b : XReg) (pos len : BitVec 6)
  | lea (h : Hdr) (d a b : XReg) (pcrel : Bool) (sh : BitVec 3) (imm : BitVec 48)
  | li (h : Hdr) (d : XReg) (imm : BitVec 48)
  | lih (h : Hdr) (d a : XReg) (imm : BitVec 16)
  | mov (h : Hdr) (d a : XReg)
  | sel (h : Hdr) (d a b : XReg) (c : PReg)
  -- class 4 (R85, R86)
  | cmp (h : Hdr) (cc : Cc) (w : Bool) (d : PReg) (a b : XReg)
  | cmpi (h : Hdr) (cc : Cc) (w : Bool) (d : PReg) (a : XReg) (imm : BitVec 48)
  | pand (h : Hdr) (d a b : PReg)
  | por (h : Hdr) (d a b : PReg)
  | pxor (h : Hdr) (d a b : PReg)
  | pnot (h : Hdr) (d a : PReg)
  | pset (h : Hdr) (d : PReg) (imm : BitVec 8)
  | psetX (h : Hdr) (d : PReg) (a : XReg)
  | pget (h : Hdr) (d : XReg) (a : PReg)
  -- class 5 (R127)
  | fadd (h : Hdr) (t : FTy) (rm : Rnd) (d a b : VReg)
  | fsub (h : Hdr) (t : FTy) (rm : Rnd) (d a b : VReg)
  | fmul (h : Hdr) (t : FTy) (rm : Rnd) (d a b : VReg)
  | fma (h : Hdr) (t : FTy) (rm : Rnd) (d a b c : VReg)
  | fms (h : Hdr) (t : FTy) (rm : Rnd) (d a b c : VReg)
  | fnma (h : Hdr) (t : FTy) (rm : Rnd) (d a b c : VReg)
  | fmin (h : Hdr) (t : FTy) (d a b : VReg)
  | fmax (h : Hdr) (t : FTy) (d a b : VReg)
  | fabs (h : Hdr) (t : FTy) (d a : VReg)
  | fneg (h : Hdr) (t : FTy) (d a : VReg)
  | fdiv (h : Hdr) (t : FTy) (rm : Rnd) (d a b : VReg)
  | fsqrt (h : Hdr) (t : FTy) (rm : Rnd) (d a : VReg)
  | frcp (h : Hdr) (t : FTy) (rm : Rnd) (d a : VReg)
  | frsq (h : Hdr) (t : FTy) (rm : Rnd) (d a : VReg)
  | fexp2 (h : Hdr) (t : FTy) (rm : Rnd) (d a : VReg)
  | flog2 (h : Hdr) (t : FTy) (rm : Rnd) (d a : VReg)
  | fcmp (h : Hdr) (cc : FCc) (t : FTy) (odd : Bool) (d : PReg) (a b : VReg)
  | fclass (h : Hdr) (t : FTy) (d a : VReg)
  | fscale (h : Hdr) (t : FTy) (rm : Rnd) (d a b : VReg)
  | fred (h : Hdr) (t : FTy) (rm : Rnd) (d : XReg) (a : VReg)
  | fredmax (h : Hdr) (t : FTy) (d : XReg) (a : VReg)
  | fredmin (h : Hdr) (t : FTy) (d : XReg) (a : VReg)
  | fdot (h : Hdr) (t : FTy) (rm : Rnd) (d : XReg) (a b : VReg)
  -- class 6 (R135)
  | vadd (h : Hdr) (t : ITy) (sat : Bool) (d a b : VReg)
  | vsub (h : Hdr) (t : ITy) (sat : Bool) (d a b : VReg)
  | vmul (h : Hdr) (t : ITy) (sat : Bool) (d a b : VReg)
  | vmad (h : Hdr) (t : ITy) (sat : Bool) (d a b c : VReg)
  | vand (h : Hdr) (t : LTy) (d a b : VReg)
  | vor (h : Hdr) (t : LTy) (d a b : VReg)
  | vxor (h : Hdr) (t : LTy) (d a b : VReg)
  | vshl (h : Hdr) (t : ITy) (imm : Option (BitVec 5)) (d a b : VReg)
  | vshr (h : Hdr) (t : ITy) (imm : Option (BitVec 5)) (d a b : VReg)
  | vsar (h : Hdr) (t : ITy) (imm : Option (BitVec 5)) (d a b : VReg)
  | vmin (h : Hdr) (t : ITy) (d a b : VReg)
  | vmax (h : Hdr) (t : ITy) (d a b : VReg)
  | vcmp (h : Hdr) (cc : Cc) (t : ITy) (odd : Bool) (d : PReg) (a b : VReg)
  | vred (h : Hdr) (t : ITy) (d : XReg) (a : VReg)
  | vbcast (h : Hdr) (t : LTy) (imm : Option (BitVec 32)) (d : VReg) (a : XReg)
  | vperm (h : Hdr) (t : LTy) (d a b c : VReg)
  | vsel (h : Hdr) (t : LTy) (d a b : VReg) (c : PReg)
  | vins (h : Hdr) (t : LTy) (d : VReg) (a : XReg) (lane : BitVec 4)
  | vext (h : Hdr) (t : LTy) (d : XReg) (a : VReg) (lane : BitVec 4)
  | vmovx (h : Hdr) (toX : Bool) (v : VReg) (x : XReg)
  -- class 7 (R140, R147, R149)
  | cvt (h : Hdr) (dst src : CTy) (rm : Rnd) (half : Bool) (d a : VReg)
  | cvti (h : Hdr) (dst : ITy) (src : CTy) (rm : Rnd) (half : Bool) (d a : VReg)
  | cvtf (h : Hdr) (dst : CTy) (src : ITy) (rm : Rnd) (half : Bool) (d a : VReg)
  | dec8 (h : Hdr) (dst : CTy) (rm : Rnd) (grp : BitVec 2) (d a : VReg) (tblB : Bool)
  | enc8 (h : Hdr) (src : CTy) (grp : BitVec 2) (d a : VReg) (tblB : Bool)
  | pack (h : Hdr) (byte hi : Bool) (d a b : VReg)
  | unpack (h : Hdr) (byte hi x half : Bool) (d a : VReg)
  | tblld (h : Hdr) (o : Ord) (src : TblSrc) (tblB : Bool) (a : XReg) (off : BitVec 32)
  -- class 8 (R170)
  | ld (h : Hdr) (o : Ord) (sz : Size) (ext : Bool) (d a : XReg) (off : BitVec 32)
  | st (h : Hdr) (o : Ord) (sz : Size) (a b : XReg) (off : BitVec 32)
  | ldv (h : Hdr) (o : Ord) (d : VReg) (a : XReg) (off : BitVec 32)
  | stv (h : Hdr) (o : Ord) (a : XReg) (b : VReg) (off : BitVec 32)
  | ldro (h : Hdr) (o : Ord) (sz : Size) (ext : Bool) (d a : XReg) (off : BitVec 32)
  | ldg (h : Hdr) (o : Ord) (word sc : Bool) (d : VReg) (a : XReg) (b : VReg) (off : BitVec 32)
  | sts (h : Hdr) (o : Ord) (word sc : Bool) (d : VReg) (a : XReg) (b : VReg) (off : BitVec 32)
  | pfx (h : Hdr) (t : PfxTarget) (n : BitVec 4) (a : XReg) (off : BitVec 32)
  -- class 9 (R175, R176, R184)
  | amo (h : Hdr) (o : Ord) (op : AmoOp) (dword ext : Bool) (d a b : XReg) (off : BitVec 32)
  | cas (h : Hdr) (o : Ord) (dword ext : Bool) (d a b : XReg) (off : BitVec 32)
  | wbr (h : Hdr) (o : Ord) (d a b : XReg) (off : BitVec 32)
  | invr (h : Hdr) (o : Ord) (d a b : XReg) (off : BitVec 32)
  | invrRo (h : Hdr) (o : Ord) (d a b : XReg) (off : BitVec 32)
  | wbinvr (h : Hdr) (o : Ord) (d a b : XReg) (off : BitVec 32)
  | zeror (h : Hdr) (o : Ord) (d a b : XReg) (off : BitVec 32)
  | lockl (h : Hdr) (o : Ord) (n : BitVec 6) (d a : XReg) (off : BitVec 32)
  | unlockl (h : Hdr) (o : Ord) (n : BitVec 6) (d a : XReg) (off : BitVec 32)
  -- class A (R209)
  | cpy (h : Hdr) (o : Ord) (rtn : BitVec 4) (d a b : XReg) (off : BitVec 32)
  | cpyi (h : Hdr) (o : Ord) (rtn : BitVec 4) (d a b : XReg) (off : BitVec 32)
  | gather (h : Hdr) (o : Ord) (sz : Size) (ix sc : Bool) (d a : XReg) (b : VReg) (off : BitVec 32)
  | scatter (h : Hdr) (o : Ord) (sz : Size) (ix sc : Bool) (d a : XReg) (b : VReg) (off : BitVec 32)
  | halo (h : Hdr) (o : Ord) (dirs : BitVec 4) (a b : XReg) (off : BitVec 32)
  | cpyq (h : Hdr) (o : Ord) (d b : XReg)
  -- class B (R219, R220)
  | send (h : Hdr) (o : Ord) (d a b : XReg) (c : CtrReg) (toff : BitVec 16)
  | sendi (h : Hdr) (o : Ord) (sz : Size) (a b : XReg) (c : CtrReg) (toff : BitVec 16)
  | cntrd (h : Hdr) (o : Ord) (d : XReg) (c : CtrReg)
  | cntadd (h : Hdr) (o : Ord) (self : Bool) (a b : XReg) (c : CtrReg) (k : BitVec 32)
  | cntset (h : Hdr) (o : Ord) (b : XReg) (c : CtrReg)
  | wtset (h : Hdr) (d : XReg) (e : BitVec 4) (c : CtrReg) (a b : XReg)
  | wtsetS (h : Hdr) (d : XReg) (e : BitVec 4) (c : CtrReg) (a b : XReg)
  | wtsetL (h : Hdr) (d : XReg) (e : BitVec 4) (c : CtrReg) (a b : XReg)
  | wtclr (h : Hdr) (d : XReg) (e : BitVec 4)
  | arm (h : Hdr) (o : Ord) (d a : XReg) (off : BitVec 32)
  | disarm (h : Hdr) (d : XReg) (i : BitVec 5)
  | launch (h : Hdr) (o : Ord) (d a : XReg) (off : BitVec 32)
  | exch (h : Hdr) (o : Ord) (d a : XReg) (off : BitVec 32)
  | vote (h : Hdr) (a : XReg)
  | ttsel (h : Hdr) (a : XReg)
  | nsend (h : Hdr) (o : Ord) (a : XReg) (off : BitVec 32)
  -- class C (R245)
  | mfmt (h : Hdr) (ta tb : MTy)
  | mtbl (h : Hdr) (o : Ord) (src : MtblSrc) (tblB : Bool) (a : XReg) (off : BitVec 32)
  | mring (h : Hdr) (a b : XReg)
  | mlda (h : Hdr) (o : Ord) (a b : XReg) (off : BitVec 32)
  | mldb (h : Hdr) (o : Ord) (a b : XReg) (off : BitVec 32)
  | mma (h : Hdr) (t : AccReg)
  | mmas (h : Hdr) (t : AccReg)
  | mskip (h : Hdr) (a : XReg)
  | mskipOff (h : Hdr)
  | mrot (h : Hdr)
  | mzero (h : Hdr) (t : AccReg)
  | mdrain (h : Hdr) (o : Ord) (f : DFmt) (rm : Rnd) (z : Bool) (t : AccReg) (a b : XReg) (off : BitVec 32)
  | mcmd (h : Hdr) (o : Ord) (a : XReg) (off : BitVec 32)
  | mcap (h : Hdr) (d : XReg) (rights : BitVec 2)
  | mcapRev (h : Hdr) (d : XReg)
  | mstat (h : Hdr) (d : XReg) (t : AccReg)
  | mstatU (h : Hdr) (d : XReg)
  -- class D (R280)
  | kstage (h : Hdr) (o : Ord) (d a : XReg) (off : BitVec 32)
  | kstageU (h : Hdr) (o : Ord) (d b : XReg)
  | ksend (h : Hdr) (o : Ord) (a b : XReg) (off : BitVec 32)
  | ksendt (h : Hdr) (o : Ord) (d : PReg) (a b : XReg) (off : BitVec 32)
  | kyield (h : Hdr)
  | kend (h : Hdr)
  | kstatOcc (h : Hdr) (d a : XReg)
  | kstatCnt (h : Hdr) (d a : XReg)
  | kflush (h : Hdr) (d a : XReg)
  -- class E (R306)
  | gnew (h : Hdr) (d a : XReg)
  | gfree (h : Hdr) (d a : XReg)
  | join (h : Hdr) (d a : XReg)
  | leave (h : Hdr) (d a : XReg)
  | trylk (h : Hdr) (o : Ord) (d : PReg) (a : XReg) (off : BitVec 32)
  | unlk (h : Hdr) (o : Ord) (d : PReg) (a : XReg) (off : BitVec 32)
  | qpusht (h : Hdr) (o : Ord) (d : PReg) (a b : XReg) (off : BitVec 32)
  | qpopt (h : Hdr) (o : Ord) (n : PReg) (d a : XReg) (off : BitVec 32)
  | bararr (h : Hdr) (o : Ord) (d a b : XReg) (off : BitVec 32)
  | bartry (h : Hdr) (o : Ord) (d : PReg) (a b : XReg) (off : BitVec 32)
  | parkLk (h : Hdr) (o : Ord) (a : XReg) (off : BitVec 32)
  | parkQn (h : Hdr) (o : Ord) (a : XReg) (off : BitVec 32)
  | parkQs (h : Hdr) (o : Ord) (a : XReg) (off : BitVec 32)
  | parkBar (h : Hdr) (o : Ord) (a b : XReg) (off : BitVec 32)
  | parkRp (h : Hdr) (o : Ord) (a : XReg) (off : BitVec 32)
  | shgive (h : Hdr) (d a b : XReg)
  | shresv (h : Hdr) (d a : XReg)
  | shrd (h : Hdr) (d a : XReg)
  | shrdL (h : Hdr) (d a : XReg)
  | oprd (h : Hdr) (d a : XReg)
  -- device events: cores and tasks
  | sleepTimeout (core slot : Nat)
  | claimRelease (core slot id : Nat)
  | icacheFill (core slot : Nat)
  | userInterruptTake (core slot : Nat)
  | detachedAccessPerformed (task op : Nat)
  | placement (core : Nat)
  | continuationResume (core : Nat)
  | doneIncrement (launch : Nat)
  -- memory
  | memoryOpPerform (task op : Nat)
  -- engines
  | streamerKick (id : Nat)
  | streamerChunk (engine : Nat)
  | completionRelease (id : Nat)
  -- counters, triggers, exchange, network
  | counterUpdate (id : Nat)
  | wtEntryFire (core e : Nat)
  | triggerStart (core i : Nat)
  | triggerComplete (core i : Nat)
  | exchPhaseRelease (launch : Nat)
  | timetableStart (launch : Nat)
  | timetableEnd (core : Nat)
  | nsendAck (id : Nat)
  -- matrix
  | matrixEntryService (cluster : Nat)
  | ringTileArrive (id : Nat)
  | ringCreditReturn (id : Nat)
  | mcmdKickArrive (id : Nat)
  -- keyed stages
  | ksendAnswer (id : Nat)
  | keyedRecordArrive (id : Nat)
  | dispatch (core : Nat)
  | huskLookupDone (core stage : Nat)
  | huskSpillDone (core stage : Nat)
  | huskReloadDone (core stage : Nat)
  -- power and waits
  | shareMessage (group : GroupId)
  | probeMessage (id : Nat)
  | cycleWakeMessage (id : Nat)
  | opChange (core : Nat)
  | clockSwitch (core : Nat)
  -- time limits, failures and the outside world
  | preemptionRequest (core slot : Nat)
  | detachTimeout (core slot : Nat)
  | handlerCut (core slot : Nat)
  | handlerAbandon (core slot : Nat)
  | prefetchFill (id : Nat)
  | nearCacheEvict (cluster asid line : Nat)
  | tbinv1Write (core : Nat) (v : Word)
  | tbInvalidationDone (id : Nat)
  | registerWrite (r : GReg) (v : Word)
  | fqnoteWrite (v : Word)
  | fqringWrite (v : Word)
  | pageRequestRetry (id : Nat)
  | prrespWrite (vf : Nat) (v : Word)
  | descriptorFreeTimeout (task handle : Nat)
  | nsendArrival (m : NetMsg)
  | mrotTimeout (cluster : Nat)
  | leaseExpire (cluster : Nat)
  | matrixUnitFail (cluster : Nat)
  | ksendResend (core slot : Nat)
  | reservationLapse (core : Nat)
  | retireDue (core ctx : Nat)
  | stageAutoUnbind (core stage : Nat)
  | gnewGroupSettle (index : Nat)
  | probeRecordExpire (id : Nat)
  | slewHoldEnd (die : Nat)
  | slewUnassisted (die : Nat)
  | errcfgWrite (v : Word)
  -- window: 16 · vf + column, the function that writes and the control core that its address names
  | hostCounterWrite (window k : Nat) (n : BitVec 32)
  | hostBar2Access (x : Bar2Access)
  | linkFlitResend (die port : Nat)
  | linkDown (die port : Nat)
  | linkLossComplete (task op : Nat)
  | eccError (loc : EccLoc) (double : Bool)
  | coreFreeze (core : Nat)
  | deviceReset
  | boot (b : BootInfo)
  deriving DecidableEq, Repr

end Sys2Proof
end

