-- ==== Sys2Proof/WellFormed.lean ====
section
/-!
DEFINITION. Which instructions can be written as a word: the limits on values that the constructors of Instr do not
already impose (R60, R61, R74). A device event has no word and is not well-formed.
-/
set_option Elab.async false
namespace Sys2Proof

/-- Lane width of a class-5 type (R122). -/
def FTy.bits : FTy → Nat
  | .f32 => 32
  | .f16 => 16
  | .bf16 => 16

/-- Lane width of a class-6 integer type (R122). -/
def ITy.bits : ITy → Nat
  | .i16 => 16
  | .i32 => 32
  | .n16 => 16
  | .n32 => 32

def LTy.bits : LTy → Nat
  | .int t => t.bits
  | .flt t => t.bits

/-- Lane width of a converting type; E8M12 fills a 32-bit container (R123). -/
def CTy.bits : CTy → Nat
  | .f32 => 32
  | .f16 => 16
  | .bf16 => 16
  | .e8m12 => 32

/-- Integer operand types of the matrix unit (R238). -/
def MTy.isInt : MTy → Bool
  | .i8 => true
  | .n8 => true
  | .f16 => false
  | .bf16 => false
  | .e8m12 => false
  | .q8 => false

/-- A nonzero scope needs a sync (R60). -/
def Ord.scopeOk (o : Ord) : Bool :=
  match o.sync with
  | .none => o.scope == .core
  | _ => true

/-- Forms that take no sync (R170, R184, R209). -/
def Ord.plain (o : Ord) : Bool := o.sync == .none && o.scope == .core

def Ord.acqOk (o : Ord) : Bool := (o.sync == .none || o.sync == .acq) && o.scopeOk

def Ord.relOk (o : Ord) : Bool := (o.sync == .none || o.sync == .rel) && o.scopeOk

/-- Rel at device or system scope only (R219, R280). -/
def Ord.relWide (o : Ord) : Bool :=
  o.plain || (o.sync == .rel && (o.scope == .device || o.scope == .system))

/-- BARARR takes none, rel or acqrel (R306). -/
def Ord.barOk (o : Ord) : Bool := o.sync != .acq && o.scopeOk

/-- All ordering fields zero, as the forms that read no memory require (R149, R247). -/
def Ord.zero : Ord := ⟨0, 0, .none, .core⟩

/-- A 32-bit form shifts by at most 31 (R79). -/
def shiftOk (w : Bool) (n : BitVec 6) : Bool := !w || n.toNat < 32

def vshiftOk (t : ITy) (imm : Option (BitVec 5)) (b : VReg) : Bool :=
  match imm with
  | none => true
  | some n => b == 0 && (t.bits == 32 || n.toNat < 16)

def bcastOk (t : LTy) (imm : Option (BitVec 32)) (a : XReg) : Bool :=
  match imm with
  | none => true
  | some n => a == 0 && (t.bits == 32 || n.toNat < 65536)

def laneOk (t : LTy) (lane : BitVec 4) : Bool := lane.toNat < 256 / t.bits

def oddOk (bits : Nat) (odd : Bool) : Bool := !odd || bits == 16

/-- The half bit serves only conversions between widths (R141). -/
def halfOk (dst src : Nat) (h : Bool) : Bool := !h || dst != src

/-- Byte groups of DEC8 and ENC8 (R145, R146). -/
def grpOk (bits : Nat) (g : BitVec 2) : Bool := bits == 32 || g.toNat < 2

/-- Sign extension serves loads of less than a dword (R60). -/
def extOk (sz : Size) (ext : Bool) : Bool :=
  match sz with
  | .b | .h | .w => true
  | .d | .v => !ext

/-- The limits of R60, R61 and of the instructions' entries. -/
def wellFormed : Instr → Bool
  | .illegal w => w.extractLsb' 84 12 == 0
  | .trapretMove _ | .trapretEnd _ => false
  | .shli _ w _ _ n | .shri _ w _ _ n | .sari _ w _ _ n => shiftOk w n
  | .lea _ _ a _ pcrel sh _ => sh.toNat < 6 && (!pcrel || a == 0)
  | .fcmp _ _ t odd _ _ _ => oddOk t.bits odd
  | .vshl _ t imm _ _ b | .vshr _ t imm _ _ b | .vsar _ t imm _ _ b => vshiftOk t imm b
  | .vcmp _ _ t odd _ _ _ => oddOk t.bits odd
  | .vbcast _ t imm _ a => bcastOk t imm a
  | .vins _ t _ _ lane | .vext _ t _ _ lane => laneOk t lane
  | .vmovx _ _ _ x => x.val % 4 == 0
  | .cvt _ dst src _ h _ _ => halfOk dst.bits src.bits h
  | .cvti _ dst src _ h _ _ => halfOk dst.bits src.bits h
  | .cvtf _ dst src _ h _ _ => halfOk dst.bits src.bits h
  | .dec8 _ dst _ g _ _ _ => grpOk dst.bits g
  | .enc8 _ src g _ _ _ => grpOk src.bits g
  | .unpack _ _ hi x _ _ _ => !(hi && x)
  | .tblld _ o src _ a off => o.acqOk && (src == .mem || (o == Ord.zero && a == 0 && off == 0))
  | .ld _ o sz ext _ _ _ => o.acqOk && sz != .v && extOk sz ext
  | .st _ o sz _ _ _ => o.relOk && sz != .v
  | .ldv _ o _ _ _ | .stv _ o _ _ _ => o.plain
  | .ldro _ o sz ext d _ _ => o.plain && extOk sz ext && (sz != .v || d.val < 16)
  | .ldg _ o _ _ _ _ _ _ | .sts _ o _ _ _ _ _ _ => o.plain
  | .amo _ o _ dword ext _ _ _ _ => o.scopeOk && !(dword && ext)
  | .cas _ o dword ext _ _ _ _ => o.scopeOk && !(dword && ext)
  | .wbr _ o _ _ _ _ | .invr _ o _ _ _ _ | .invrRo _ o _ _ _ _ | .wbinvr _ o _ _ _ _ | .zeror _ o _ _ _ _ => o.plain
  | .lockl _ o _ _ _ _ | .unlockl _ o _ _ _ _ => o.plain
  | .cpy _ o _ _ _ _ _ | .cpyi _ o _ _ _ _ _ => o.plain
  | .gather _ o _ _ _ _ _ _ _ | .scatter _ o _ _ _ _ _ _ _ => o.plain
  | .halo _ o dirs _ _ _ => o.plain && dirs != 0
  | .cpyq _ o _ _ => o.plain
  | .send _ o _ _ _ _ _ => o.relWide
  | .sendi _ o sz _ _ _ _ => o.relWide && sz != .v
  | .cntrd _ o _ _ | .cntset _ o _ _ => o.plain
  | .cntadd _ o self a _ _ _ => o.relWide && (!self || a == 0)
  | .arm _ o _ _ _ | .launch _ o _ _ _ | .exch _ o _ _ _ => o.plain
  | .nsend _ o _ _ => o.relWide
  | .mfmt _ ta tb => ta.isInt == tb.isInt
  | .mtbl _ o src _ a off => o.acqOk && (src == .mem || (o == Ord.zero && a == 0 && off == 0))
  | .mlda _ o _ _ _ | .mldb _ o _ _ _ => o.plain
  | .mdrain _ o _ _ _ _ _ _ _ => o.plain
  | .mcmd _ o _ _ => o.plain
  | .mcap _ _ rights => rights != 0
  | .kstage _ o _ _ _ => o.plain
  | .kstageU _ o _ _ => o.plain
  | .ksend _ o _ _ _ => o.relWide
  | .ksendt _ o _ _ _ _ => o.relWide
  | .trylk _ o _ _ _ => o.acqOk
  | .unlk _ o _ _ _ => o.relOk
  | .qpusht _ o _ _ _ _ => o.relOk
  | .qpopt _ o _ _ _ _ => o.acqOk
  | .bararr _ o _ _ _ _ => o.barOk
  | .bartry _ o _ _ _ _ => o.acqOk
  | .parkLk _ o _ _ | .parkQn _ o _ _ | .parkQs _ o _ _ | .parkBar _ o _ _ _ | .parkRp _ o _ _ => o.plain
  | .nop _ | .brk _ _ | .trap _ _ | .trapret _ | .upret _ | .crrd _ _ _ | .crwr _ _ _ | .crset _ _ _ _ | .crclr _ _ _ _ => true
  | .ident _ _ | .feat _ _ | .halt _ | .sleep _ _ _ _ _ => true
  | .br _ _ _ _ _ | .bri _ _ _ | .call _ _ | .calli _ _ _ | .ret _ _ | .loop _ _ _ | .endTask _ | .yieldSlot _ | .ipf _ _ _ => true
  | .add _ _ _ _ _ | .sub _ _ _ _ _ | .addi _ _ _ _ _ | .mul _ _ _ _ _ | .mulh _ _ _ _ _ | .mulhn _ _ _ _ _ => true
  | .mad _ _ _ _ _ _ | .div _ _ _ _ _ | .divn _ _ _ _ _ | .rem _ _ _ _ _ | .remn _ _ _ _ _ => true
  | .and _ _ _ _ | .or _ _ _ _ | .xor _ _ _ _ | .andn _ _ _ _ | .orn _ _ _ _ => true
  | .shl _ _ _ _ _ | .shr _ _ _ _ _ | .sar _ _ _ _ _ | .rol _ _ _ _ _ => true
  | .min _ _ _ _ | .max _ _ _ _ | .minn _ _ _ _ | .maxn _ _ _ _ | .clz _ _ _ | .ctz _ _ _ | .popc _ _ _ | .brev _ _ _ => true
  | .bfx _ _ _ _ _ | .bfxz _ _ _ _ _ | .bfi _ _ _ _ _ _ | .li _ _ _ | .lih _ _ _ _ | .mov _ _ _ | .sel _ _ _ _ _ => true
  | .cmp _ _ _ _ _ _ | .cmpi _ _ _ _ _ _ | .pand _ _ _ _ | .por _ _ _ _ | .pxor _ _ _ _ | .pnot _ _ _ => true
  | .pset _ _ _ | .psetX _ _ _ | .pget _ _ _ => true
  | .fadd _ _ _ _ _ _ | .fsub _ _ _ _ _ _ | .fmul _ _ _ _ _ _ | .fma _ _ _ _ _ _ _ | .fms _ _ _ _ _ _ _ | .fnma _ _ _ _ _ _ _ => true
  | .fmin _ _ _ _ _ | .fmax _ _ _ _ _ | .fabs _ _ _ _ | .fneg _ _ _ _ | .fdiv _ _ _ _ _ _ => true
  | .fsqrt _ _ _ _ _ | .frcp _ _ _ _ _ | .frsq _ _ _ _ _ | .fexp2 _ _ _ _ _ | .flog2 _ _ _ _ _ | .fclass _ _ _ _ => true
  | .fscale _ _ _ _ _ _ | .fred _ _ _ _ _ | .fredmax _ _ _ _ | .fredmin _ _ _ _ | .fdot _ _ _ _ _ _ => true
  | .vadd _ _ _ _ _ _ | .vsub _ _ _ _ _ _ | .vmul _ _ _ _ _ _ | .vmad _ _ _ _ _ _ _ => true
  | .vand _ _ _ _ _ | .vor _ _ _ _ _ | .vxor _ _ _ _ _ | .vmin _ _ _ _ _ | .vmax _ _ _ _ _ | .vred _ _ _ _ => true
  | .vperm _ _ _ _ _ _ | .vsel _ _ _ _ _ _ | .pack _ _ _ _ _ _ | .pfx _ _ _ _ _ => true
  | .wtset _ _ _ _ _ _ | .wtsetS _ _ _ _ _ _ | .wtsetL _ _ _ _ _ _ | .wtclr _ _ _ | .disarm _ _ _ | .vote _ _ | .ttsel _ _ => true
  | .mring _ _ _ | .mma _ _ | .mmas _ _ | .mskip _ _ | .mskipOff _ | .mrot _ | .mzero _ _ | .mcapRev _ _ | .mstat _ _ _ | .mstatU _ _ => true
  | .kyield _ | .kend _ | .kstatOcc _ _ _ | .kstatCnt _ _ _ | .kflush _ _ _ => true
  | .gnew _ _ _ | .gfree _ _ _ | .join _ _ _ | .leave _ _ _ | .shgive _ _ _ _ | .shresv _ _ _ | .shrd _ _ _ | .shrdL _ _ _ | .oprd _ _ _ => true
  | .sleepTimeout _ _ | .claimRelease _ _ _ | .icacheFill _ _ | .prefetchFill _ | .userInterruptTake _ _ => false
  | .preemptionRequest _ _ | .detachTimeout _ _ | .detachedAccessPerformed _ _ | .handlerCut _ _ | .handlerAbandon _ _ => false
  | .placement _ | .continuationResume _ | .doneIncrement _ | .memoryOpPerform _ _ | .nearCacheEvict _ _ _ => false
  | .tbinv1Write _ _ | .tbInvalidationDone _ | .registerWrite _ _ | .fqnoteWrite _ | .fqringWrite _ => false
  | .pageRequestRetry _ | .prrespWrite _ _ | .streamerKick _ | .streamerChunk _ | .completionRelease _ => false
  | .descriptorFreeTimeout _ _ | .counterUpdate _ | .wtEntryFire _ _ | .triggerStart _ _ | .triggerComplete _ _ => false
  | .exchPhaseRelease _ | .timetableStart _ | .timetableEnd _ | .nsendArrival _ | .nsendAck _ => false
  | .matrixEntryService _ | .ringTileArrive _ | .ringCreditReturn _ | .mrotTimeout _ | .mcmdKickArrive _ => false
  | .leaseExpire _ | .matrixUnitFail _ | .ksendAnswer _ | .ksendResend _ _ | .reservationLapse _ => false
  | .keyedRecordArrive _ | .dispatch _ | .huskLookupDone _ _ | .huskSpillDone _ _ | .huskReloadDone _ _ => false
  | .retireDue _ _ | .stageAutoUnbind _ _ | .gnewGroupSettle _ | .shareMessage _ | .probeMessage _ => false
  | .cycleWakeMessage _ | .probeRecordExpire _ | .opChange _ | .clockSwitch _ | .slewHoldEnd _ | .slewUnassisted _ => false
  | .errcfgWrite _ | .hostCounterWrite _ _ _ | .hostBar2Access _ | .linkFlitResend _ _ | .linkDown _ _ => false
  | .linkLossComplete _ _ | .eccError _ _ | .coreFreeze _ | .deviceReset | .boot _ => false

end Sys2Proof
end

