-- ==== Sys2Proof/Decode.lean ====
section
/-!
DEFINITION. The instruction word (R56 to R62): a total decoder that names why it refuses a word (R74, with the details
of R321), and an encoder written from the same tables.
-/
set_option Elab.async false
namespace Sys2Proof

/-- Why a word is not an instruction. The number is the detail that an ILLEGAL trap records (R321). -/
inductive Reject where
  | classF         -- 1
  | unassigned     -- 2
  | reservedBits   -- 4: a bit of [101:96]
  | claim          -- 5: claim mode 3, or an index without a claim
  | value          -- 6: a modifier, size, scope, sync or reserved field (R60)
  | register       -- 7: a register outside its file (R62)
  deriving DecidableEq, Repr

/-- The detail of R321. Detail 3, the ILLEGAL function, is an instruction of its own here. -/
def Reject.detail : Reject → Nat
  | .classF => 1
  | .unassigned => 2
  | .reservedBits => 4
  | .claim => 5
  | .value => 6
  | .register => 7

/-- The fields of R56. -/
structure Parts where
  pace  : BitVec 5
  yld   : BitVec 1
  reuse : BitVec 3
  cmode : BitVec 2
  cidx  : BitVec 3
  wait  : BitVec 8
  neg   : BitVec 1
  guard : BitVec 3
  resv  : BitVec 6
  cls   : BitVec 4
  fn    : BitVec 8
  ops   : BitVec 84
  deriving DecidableEq, Repr

def Parts.join (p : Parts) : BitVec 128 :=
  p.pace ++ p.yld ++ p.reuse ++ p.cmode ++ p.cidx ++ p.wait ++ p.neg ++ p.guard ++ p.resv ++ p.cls ++ p.fn ++ p.ops

def Parts.split (w : BitVec 128) : Parts where
  pace := w.extractLsb' 123 5
  yld := w.extractLsb' 122 1
  reuse := w.extractLsb' 119 3
  cmode := w.extractLsb' 117 2
  cidx := w.extractLsb' 114 3
  wait := w.extractLsb' 106 8
  neg := w.extractLsb' 105 1
  guard := w.extractLsb' 102 3
  resv := w.extractLsb' 96 6
  cls := w.extractLsb' 92 4
  fn := w.extractLsb' 84 8
  ops := w.extractLsb' 0 84

/-- The general layout (R58). -/
structure GOps where
  d : BitVec 6
  a : BitVec 6
  b : BitVec 6
  c : BitVec 6
  mod : BitVec 12
  imm : BitVec 48
  deriving DecidableEq, Repr

def GOps.join (g : GOps) : BitVec 84 := g.d ++ g.a ++ g.b ++ g.c ++ g.mod ++ g.imm

def GOps.split (o : BitVec 84) : GOps where
  d := o.extractLsb' 78 6
  a := o.extractLsb' 72 6
  b := o.extractLsb' 66 6
  c := o.extractLsb' 60 6
  mod := o.extractLsb' 48 12
  imm := o.extractLsb' 0 48

/-- The memory layout (R59). -/
structure MOps where
  d : BitVec 6
  a : BitVec 6
  b : BitVec 6
  stream : BitVec 3
  after : BitVec 8
  sync : BitVec 2
  scope : BitVec 3
  size : BitVec 3
  ext : BitVec 1
  mod : BitVec 14
  off : BitVec 32
  deriving DecidableEq, Repr

def MOps.join (m : MOps) : BitVec 84 :=
  m.d ++ m.a ++ m.b ++ m.stream ++ m.after ++ m.sync ++ m.scope ++ m.size ++ m.ext ++ m.mod ++ m.off

def MOps.split (o : BitVec 84) : MOps where
  d := o.extractLsb' 78 6
  a := o.extractLsb' 72 6
  b := o.extractLsb' 66 6
  stream := o.extractLsb' 63 3
  after := o.extractLsb' 55 8
  sync := o.extractLsb' 53 2
  scope := o.extractLsb' 50 3
  size := o.extractLsb' 47 3
  ext := o.extractLsb' 46 1
  mod := o.extractLsb' 32 14
  off := o.extractLsb' 0 32

/-! ### Codes of the fields -/

def bit (b : Bool) : BitVec 1 := if b then 1 else 0
def flag (b : BitVec 1) : Bool := b == 1
def fin8 (b : BitVec 3) : Fin 8 := ⟨b.toNat, b.isLt⟩

/-- Rounding codes (R111). -/
def Rnd.code : Rnd → BitVec 2
  | .rne => 0
  | .rtz => 1
  | .rdn => 2
  | .rup => 3

def Rnd.ofCode (n : BitVec 2) : Option Rnd :=
  match n.toNat with
  | 0 => some .rne
  | 1 => some .rtz
  | 2 => some .rdn
  | 3 => some .rup
  | _ => none

/-- Type codes of class 5 (R107, R126). -/
def FTy.code : FTy → BitVec 4
  | .f32 => 8
  | .f16 => 9
  | .bf16 => 10

def FTy.ofCode (n : BitVec 4) : Option FTy :=
  match n.toNat with
  | 8 => some .f32
  | 9 => some .f16
  | 10 => some .bf16
  | _ => none

/-- Integer type codes of class 6 (R107, R134). -/
def ITy.code : ITy → BitVec 4
  | .i16 => 1
  | .i32 => 2
  | .n16 => 5
  | .n32 => 6

def ITy.ofCode (n : BitVec 4) : Option ITy :=
  match n.toNat with
  | 1 => some .i16
  | 2 => some .i32
  | 5 => some .n16
  | 6 => some .n32
  | _ => none

/-- Type codes of the moving functions of class 6 (R134). -/
def LTy.code : LTy → BitVec 4
  | .int t => t.code
  | .flt t => t.code

def LTy.ofCode (n : BitVec 4) : Option LTy :=
  match ITy.ofCode n with
  | some t => some (.int t)
  | none => (FTy.ofCode n).map .flt

/-- Type codes of class 7 (R107, R140). -/
def CTy.code : CTy → BitVec 4
  | .f32 => 8
  | .f16 => 9
  | .bf16 => 10
  | .e8m12 => 11

def CTy.ofCode (n : BitVec 4) : Option CTy :=
  match n.toNat with
  | 8 => some .f32
  | 9 => some .f16
  | 10 => some .bf16
  | 11 => some .e8m12
  | _ => none

/-- Type codes of MFMT (R107, R245). -/
def MTy.code : MTy → BitVec 4
  | .i8 => 0
  | .n8 => 4
  | .f16 => 9
  | .bf16 => 10
  | .e8m12 => 11
  | .q8 => 13

def MTy.ofCode (n : BitVec 4) : Option MTy :=
  match n.toNat with
  | 0 => some .i8
  | 4 => some .n8
  | 9 => some .f16
  | 10 => some .bf16
  | 11 => some .e8m12
  | 13 => some .q8
  | _ => none

/-- Drain formats (R245). -/
def DFmt.code : DFmt → BitVec 2
  | .bf16 => 0
  | .f32 => 1
  | .i32 => 2
  | .f40 => 3

def DFmt.ofCode (n : BitVec 2) : Option DFmt :=
  match n.toNat with
  | 0 => some .bf16
  | 1 => some .f32
  | 2 => some .i32
  | 3 => some .f40
  | _ => none

/-- Condition codes (R85). -/
def Cc.code : Cc → BitVec 4
  | .eq => 0
  | .ne => 1
  | .lt => 2
  | .le => 3
  | .gt => 4
  | .ge => 5
  | .ltn => 6
  | .len => 7
  | .gtn => 8
  | .gen => 9

def Cc.ofCode (n : BitVec 4) : Option Cc :=
  match n.toNat with
  | 0 => some .eq
  | 1 => some .ne
  | 2 => some .lt
  | 3 => some .le
  | 4 => some .gt
  | 5 => some .ge
  | 6 => some .ltn
  | 7 => some .len
  | 8 => some .gtn
  | 9 => some .gen
  | _ => none

/-- Condition codes of FCMP (R131). -/
def FCc.code : FCc → BitVec 3
  | .eq => 0
  | .ne => 1
  | .lt => 2
  | .le => 3
  | .gt => 4
  | .ge => 5
  | .ord => 6
  | .uno => 7

def FCc.ofCode (n : BitVec 3) : Option FCc :=
  match n.toNat with
  | 0 => some .eq
  | 1 => some .ne
  | 2 => some .lt
  | 3 => some .le
  | 4 => some .gt
  | 5 => some .ge
  | 6 => some .ord
  | 7 => some .uno
  | _ => none

/-- Branch tests (R89). -/
def BrTest.code : BrTest → BitVec 2
  | .l0 => 0
  | .any => 1
  | .all => 2

def BrTest.ofCode (n : BitVec 2) : Option BrTest :=
  match n.toNat with
  | 0 => some .l0
  | 1 => some .any
  | 2 => some .all
  | _ => none

/-- Sizes (R59). -/
def Size.code : Size → BitVec 3
  | .b => 0
  | .h => 1
  | .w => 2
  | .d => 3
  | .v => 4

def Size.ofCode (n : BitVec 3) : Option Size :=
  match n.toNat with
  | 0 => some .b
  | 1 => some .h
  | 2 => some .w
  | 3 => some .d
  | 4 => some .v
  | _ => none

/-- Sync codes (R59). -/
def Sync.code : Sync → BitVec 2
  | .none => 0
  | .acq => 1
  | .rel => 2
  | .acqrel => 3

def Sync.ofCode (n : BitVec 2) : Option Sync :=
  match n.toNat with
  | 0 => some .none
  | 1 => some .acq
  | 2 => some .rel
  | 3 => some .acqrel
  | _ => Option.none

/-- Scope codes (R59). -/
def Scope.code : Scope → BitVec 3
  | .core => 0
  | .cluster => 1
  | .die => 2
  | .device => 3
  | .system => 4

def Scope.ofCode (n : BitVec 3) : Option Scope :=
  match n.toNat with
  | 0 => some .core
  | 1 => some .cluster
  | 2 => some .die
  | 3 => some .device
  | 4 => some .system
  | _ => none

/-- Operations of AMO (R175). -/
def AmoOp.code : AmoOp → BitVec 4
  | .add => 0
  | .and => 1
  | .or => 2
  | .xor => 3
  | .min => 4
  | .max => 5
  | .minn => 6
  | .maxn => 7
  | .swap => 8

def AmoOp.ofCode (n : BitVec 4) : Option AmoOp :=
  match n.toNat with
  | 0 => some .add
  | 1 => some .and
  | 2 => some .or
  | 3 => some .xor
  | 4 => some .min
  | 5 => some .max
  | 6 => some .minn
  | 7 => some .maxn
  | 8 => some .swap
  | _ => none

/-- Targets of PFX (R174). -/
def PfxTarget.code : PfxTarget → BitVec 2
  | .nc => 0
  | .ro => 1
  | .sl => 2

def PfxTarget.ofCode (n : BitVec 2) : Option PfxTarget :=
  match n.toNat with
  | 0 => some .nc
  | 1 => some .ro
  | 2 => some .sl
  | _ => none

/-- Sources of TBLLD (R149). -/
def TblSrc.code : TblSrc → BitVec 2
  | .mem => 0
  | .q43 => 1
  | .q52 => 2

def TblSrc.ofCode (n : BitVec 2) : Option TblSrc :=
  match n.toNat with
  | 0 => some .mem
  | 1 => some .q43
  | 2 => some .q52
  | _ => none

/-- Sources of MTBL (R245). -/
def MtblSrc.code : MtblSrc → BitVec 2
  | .mem => 0
  | .ta => 1
  | .tb => 2

def MtblSrc.ofCode (n : BitVec 2) : Option MtblSrc :=
  match n.toNat with
  | 0 => some .mem
  | 1 => some .ta
  | 2 => some .tb
  | _ => none

/-- Numbers of the control registers (R94). -/
def CReg.code : CReg → BitVec 12
  | .ident => 0
  | .feat => 1
  | .asid => 2
  | .hintctl => 3
  | .fpstat => 4
  | .tstat => 5
  | .strmsnap => 6
  | .shares => 7
  | .opnow => 8
  | .time => 9
  | .xferid => 10
  | .uepc => 11
  | .tvec => 16
  | .uvec => 17
  | .tframe => 18
  | .slhash => 19
  | .waymask => 20
  | .rtcode => 21
  | .rtlimit => 22
  | .fwvec => 24
  | .fwframe => 25
  | .upcode => 26
  | .uplimit => 27

def CReg.ofCode (n : BitVec 12) : Option CReg :=
  match n.toNat with
  | 0 => some .ident
  | 1 => some .feat
  | 2 => some .asid
  | 3 => some .hintctl
  | 4 => some .fpstat
  | 5 => some .tstat
  | 6 => some .strmsnap
  | 7 => some .shares
  | 8 => some .opnow
  | 9 => some .time
  | 10 => some .xferid
  | 11 => some .uepc
  | 16 => some .tvec
  | 17 => some .uvec
  | 18 => some .tframe
  | 19 => some .slhash
  | 20 => some .waymask
  | 21 => some .rtcode
  | 22 => some .rtlimit
  | 24 => some .fwvec
  | 25 => some .fwframe
  | 26 => some .upcode
  | 27 => some .uplimit
  | _ => none

/-- Claim mode and index (R56); none where the pair is not an instruction. -/
def Claim.ofBits (mode : BitVec 2) (i : BitVec 3) : Option Claim :=
  match mode.toNat with
  | 0 => if i == 0 then some .none else Option.none
  | 1 => some (.written (fin8 i))
  | 2 => some (.read (fin8 i))
  | _ => Option.none

def Claim.mode : Claim → BitVec 2
  | .none => 0
  | .written _ => 1
  | .read _ => 2

def Claim.idx : Claim → BitVec 3
  | .none => 0
  | .written k => BitVec.ofFin k
  | .read k => BitVec.ofFin k

/-- The scheduling fields and the guard of a word; none where the claim is malformed (R74). -/
def Parts.hdr (p : Parts) : Option Hdr :=
  (Claim.ofBits p.cmode p.cidx).map fun c =>
    ⟨p.pace, flag p.yld, p.reuse, c, p.wait, flag p.neg, fin8 p.guard⟩

/-! ### Checked reading of operands. Every check of detail 6 stands before the register checks of detail 7. -/

abbrev Decoded := Except Reject Instr

/-- A condition of R60. -/
def need (c : Bool) (k : Decoded) : Decoded := if c then k else .error .value

/-- A code that the entry lists. -/
def want {α : Type} (o : Option α) (k : α → Decoded) : Decoded :=
  match o with
  | some v => k v
  | none => .error .value

/-- A register number within a file of n (R62). -/
def reg (n : Nat) (f : BitVec 6) (k : Fin n → Decoded) : Decoded :=
  if h : f.toNat < n then k ⟨f.toNat, h⟩ else .error .register

/-- The 6-bit field that names a register. -/
def num {n : Nat} (r : Fin n) : BitVec 6 := BitVec.ofNat 6 r.val

/-- The ordering fields of R59, which the entry must allow. -/
def ordOf (m : MOps) (allow : Ord → Bool) (k : Ord → Decoded) : Decoded :=
  want (Sync.ofCode m.sync) fun y =>
  want (Scope.ofCode m.scope) fun c =>
  let o : Ord := ⟨fin8 m.stream, m.after, y, c⟩
  need (allow o) (k o)

/-- An M word with the given ordering and every other field zero. -/
def MOps.ofOrd (o : Ord) : MOps :=
  ⟨0, 0, 0, BitVec.ofFin o.stream, o.after, o.sync.code, o.scope.code, 0, 0, 0, 0⟩

def GOps.zero : GOps := ⟨0, 0, 0, 0, 0, 0⟩

/-- The low n bits of an immediate are all that is set (R61). -/
def fits (n : Nat) (imm : BitVec 48) : Bool := imm.toNat < 2 ^ n

/-- A counter number of four bits (R219). -/
def cntr (b : BitVec 4) : CtrReg := ⟨b.toNat, b.isLt⟩

/-- The five kinds of PARK (R306); only .bar reads b. -/
def decodePark (h : Hdr) (o : Ord) (kind : Nat) (m : MOps) : Decoded :=
  match kind with
  | 0 => need (m.b == 0) <| reg 32 m.a fun a => .ok (.parkLk h o a m.off)
  | 1 => need (m.b == 0) <| reg 32 m.a fun a => .ok (.parkQn h o a m.off)
  | 2 => need (m.b == 0) <| reg 32 m.a fun a => .ok (.parkQs h o a m.off)
  | 3 => reg 32 m.a fun a => reg 32 m.b fun b => .ok (.parkBar h o a b m.off)
  | 4 => need (m.b == 0) <| reg 32 m.a fun a => .ok (.parkRp h o a m.off)
  | _ => .error .value

/-- The functions of class 0 (R77, R94 to R105). -/
def decodeClass0 (h : Hdr) (fn : Nat) (ops : BitVec 84) : Decoded :=
  let g := GOps.split ops
  match fn with
  | 1 =>
    need (g.d == 0 && g.a == 0 && g.b == 0 && g.c == 0 && g.mod == 0 && g.imm == 0) <|  .ok (.nop h )
  | 2 =>
    need (g.d == 0 && g.a == 0 && g.b == 0 && g.c == 0 && g.mod == 0 && fits 16 g.imm) <|
     .ok (.brk h (g.imm.setWidth 16))
  | 3 =>
    need (g.d == 0 && g.a == 0 && g.b == 0 && g.c == 0 && g.mod == 0 && fits 16 g.imm) <|
     .ok (.trap h (g.imm.setWidth 16))
  | 4 =>
    need (g.d == 0 && g.a == 0 && g.b == 0 && g.c == 0 && g.mod == 0 && g.imm == 0) <|  .ok (.trapret h )
  | 5 =>
    need (g.d == 0 && g.a == 0 && g.b == 0 && g.c == 0 && g.mod == 0 && g.imm == 0) <|  .ok (.upret h )
  | 6 =>
    need (g.a == 0 && g.b == 0 && g.c == 0 && g.imm == 0) <| want (CReg.ofCode g.mod) fun r =>
    reg 32 g.d fun d => .ok (.crrd h d r)
  | 7 =>
    need (g.d == 0 && g.b == 0 && g.c == 0 && g.imm == 0) <| want (CReg.ofCode g.mod) fun r =>
    reg 32 g.a fun a => .ok (.crwr h a r)
  | 8 =>
    need (g.b == 0 && g.c == 0 && g.imm == 0) <| want (CReg.ofCode g.mod) fun r => reg 32 g.d fun d =>
    reg 32 g.a fun a => .ok (.crset h d a r)
  | 9 =>
    need (g.b == 0 && g.c == 0 && g.imm == 0) <| want (CReg.ofCode g.mod) fun r => reg 32 g.d fun d =>
    reg 32 g.a fun a => .ok (.crclr h d a r)
  | 10 =>
    need (g.a == 0 && g.b == 0 && g.c == 0 && g.mod == 0 && g.imm == 0) <| reg 32 g.d fun d => .ok (.ident h d)
  | 11 =>
    need (g.a == 0 && g.b == 0 && g.c == 0 && g.mod == 0 && g.imm == 0) <| reg 32 g.d fun d => .ok (.feat h d)
  | 12 =>
    need (g.d == 0 && g.a == 0 && g.b == 0 && g.c == 0 && g.mod == 0 && g.imm == 0) <|  .ok (.halt h )
  | 13 =>
    need (g.c == 0 && g.mod == 0 && fits 32 g.imm) <| reg 32 g.d fun d => reg 16 g.a fun c =>
    reg 32 g.b fun b => .ok (.sleep h d c b (g.imm.setWidth 32))
  | _ => .error .unassigned

/-- The functions of class 1 (R88). -/
def decodeClass1 (h : Hdr) (fn : Nat) (ops : BitVec 84) : Decoded :=
  let g := GOps.split ops
  match fn with
  | 0 =>
    need (g.d == 0 && g.b == 0 && g.c == 0 && g.mod.extractLsb' 4 8 == 0 && g.mod.extractLsb' 2 1 == 0) <|
    want (BrTest.ofCode (g.mod.extractLsb' 0 2)) fun t => reg 8 g.a fun p =>
    .ok (.br h p t (flag (g.mod.extractLsb' 3 1)) g.imm)
  | 1 =>
    need (g.d == 0 && g.b == 0 && g.c == 0 && g.mod == 0) <| reg 32 g.a fun a => .ok (.bri h a g.imm)
  | 2 =>
    need (g.d == 0 && g.a == 0 && g.b == 0 && g.c == 0 && g.mod == 0) <|  .ok (.call h g.imm)
  | 3 =>
    need (g.d == 0 && g.b == 0 && g.c == 0 && g.mod == 0) <| reg 32 g.a fun a => .ok (.calli h a g.imm)
  | 4 =>
    need (g.d == 0 && g.b == 0 && g.c == 0 && g.mod == 0 && g.imm == 0) <| reg 32 g.a fun a => .ok (.ret h a)
  | 5 =>
    need (g.d == 0 && g.b == 0 && g.c == 0 && g.mod == 0) <| reg 32 g.a fun a => .ok (.loop h a g.imm)
  | 6 =>
    need (g.d == 0 && g.a == 0 && g.b == 0 && g.c == 0 && g.mod == 0 && g.imm == 0) <|  .ok (.endTask h )
  | 7 =>
    need (g.d == 0 && g.a == 0 && g.b == 0 && g.c == 0 && g.mod == 0 && g.imm == 0) <|  .ok (.yieldSlot h )
  | 8 =>
    need (g.d == 0 && g.a == 0 && g.b == 0 && g.c == 0 && g.mod.extractLsb' 4 8 == 0) <|
    .ok (.ipf h (g.mod.extractLsb' 0 4) g.imm)
  | _ => .error .unassigned

/-- The functions of class 2 (R79). -/
def decodeClass2 (h : Hdr) (fn : Nat) (ops : BitVec 84) : Decoded :=
  let g := GOps.split ops
  match fn with
  | 0 =>
    need (g.c == 0 && g.imm == 0 && g.mod.extractLsb' 1 11 == 0) <| reg 32 g.d fun d => reg 32 g.a fun a =>
    reg 32 g.b fun b => .ok (.add h (flag (g.mod.extractLsb' 0 1)) d a b)
  | 1 =>
    need (g.c == 0 && g.imm == 0 && g.mod.extractLsb' 1 11 == 0) <| reg 32 g.d fun d => reg 32 g.a fun a =>
    reg 32 g.b fun b => .ok (.sub h (flag (g.mod.extractLsb' 0 1)) d a b)
  | 2 =>
    need (g.b == 0 && g.c == 0 && g.mod.extractLsb' 1 11 == 0) <| reg 32 g.d fun d => reg 32 g.a fun a =>
    .ok (.addi h (flag (g.mod.extractLsb' 0 1)) d a g.imm)
  | 3 =>
    need (g.c == 0 && g.imm == 0 && g.mod.extractLsb' 1 11 == 0) <| reg 32 g.d fun d => reg 32 g.a fun a =>
    reg 32 g.b fun b => .ok (.mul h (flag (g.mod.extractLsb' 0 1)) d a b)
  | 4 =>
    need (g.c == 0 && g.imm == 0 && g.mod.extractLsb' 1 11 == 0) <| reg 32 g.d fun d => reg 32 g.a fun a =>
    reg 32 g.b fun b => .ok (.mulh h (flag (g.mod.extractLsb' 0 1)) d a b)
  | 5 =>
    need (g.c == 0 && g.imm == 0 && g.mod.extractLsb' 1 11 == 0) <| reg 32 g.d fun d => reg 32 g.a fun a =>
    reg 32 g.b fun b => .ok (.mulhn h (flag (g.mod.extractLsb' 0 1)) d a b)
  | 6 =>
    need (g.imm == 0 && g.mod.extractLsb' 1 11 == 0) <| reg 32 g.d fun d => reg 32 g.a fun a =>
    reg 32 g.b fun b => reg 32 g.c fun c => .ok (.mad h (flag (g.mod.extractLsb' 0 1)) d a b c)
  | 7 =>
    need (g.c == 0 && g.imm == 0 && g.mod.extractLsb' 1 11 == 0) <| reg 32 g.d fun d => reg 32 g.a fun a =>
    reg 32 g.b fun b => .ok (.div h (flag (g.mod.extractLsb' 0 1)) d a b)
  | 8 =>
    need (g.c == 0 && g.imm == 0 && g.mod.extractLsb' 1 11 == 0) <| reg 32 g.d fun d => reg 32 g.a fun a =>
    reg 32 g.b fun b => .ok (.divn h (flag (g.mod.extractLsb' 0 1)) d a b)
  | 9 =>
    need (g.c == 0 && g.imm == 0 && g.mod.extractLsb' 1 11 == 0) <| reg 32 g.d fun d => reg 32 g.a fun a =>
    reg 32 g.b fun b => .ok (.rem h (flag (g.mod.extractLsb' 0 1)) d a b)
  | 10 =>
    need (g.c == 0 && g.imm == 0 && g.mod.extractLsb' 1 11 == 0) <| reg 32 g.d fun d => reg 32 g.a fun a =>
    reg 32 g.b fun b => .ok (.remn h (flag (g.mod.extractLsb' 0 1)) d a b)
  | 11 =>
    need (g.c == 0 && g.mod == 0 && g.imm == 0) <| reg 32 g.d fun d => reg 32 g.a fun a => reg 32 g.b fun b =>
    .ok (.and h d a b)
  | 12 =>
    need (g.c == 0 && g.mod == 0 && g.imm == 0) <| reg 32 g.d fun d => reg 32 g.a fun a => reg 32 g.b fun b =>
    .ok (.or h d a b)
  | 13 =>
    need (g.c == 0 && g.mod == 0 && g.imm == 0) <| reg 32 g.d fun d => reg 32 g.a fun a => reg 32 g.b fun b =>
    .ok (.xor h d a b)
  | 14 =>
    need (g.c == 0 && g.mod == 0 && g.imm == 0) <| reg 32 g.d fun d => reg 32 g.a fun a => reg 32 g.b fun b =>
    .ok (.andn h d a b)
  | 15 =>
    need (g.c == 0 && g.mod == 0 && g.imm == 0) <| reg 32 g.d fun d => reg 32 g.a fun a => reg 32 g.b fun b =>
    .ok (.orn h d a b)
  | 16 =>
    need (g.c == 0 && g.imm == 0 && g.mod.extractLsb' 1 11 == 0) <| reg 32 g.d fun d => reg 32 g.a fun a =>
    reg 32 g.b fun b => .ok (.shl h (flag (g.mod.extractLsb' 0 1)) d a b)
  | 17 =>
    need (g.c == 0 && g.imm == 0 && g.mod.extractLsb' 1 11 == 0) <| reg 32 g.d fun d => reg 32 g.a fun a =>
    reg 32 g.b fun b => .ok (.shr h (flag (g.mod.extractLsb' 0 1)) d a b)
  | 18 =>
    need (g.c == 0 && g.imm == 0 && g.mod.extractLsb' 1 11 == 0) <| reg 32 g.d fun d => reg 32 g.a fun a =>
    reg 32 g.b fun b => .ok (.sar h (flag (g.mod.extractLsb' 0 1)) d a b)
  | 19 =>
    need (g.c == 0 && g.imm == 0 && g.mod.extractLsb' 1 11 == 0) <| reg 32 g.d fun d => reg 32 g.a fun a =>
    reg 32 g.b fun b => .ok (.rol h (flag (g.mod.extractLsb' 0 1)) d a b)
  | 20 =>
    need (g.b == 0 && g.c == 0 && g.mod.extractLsb' 1 11 == 0 && fits 6 g.imm && shiftOk (flag (g.mod.extractLsb' 0 1)) (g.imm.setWidth 6)) <|
    reg 32 g.d fun d => reg 32 g.a fun a => .ok (.shli h (flag (g.mod.extractLsb' 0 1)) d a (g.imm.setWidth 6))
  | 21 =>
    need (g.b == 0 && g.c == 0 && g.mod.extractLsb' 1 11 == 0 && fits 6 g.imm && shiftOk (flag (g.mod.extractLsb' 0 1)) (g.imm.setWidth 6)) <|
    reg 32 g.d fun d => reg 32 g.a fun a => .ok (.shri h (flag (g.mod.extractLsb' 0 1)) d a (g.imm.setWidth 6))
  | 22 =>
    need (g.b == 0 && g.c == 0 && g.mod.extractLsb' 1 11 == 0 && fits 6 g.imm && shiftOk (flag (g.mod.extractLsb' 0 1)) (g.imm.setWidth 6)) <|
    reg 32 g.d fun d => reg 32 g.a fun a => .ok (.sari h (flag (g.mod.extractLsb' 0 1)) d a (g.imm.setWidth 6))
  | _ => .error .unassigned

/-- The functions of class 3 (R82). -/
def decodeClass3 (h : Hdr) (fn : Nat) (ops : BitVec 84) : Decoded :=
  let g := GOps.split ops
  match fn with
  | 0 =>
    need (g.c == 0 && g.mod == 0 && g.imm == 0) <| reg 32 g.d fun d => reg 32 g.a fun a => reg 32 g.b fun b =>
    .ok (.min h d a b)
  | 1 =>
    need (g.c == 0 && g.mod == 0 && g.imm == 0) <| reg 32 g.d fun d => reg 32 g.a fun a => reg 32 g.b fun b =>
    .ok (.max h d a b)
  | 2 =>
    need (g.c == 0 && g.mod == 0 && g.imm == 0) <| reg 32 g.d fun d => reg 32 g.a fun a => reg 32 g.b fun b =>
    .ok (.minn h d a b)
  | 3 =>
    need (g.c == 0 && g.mod == 0 && g.imm == 0) <| reg 32 g.d fun d => reg 32 g.a fun a => reg 32 g.b fun b =>
    .ok (.maxn h d a b)
  | 4 =>
    need (g.b == 0 && g.c == 0 && g.mod == 0 && g.imm == 0) <| reg 32 g.d fun d => reg 32 g.a fun a =>
    .ok (.clz h d a)
  | 5 =>
    need (g.b == 0 && g.c == 0 && g.mod == 0 && g.imm == 0) <| reg 32 g.d fun d => reg 32 g.a fun a =>
    .ok (.ctz h d a)
  | 6 =>
    need (g.b == 0 && g.c == 0 && g.mod == 0 && g.imm == 0) <| reg 32 g.d fun d => reg 32 g.a fun a =>
    .ok (.popc h d a)
  | 7 =>
    need (g.b == 0 && g.c == 0 && g.mod == 0 && g.imm == 0) <| reg 32 g.d fun d => reg 32 g.a fun a =>
    .ok (.brev h d a)
  | 8 =>
    need (g.b == 0 && g.c == 0 && g.mod == 0 && fits 12 g.imm) <| reg 32 g.d fun d => reg 32 g.a fun a =>
    .ok (.bfx h d a (g.imm.extractLsb' 0 6) (g.imm.extractLsb' 6 6))
  | 9 =>
    need (g.b == 0 && g.c == 0 && g.mod == 0 && fits 12 g.imm) <| reg 32 g.d fun d => reg 32 g.a fun a =>
    .ok (.bfxz h d a (g.imm.extractLsb' 0 6) (g.imm.extractLsb' 6 6))
  | 10 =>
    need (g.c == 0 && g.mod == 0 && fits 12 g.imm) <| reg 32 g.d fun d => reg 32 g.a fun a =>
    reg 32 g.b fun b => .ok (.bfi h d a b (g.imm.extractLsb' 0 6) (g.imm.extractLsb' 6 6))
  | 11 =>
    need (g.c == 0 && g.mod.extractLsb' 4 8 == 0 && (g.mod.extractLsb' 1 3).toNat < 6 && (!flag (g.mod.extractLsb' 0 1) || g.a == 0)) <|
    reg 32 g.d fun d => reg 32 g.a fun a => reg 32 g.b fun b =>
    .ok (.lea h d a b (flag (g.mod.extractLsb' 0 1)) (g.mod.extractLsb' 1 3) g.imm)
  | 12 =>
    need (g.a == 0 && g.b == 0 && g.c == 0 && g.mod == 0) <| reg 32 g.d fun d => .ok (.li h d g.imm)
  | 13 =>
    need (g.b == 0 && g.c == 0 && g.mod == 0 && fits 16 g.imm) <| reg 32 g.d fun d => reg 32 g.a fun a =>
    .ok (.lih h d a (g.imm.setWidth 16))
  | 14 =>
    need (g.b == 0 && g.c == 0 && g.mod == 0 && g.imm == 0) <| reg 32 g.d fun d => reg 32 g.a fun a =>
    .ok (.mov h d a)
  | 15 =>
    need (g.mod == 0 && g.imm == 0) <| reg 32 g.d fun d => reg 32 g.a fun a => reg 32 g.b fun b =>
    reg 8 g.c fun c => .ok (.sel h d a b c)
  | _ => .error .unassigned

/-- The functions of class 4 (R85, R86). -/
def decodeClass4 (h : Hdr) (fn : Nat) (ops : BitVec 84) : Decoded :=
  let g := GOps.split ops
  match fn with
  | 0 =>
    need (g.c == 0 && g.imm == 0 && g.mod.extractLsb' 5 7 == 0) <|
    want (Cc.ofCode (g.mod.extractLsb' 0 4)) fun cc => reg 8 g.d fun d => reg 32 g.a fun a =>
    reg 32 g.b fun b => .ok (.cmp h cc (flag (g.mod.extractLsb' 4 1)) d a b)
  | 1 =>
    need (g.b == 0 && g.c == 0 && g.mod.extractLsb' 5 7 == 0) <|
    want (Cc.ofCode (g.mod.extractLsb' 0 4)) fun cc => reg 8 g.d fun d => reg 32 g.a fun a =>
    .ok (.cmpi h cc (flag (g.mod.extractLsb' 4 1)) d a g.imm)
  | 2 =>
    need (g.c == 0 && g.mod == 0 && g.imm == 0) <| reg 8 g.d fun d => reg 8 g.a fun a => reg 8 g.b fun b =>
    .ok (.pand h d a b)
  | 3 =>
    need (g.c == 0 && g.mod == 0 && g.imm == 0) <| reg 8 g.d fun d => reg 8 g.a fun a => reg 8 g.b fun b =>
    .ok (.por h d a b)
  | 4 =>
    need (g.c == 0 && g.mod == 0 && g.imm == 0) <| reg 8 g.d fun d => reg 8 g.a fun a => reg 8 g.b fun b =>
    .ok (.pxor h d a b)
  | 5 =>
    need (g.b == 0 && g.c == 0 && g.mod == 0 && g.imm == 0) <| reg 8 g.d fun d => reg 8 g.a fun a =>
    .ok (.pnot h d a)
  | 6 =>
    need (g.b == 0 && g.c == 0 && g.mod.extractLsb' 1 11 == 0) <|
    if flag (g.mod.extractLsb' 0 1) then need (g.imm == 0) <| reg 8 g.d fun d => reg 32 g.a fun a =>
    .ok (.psetX h d a) else need (g.a == 0 && fits 8 g.imm) <| reg 8 g.d fun d =>
    .ok (.pset h d (g.imm.setWidth 8))
  | 7 =>
    need (g.b == 0 && g.c == 0 && g.mod == 0 && g.imm == 0) <| reg 32 g.d fun d => reg 8 g.a fun a =>
    .ok (.pget h d a)
  | _ => .error .unassigned

/-- The functions of class 5 (R127). -/
def decodeClass5 (h : Hdr) (fn : Nat) (ops : BitVec 84) : Decoded :=
  let g := GOps.split ops
  match fn with
  | 0 =>
    need (g.c == 0 && g.imm == 0 && g.mod.extractLsb' 6 6 == 0) <|
    want (FTy.ofCode (g.mod.extractLsb' 0 4)) fun t => want (Rnd.ofCode (g.mod.extractLsb' 4 2)) fun rm =>
    reg 16 g.d fun d => reg 16 g.a fun a => reg 16 g.b fun b => .ok (.fadd h t rm d a b)
  | 1 =>
    need (g.c == 0 && g.imm == 0 && g.mod.extractLsb' 6 6 == 0) <|
    want (FTy.ofCode (g.mod.extractLsb' 0 4)) fun t => want (Rnd.ofCode (g.mod.extractLsb' 4 2)) fun rm =>
    reg 16 g.d fun d => reg 16 g.a fun a => reg 16 g.b fun b => .ok (.fsub h t rm d a b)
  | 2 =>
    need (g.c == 0 && g.imm == 0 && g.mod.extractLsb' 6 6 == 0) <|
    want (FTy.ofCode (g.mod.extractLsb' 0 4)) fun t => want (Rnd.ofCode (g.mod.extractLsb' 4 2)) fun rm =>
    reg 16 g.d fun d => reg 16 g.a fun a => reg 16 g.b fun b => .ok (.fmul h t rm d a b)
  | 3 =>
    need (g.imm == 0 && g.mod.extractLsb' 6 6 == 0) <| want (FTy.ofCode (g.mod.extractLsb' 0 4)) fun t =>
    want (Rnd.ofCode (g.mod.extractLsb' 4 2)) fun rm => reg 16 g.d fun d => reg 16 g.a fun a =>
    reg 16 g.b fun b => reg 16 g.c fun c => .ok (.fma h t rm d a b c)
  | 4 =>
    need (g.imm == 0 && g.mod.extractLsb' 6 6 == 0) <| want (FTy.ofCode (g.mod.extractLsb' 0 4)) fun t =>
    want (Rnd.ofCode (g.mod.extractLsb' 4 2)) fun rm => reg 16 g.d fun d => reg 16 g.a fun a =>
    reg 16 g.b fun b => reg 16 g.c fun c => .ok (.fms h t rm d a b c)
  | 5 =>
    need (g.imm == 0 && g.mod.extractLsb' 6 6 == 0) <| want (FTy.ofCode (g.mod.extractLsb' 0 4)) fun t =>
    want (Rnd.ofCode (g.mod.extractLsb' 4 2)) fun rm => reg 16 g.d fun d => reg 16 g.a fun a =>
    reg 16 g.b fun b => reg 16 g.c fun c => .ok (.fnma h t rm d a b c)
  | 6 =>
    need (g.c == 0 && g.imm == 0 && g.mod.extractLsb' 6 6 == 0 && g.mod.extractLsb' 4 2 == 0) <|
    want (FTy.ofCode (g.mod.extractLsb' 0 4)) fun t => reg 16 g.d fun d => reg 16 g.a fun a =>
    reg 16 g.b fun b => .ok (.fmin h t d a b)
  | 7 =>
    need (g.c == 0 && g.imm == 0 && g.mod.extractLsb' 6 6 == 0 && g.mod.extractLsb' 4 2 == 0) <|
    want (FTy.ofCode (g.mod.extractLsb' 0 4)) fun t => reg 16 g.d fun d => reg 16 g.a fun a =>
    reg 16 g.b fun b => .ok (.fmax h t d a b)
  | 8 =>
    need (g.b == 0 && g.c == 0 && g.imm == 0 && g.mod.extractLsb' 6 6 == 0 && g.mod.extractLsb' 4 2 == 0) <|
    want (FTy.ofCode (g.mod.extractLsb' 0 4)) fun t => reg 16 g.d fun d => reg 16 g.a fun a =>
    .ok (.fabs h t d a)
  | 9 =>
    need (g.b == 0 && g.c == 0 && g.imm == 0 && g.mod.extractLsb' 6 6 == 0 && g.mod.extractLsb' 4 2 == 0) <|
    want (FTy.ofCode (g.mod.extractLsb' 0 4)) fun t => reg 16 g.d fun d => reg 16 g.a fun a =>
    .ok (.fneg h t d a)
  | 10 =>
    need (g.c == 0 && g.imm == 0 && g.mod.extractLsb' 6 6 == 0) <|
    want (FTy.ofCode (g.mod.extractLsb' 0 4)) fun t => want (Rnd.ofCode (g.mod.extractLsb' 4 2)) fun rm =>
    reg 16 g.d fun d => reg 16 g.a fun a => reg 16 g.b fun b => .ok (.fdiv h t rm d a b)
  | 11 =>
    need (g.b == 0 && g.c == 0 && g.imm == 0 && g.mod.extractLsb' 6 6 == 0) <|
    want (FTy.ofCode (g.mod.extractLsb' 0 4)) fun t => want (Rnd.ofCode (g.mod.extractLsb' 4 2)) fun rm =>
    reg 16 g.d fun d => reg 16 g.a fun a => .ok (.fsqrt h t rm d a)
  | 12 =>
    need (g.b == 0 && g.c == 0 && g.imm == 0 && g.mod.extractLsb' 6 6 == 0) <|
    want (FTy.ofCode (g.mod.extractLsb' 0 4)) fun t => want (Rnd.ofCode (g.mod.extractLsb' 4 2)) fun rm =>
    reg 16 g.d fun d => reg 16 g.a fun a => .ok (.frcp h t rm d a)
  | 13 =>
    need (g.b == 0 && g.c == 0 && g.imm == 0 && g.mod.extractLsb' 6 6 == 0) <|
    want (FTy.ofCode (g.mod.extractLsb' 0 4)) fun t => want (Rnd.ofCode (g.mod.extractLsb' 4 2)) fun rm =>
    reg 16 g.d fun d => reg 16 g.a fun a => .ok (.frsq h t rm d a)
  | 14 =>
    need (g.b == 0 && g.c == 0 && g.imm == 0 && g.mod.extractLsb' 6 6 == 0) <|
    want (FTy.ofCode (g.mod.extractLsb' 0 4)) fun t => want (Rnd.ofCode (g.mod.extractLsb' 4 2)) fun rm =>
    reg 16 g.d fun d => reg 16 g.a fun a => .ok (.fexp2 h t rm d a)
  | 15 =>
    need (g.b == 0 && g.c == 0 && g.imm == 0 && g.mod.extractLsb' 6 6 == 0) <|
    want (FTy.ofCode (g.mod.extractLsb' 0 4)) fun t => want (Rnd.ofCode (g.mod.extractLsb' 4 2)) fun rm =>
    reg 16 g.d fun d => reg 16 g.a fun a => .ok (.flog2 h t rm d a)
  | 16 =>
    need (g.c == 0 && g.imm == 0 && g.mod.extractLsb' 10 2 == 0 && g.mod.extractLsb' 4 2 == 0) <|
    want (FTy.ofCode (g.mod.extractLsb' 0 4)) fun t => want (FCc.ofCode (g.mod.extractLsb' 6 3)) fun cc =>
    need (oddOk t.bits (flag (g.mod.extractLsb' 9 1))) <| reg 8 g.d fun d => reg 16 g.a fun a =>
    reg 16 g.b fun b => .ok (.fcmp h cc t (flag (g.mod.extractLsb' 9 1)) d a b)
  | 17 =>
    need (g.b == 0 && g.c == 0 && g.imm == 0 && g.mod.extractLsb' 6 6 == 0 && g.mod.extractLsb' 4 2 == 0) <|
    want (FTy.ofCode (g.mod.extractLsb' 0 4)) fun t => reg 16 g.d fun d => reg 16 g.a fun a =>
    .ok (.fclass h t d a)
  | 18 =>
    need (g.c == 0 && g.imm == 0 && g.mod.extractLsb' 6 6 == 0) <|
    want (FTy.ofCode (g.mod.extractLsb' 0 4)) fun t => want (Rnd.ofCode (g.mod.extractLsb' 4 2)) fun rm =>
    reg 16 g.d fun d => reg 16 g.a fun a => reg 16 g.b fun b => .ok (.fscale h t rm d a b)
  | 19 =>
    need (g.b == 0 && g.c == 0 && g.imm == 0 && g.mod.extractLsb' 6 6 == 0) <|
    want (FTy.ofCode (g.mod.extractLsb' 0 4)) fun t => want (Rnd.ofCode (g.mod.extractLsb' 4 2)) fun rm =>
    reg 32 g.d fun d => reg 16 g.a fun a => .ok (.fred h t rm d a)
  | 20 =>
    need (g.b == 0 && g.c == 0 && g.imm == 0 && g.mod.extractLsb' 6 6 == 0 && g.mod.extractLsb' 4 2 == 0) <|
    want (FTy.ofCode (g.mod.extractLsb' 0 4)) fun t => reg 32 g.d fun d => reg 16 g.a fun a =>
    .ok (.fredmax h t d a)
  | 21 =>
    need (g.b == 0 && g.c == 0 && g.imm == 0 && g.mod.extractLsb' 6 6 == 0 && g.mod.extractLsb' 4 2 == 0) <|
    want (FTy.ofCode (g.mod.extractLsb' 0 4)) fun t => reg 32 g.d fun d => reg 16 g.a fun a =>
    .ok (.fredmin h t d a)
  | 22 =>
    need (g.c == 0 && g.imm == 0 && g.mod.extractLsb' 6 6 == 0) <|
    want (FTy.ofCode (g.mod.extractLsb' 0 4)) fun t => want (Rnd.ofCode (g.mod.extractLsb' 4 2)) fun rm =>
    reg 32 g.d fun d => reg 16 g.a fun a => reg 16 g.b fun b => .ok (.fdot h t rm d a b)
  | _ => .error .unassigned

/-- The functions of class 6 (R135). -/
def decodeClass6 (h : Hdr) (fn : Nat) (ops : BitVec 84) : Decoded :=
  let g := GOps.split ops
  match fn with
  | 0 =>
    need (g.c == 0 && g.imm == 0 && g.mod.extractLsb' 5 7 == 0) <|
    want (ITy.ofCode (g.mod.extractLsb' 0 4)) fun t => reg 16 g.d fun d => reg 16 g.a fun a =>
    reg 16 g.b fun b => .ok (.vadd h t (flag (g.mod.extractLsb' 4 1)) d a b)
  | 1 =>
    need (g.c == 0 && g.imm == 0 && g.mod.extractLsb' 5 7 == 0) <|
    want (ITy.ofCode (g.mod.extractLsb' 0 4)) fun t => reg 16 g.d fun d => reg 16 g.a fun a =>
    reg 16 g.b fun b => .ok (.vsub h t (flag (g.mod.extractLsb' 4 1)) d a b)
  | 2 =>
    need (g.c == 0 && g.imm == 0 && g.mod.extractLsb' 5 7 == 0) <|
    want (ITy.ofCode (g.mod.extractLsb' 0 4)) fun t => reg 16 g.d fun d => reg 16 g.a fun a =>
    reg 16 g.b fun b => .ok (.vmul h t (flag (g.mod.extractLsb' 4 1)) d a b)
  | 3 =>
    need (g.imm == 0 && g.mod.extractLsb' 5 7 == 0) <| want (ITy.ofCode (g.mod.extractLsb' 0 4)) fun t =>
    reg 16 g.d fun d => reg 16 g.a fun a => reg 16 g.b fun b => reg 16 g.c fun c =>
    .ok (.vmad h t (flag (g.mod.extractLsb' 4 1)) d a b c)
  | 4 =>
    need (g.c == 0 && g.imm == 0 && g.mod.extractLsb' 4 8 == 0) <|
    want (LTy.ofCode (g.mod.extractLsb' 0 4)) fun t => reg 16 g.d fun d => reg 16 g.a fun a =>
    reg 16 g.b fun b => .ok (.vand h t d a b)
  | 5 =>
    need (g.c == 0 && g.imm == 0 && g.mod.extractLsb' 4 8 == 0) <|
    want (LTy.ofCode (g.mod.extractLsb' 0 4)) fun t => reg 16 g.d fun d => reg 16 g.a fun a =>
    reg 16 g.b fun b => .ok (.vor h t d a b)
  | 6 =>
    need (g.c == 0 && g.imm == 0 && g.mod.extractLsb' 4 8 == 0) <|
    want (LTy.ofCode (g.mod.extractLsb' 0 4)) fun t => reg 16 g.d fun d => reg 16 g.a fun a =>
    reg 16 g.b fun b => .ok (.vxor h t d a b)
  | 7 =>
    need (g.c == 0 && g.mod.extractLsb' 6 6 == 0 && g.mod.extractLsb' 4 1 == 0) <|
    want (ITy.ofCode (g.mod.extractLsb' 0 4)) fun t =>
    if flag (g.mod.extractLsb' 5 1) then need (g.b == 0 && fits 5 g.imm && vshiftOk t (some (g.imm.setWidth 5)) 0) <|
    reg 16 g.d fun d => reg 16 g.a fun a => .ok (.vshl h t (some (g.imm.setWidth 5)) d a 0)
    else need (g.imm == 0) <| reg 16 g.d fun d => reg 16 g.a fun a => reg 16 g.b fun b =>
    .ok (.vshl h t none d a b)
  | 8 =>
    need (g.c == 0 && g.mod.extractLsb' 6 6 == 0 && g.mod.extractLsb' 4 1 == 0) <|
    want (ITy.ofCode (g.mod.extractLsb' 0 4)) fun t =>
    if flag (g.mod.extractLsb' 5 1) then need (g.b == 0 && fits 5 g.imm && vshiftOk t (some (g.imm.setWidth 5)) 0) <|
    reg 16 g.d fun d => reg 16 g.a fun a => .ok (.vshr h t (some (g.imm.setWidth 5)) d a 0)
    else need (g.imm == 0) <| reg 16 g.d fun d => reg 16 g.a fun a => reg 16 g.b fun b =>
    .ok (.vshr h t none d a b)
  | 9 =>
    need (g.c == 0 && g.mod.extractLsb' 6 6 == 0 && g.mod.extractLsb' 4 1 == 0) <|
    want (ITy.ofCode (g.mod.extractLsb' 0 4)) fun t =>
    if flag (g.mod.extractLsb' 5 1) then need (g.b == 0 && fits 5 g.imm && vshiftOk t (some (g.imm.setWidth 5)) 0) <|
    reg 16 g.d fun d => reg 16 g.a fun a => .ok (.vsar h t (some (g.imm.setWidth 5)) d a 0)
    else need (g.imm == 0) <| reg 16 g.d fun d => reg 16 g.a fun a => reg 16 g.b fun b =>
    .ok (.vsar h t none d a b)
  | 10 =>
    need (g.c == 0 && g.imm == 0 && g.mod.extractLsb' 4 8 == 0) <|
    want (ITy.ofCode (g.mod.extractLsb' 0 4)) fun t => reg 16 g.d fun d => reg 16 g.a fun a =>
    reg 16 g.b fun b => .ok (.vmin h t d a b)
  | 11 =>
    need (g.c == 0 && g.imm == 0 && g.mod.extractLsb' 4 8 == 0) <|
    want (ITy.ofCode (g.mod.extractLsb' 0 4)) fun t => reg 16 g.d fun d => reg 16 g.a fun a =>
    reg 16 g.b fun b => .ok (.vmax h t d a b)
  | 12 =>
    need (g.c == 0 && g.imm == 0 && g.mod.extractLsb' 11 1 == 0 && g.mod.extractLsb' 4 2 == 0) <|
    want (ITy.ofCode (g.mod.extractLsb' 0 4)) fun t => want (Cc.ofCode (g.mod.extractLsb' 6 4)) fun cc =>
    need (oddOk t.bits (flag (g.mod.extractLsb' 10 1))) <| reg 8 g.d fun d => reg 16 g.a fun a =>
    reg 16 g.b fun b => .ok (.vcmp h cc t (flag (g.mod.extractLsb' 10 1)) d a b)
  | 13 =>
    need (g.b == 0 && g.c == 0 && g.imm == 0 && g.mod.extractLsb' 4 8 == 0) <|
    want (ITy.ofCode (g.mod.extractLsb' 0 4)) fun t => reg 32 g.d fun d => reg 16 g.a fun a =>
    .ok (.vred h t d a)
  | 14 =>
    need (g.b == 0 && g.c == 0 && g.mod.extractLsb' 6 6 == 0 && g.mod.extractLsb' 4 1 == 0) <|
    want (LTy.ofCode (g.mod.extractLsb' 0 4)) fun t =>
    if flag (g.mod.extractLsb' 5 1) then need (g.a == 0 && fits 32 g.imm && bcastOk t (some (g.imm.setWidth 32)) 0) <|
    reg 16 g.d fun d => .ok (.vbcast h t (some (g.imm.setWidth 32)) d 0) else need (g.imm == 0) <|
    reg 16 g.d fun d => reg 32 g.a fun a => .ok (.vbcast h t none d a)
  | 15 =>
    need (g.imm == 0 && g.mod.extractLsb' 4 8 == 0) <| want (LTy.ofCode (g.mod.extractLsb' 0 4)) fun t =>
    reg 16 g.d fun d => reg 16 g.a fun a => reg 16 g.b fun b => reg 16 g.c fun c => .ok (.vperm h t d a b c)
  | 16 =>
    need (g.imm == 0 && g.mod.extractLsb' 4 8 == 0) <| want (LTy.ofCode (g.mod.extractLsb' 0 4)) fun t =>
    reg 16 g.d fun d => reg 16 g.a fun a => reg 16 g.b fun b => reg 8 g.c fun c => .ok (.vsel h t d a b c)
  | 17 =>
    need (g.b == 0 && g.c == 0 && g.mod.extractLsb' 4 8 == 0 && fits 4 g.imm) <|
    want (LTy.ofCode (g.mod.extractLsb' 0 4)) fun t => need (laneOk t (g.imm.setWidth 4)) <| reg 16 g.d fun d =>
    reg 32 g.a fun a => .ok (.vins h t d a (g.imm.setWidth 4))
  | 18 =>
    need (g.b == 0 && g.c == 0 && g.mod.extractLsb' 4 8 == 0 && fits 4 g.imm) <|
    want (LTy.ofCode (g.mod.extractLsb' 0 4)) fun t => need (laneOk t (g.imm.setWidth 4)) <| reg 32 g.d fun d =>
    reg 16 g.a fun a => .ok (.vext h t d a (g.imm.setWidth 4))
  | 19 =>
    need (g.b == 0 && g.c == 0 && g.imm == 0 && g.mod.extractLsb' 7 5 == 0 && g.mod.extractLsb' 0 6 == 0) <|
    if flag (g.mod.extractLsb' 6 1) then need (g.d.toNat % 4 == 0) <| reg 32 g.d fun d => reg 16 g.a fun a =>
    .ok (.vmovx h true a d) else need (g.a.toNat % 4 == 0) <| reg 16 g.d fun d => reg 32 g.a fun a =>
    .ok (.vmovx h false d a)
  | _ => .error .unassigned

/-- The functions of class 7 (R140, R147, R149). -/
def decodeClass7 (h : Hdr) (fn : Nat) (ops : BitVec 84) : Decoded :=
  let g := GOps.split ops
  let m := MOps.split ops
  match fn with
  | 0 =>
    need (g.b == 0 && g.c == 0 && g.imm == 0 && g.mod.extractLsb' 11 1 == 0) <|
    want (Rnd.ofCode (g.mod.extractLsb' 8 2)) fun rm => want (CTy.ofCode (g.mod.extractLsb' 4 4)) fun dst =>
    want (CTy.ofCode (g.mod.extractLsb' 0 4)) fun src =>
    need (halfOk dst.bits src.bits (flag (g.mod.extractLsb' 10 1))) <| reg 16 g.d fun d => reg 16 g.a fun a =>
    .ok (.cvt h dst src rm (flag (g.mod.extractLsb' 10 1)) d a)
  | 1 =>
    need (g.b == 0 && g.c == 0 && g.imm == 0 && g.mod.extractLsb' 11 1 == 0) <|
    want (Rnd.ofCode (g.mod.extractLsb' 8 2)) fun rm => want (ITy.ofCode (g.mod.extractLsb' 4 4)) fun dst =>
    want (CTy.ofCode (g.mod.extractLsb' 0 4)) fun src =>
    need (halfOk dst.bits src.bits (flag (g.mod.extractLsb' 10 1))) <| reg 16 g.d fun d => reg 16 g.a fun a =>
    .ok (.cvti h dst src rm (flag (g.mod.extractLsb' 10 1)) d a)
  | 2 =>
    need (g.b == 0 && g.c == 0 && g.imm == 0 && g.mod.extractLsb' 11 1 == 0) <|
    want (Rnd.ofCode (g.mod.extractLsb' 8 2)) fun rm => want (CTy.ofCode (g.mod.extractLsb' 4 4)) fun dst =>
    want (ITy.ofCode (g.mod.extractLsb' 0 4)) fun src =>
    need (halfOk dst.bits src.bits (flag (g.mod.extractLsb' 10 1))) <| reg 16 g.d fun d => reg 16 g.a fun a =>
    .ok (.cvtf h dst src rm (flag (g.mod.extractLsb' 10 1)) d a)
  | 3 =>
    need (g.b == 0 && g.c == 0 && fits 1 g.imm && g.mod.extractLsb' 0 4 == 13) <|
    want (Rnd.ofCode (g.mod.extractLsb' 8 2)) fun rm => want (CTy.ofCode (g.mod.extractLsb' 4 4)) fun dst =>
    need (grpOk dst.bits (g.mod.extractLsb' 10 2)) <| reg 16 g.d fun d => reg 16 g.a fun a =>
    .ok (.dec8 h dst rm (g.mod.extractLsb' 10 2) d a (flag (g.imm.extractLsb' 0 1)))
  | 4 =>
    need (g.b == 0 && g.c == 0 && fits 1 g.imm && g.mod.extractLsb' 4 4 == 13 && g.mod.extractLsb' 8 2 == 0) <|
    want (CTy.ofCode (g.mod.extractLsb' 0 4)) fun src => need (grpOk src.bits (g.mod.extractLsb' 10 2)) <|
    reg 16 g.d fun d => reg 16 g.a fun a =>
    .ok (.enc8 h src (g.mod.extractLsb' 10 2) d a (flag (g.imm.extractLsb' 0 1)))
  | 5 =>
    need (g.c == 0 && g.imm == 0 && g.mod.extractLsb' 2 10 == 0) <| reg 16 g.d fun d => reg 16 g.a fun a =>
    reg 16 g.b fun b => .ok (.pack h (flag (g.mod.extractLsb' 0 1)) (flag (g.mod.extractLsb' 1 1)) d a b)
  | 6 =>
    need (g.b == 0 && g.c == 0 && g.imm == 0 && g.mod.extractLsb' 4 8 == 0 && !((flag (g.mod.extractLsb' 1 1)) && (flag (g.mod.extractLsb' 2 1)))) <|
    reg 16 g.d fun d => reg 16 g.a fun a =>
    .ok (.unpack h (flag (g.mod.extractLsb' 0 1)) (flag (g.mod.extractLsb' 1 1)) (flag (g.mod.extractLsb' 2 1)) (flag (g.mod.extractLsb' 3 1)) d a)
  | 7 =>
    need (m.b == 0 && m.size == 2 && m.ext == 0 && m.d.toNat < 2 && m.mod.extractLsb' 2 12 == 0) <|
    want (TblSrc.ofCode (m.mod.extractLsb' 0 2)) fun src => ordOf m Ord.acqOk fun o =>
    need (src == .mem || (o == Ord.zero && m.a == 0 && m.off == 0)) <| reg 32 m.a fun a =>
    .ok (.tblld h o src (flag (m.d.extractLsb' 0 1)) a m.off)
  | _ => .error .unassigned

/-- The functions of class 8 (R170). -/
def decodeClass8 (h : Hdr) (fn : Nat) (ops : BitVec 84) : Decoded :=
  let m := MOps.split ops
  match fn with
  | 0 =>
    need (m.b == 0 && m.mod == 0) <| ordOf m Ord.acqOk fun o => want (Size.ofCode m.size) fun sz =>
    need (sz != .v && extOk sz (flag m.ext)) <| reg 32 m.d fun d => reg 32 m.a fun a =>
    .ok (.ld h o sz (flag m.ext) d a m.off)
  | 1 =>
    need (m.d == 0 && m.ext == 0 && m.mod == 0) <| ordOf m Ord.relOk fun o =>
    want (Size.ofCode m.size) fun sz => need (sz != .v) <| reg 32 m.a fun a => reg 32 m.b fun b =>
    .ok (.st h o sz a b m.off)
  | 2 =>
    need (m.b == 0 && m.ext == 0 && m.mod == 0 && m.size == 4) <| ordOf m Ord.plain fun o => reg 16 m.d fun d =>
    reg 32 m.a fun a => .ok (.ldv h o d a m.off)
  | 3 =>
    need (m.d == 0 && m.ext == 0 && m.mod == 0 && m.size == 4) <| ordOf m Ord.plain fun o => reg 32 m.a fun a =>
    reg 16 m.b fun b => .ok (.stv h o a b m.off)
  | 4 =>
    need (m.b == 0 && m.mod == 0) <| ordOf m Ord.plain fun o => want (Size.ofCode m.size) fun sz =>
    need (extOk sz (flag m.ext)) <| reg 32 m.a fun a => reg (if sz == .v then 16 else 32) m.d fun d =>
    .ok (.ldro h o sz (flag m.ext) (Fin.ofNat 32 d.val) a m.off)
  | 5 =>
    need ((m.size == 1 || m.size == 2) && m.ext == 0 && m.mod.extractLsb' 1 13 == 0) <|
    ordOf m Ord.plain fun o => reg 16 m.d fun d => reg 32 m.a fun a => reg 16 m.b fun b =>
    .ok (.ldg h o (m.size == 2) (flag (m.mod.extractLsb' 0 1)) d a b m.off)
  | 6 =>
    need ((m.size == 1 || m.size == 2) && m.ext == 0 && m.mod.extractLsb' 1 13 == 0) <|
    ordOf m Ord.plain fun o => reg 16 m.d fun d => reg 32 m.a fun a => reg 16 m.b fun b =>
    .ok (.sts h o (m.size == 2) (flag (m.mod.extractLsb' 0 1)) d a b m.off)
  | 7 =>
    need (m.d == 0 && m.b == 0 && m.stream == 0 && m.after == 0 && m.sync == 0 && m.scope == 0 && m.size == 0 && m.ext == 0 && m.mod.extractLsb' 6 8 == 0) <|
    want (PfxTarget.ofCode (m.mod.extractLsb' 4 2)) fun t => reg 32 m.a fun a =>
    .ok (.pfx h t (m.mod.extractLsb' 0 4) a m.off)
  | _ => .error .unassigned

/-- The functions of class 9 (R175, R176, R184). -/
def decodeClass9 (h : Hdr) (fn : Nat) (ops : BitVec 84) : Decoded :=
  let m := MOps.split ops
  match fn with
  | 0 =>
    need ((m.size == 2 || m.size == 3) && m.mod.extractLsb' 4 10 == 0 && !((m.size == 3) && (flag m.ext))) <|
    want (AmoOp.ofCode (m.mod.extractLsb' 0 4)) fun op => ordOf m Ord.scopeOk fun o => reg 32 m.d fun d =>
    reg 32 m.a fun a => reg 32 m.b fun b => .ok (.amo h o op (m.size == 3) (flag m.ext) d a b m.off)
  | 1 =>
    need ((m.size == 2 || m.size == 3) && m.mod == 0 && !((m.size == 3) && (flag m.ext))) <|
    ordOf m Ord.scopeOk fun o => reg 32 m.d fun d => reg 32 m.a fun a => reg 32 m.b fun b =>
    .ok (.cas h o (m.size == 3) (flag m.ext) d a b m.off)
  | 2 =>
    need (m.size == 0 && m.ext == 0 && m.mod == 0) <| ordOf m Ord.plain fun o => reg 32 m.d fun d =>
    reg 32 m.a fun a => reg 32 m.b fun b => .ok (.wbr h o d a b m.off)
  | 3 =>
    need (m.size == 0 && m.ext == 0 && m.mod.extractLsb' 1 13 == 0) <| ordOf m Ord.plain fun o =>
    reg 32 m.d fun d => reg 32 m.a fun a => reg 32 m.b fun b =>
    .ok (if flag (m.mod.extractLsb' 0 1) then .invrRo h o d a b m.off else .invr h o d a b m.off)
  | 4 =>
    need (m.size == 0 && m.ext == 0 && m.mod == 0) <| ordOf m Ord.plain fun o => reg 32 m.d fun d =>
    reg 32 m.a fun a => reg 32 m.b fun b => .ok (.wbinvr h o d a b m.off)
  | 5 =>
    need (m.size == 0 && m.ext == 0 && m.mod == 0) <| ordOf m Ord.plain fun o => reg 32 m.d fun d =>
    reg 32 m.a fun a => reg 32 m.b fun b => .ok (.zeror h o d a b m.off)
  | 6 =>
    need (m.b == 0 && m.size == 0 && m.ext == 0 && m.mod.extractLsb' 6 8 == 0) <| ordOf m Ord.plain fun o =>
    reg 32 m.d fun d => reg 32 m.a fun a => .ok (.lockl h o (m.mod.extractLsb' 0 6) d a m.off)
  | 7 =>
    need (m.b == 0 && m.size == 0 && m.ext == 0 && m.mod.extractLsb' 6 8 == 0) <| ordOf m Ord.plain fun o =>
    reg 32 m.d fun d => reg 32 m.a fun a => .ok (.unlockl h o (m.mod.extractLsb' 0 6) d a m.off)
  | _ => .error .unassigned

/-- The functions of class A (R209). -/
def decodeClassA (h : Hdr) (fn : Nat) (ops : BitVec 84) : Decoded :=
  let m := MOps.split ops
  match fn with
  | 0 =>
    need (m.size == 0 && m.ext == 0 && m.mod.extractLsb' 4 10 == 0) <| ordOf m Ord.plain fun o =>
    reg 32 m.d fun d => reg 32 m.a fun a => reg 32 m.b fun b =>
    .ok (.cpy h o (m.mod.extractLsb' 0 4) d a b m.off)
  | 1 =>
    need (m.size == 0 && m.ext == 0 && m.mod.extractLsb' 4 10 == 0) <| ordOf m Ord.plain fun o =>
    reg 32 m.d fun d => reg 32 m.a fun a => reg 32 m.b fun b =>
    .ok (.cpyi h o (m.mod.extractLsb' 0 4) d a b m.off)
  | 2 =>
    need (m.ext == 0 && m.mod.extractLsb' 2 12 == 0) <| ordOf m Ord.plain fun o =>
    want (Size.ofCode m.size) fun sz => reg 32 m.d fun d => reg 32 m.a fun a => reg 16 m.b fun b =>
    .ok (.gather h o sz (flag (m.mod.extractLsb' 0 1)) (flag (m.mod.extractLsb' 1 1)) d a b m.off)
  | 3 =>
    need (m.ext == 0 && m.mod.extractLsb' 2 12 == 0) <| ordOf m Ord.plain fun o =>
    want (Size.ofCode m.size) fun sz => reg 32 m.d fun d => reg 32 m.a fun a => reg 16 m.b fun b =>
    .ok (.scatter h o sz (flag (m.mod.extractLsb' 0 1)) (flag (m.mod.extractLsb' 1 1)) d a b m.off)
  | 4 =>
    need (m.d == 0 && m.size == 0 && m.ext == 0 && m.mod.extractLsb' 4 10 == 0 && m.mod.extractLsb' 0 4 != 0) <|
    ordOf m Ord.plain fun o => reg 32 m.a fun a => reg 32 m.b fun b =>
    .ok (.halo h o (m.mod.extractLsb' 0 4) a b m.off)
  | 5 =>
    need (m.a == 0 && m.size == 0 && m.ext == 0 && m.mod == 0 && m.off == 0) <| ordOf m Ord.plain fun o =>
    reg 32 m.d fun d => reg 32 m.b fun b => .ok (.cpyq h o d b)
  | _ => .error .unassigned

/-- The functions of class B (R219, R220). -/
def decodeClassB (h : Hdr) (fn : Nat) (ops : BitVec 84) : Decoded :=
  let g := GOps.split ops
  let m := MOps.split ops
  match fn with
  | 0 =>
    need (m.size == 0 && m.ext == 0 && m.mod.extractLsb' 4 10 == 0 && m.off.toNat < 65536) <|
    ordOf m Ord.relWide fun o => reg 32 m.d fun d => reg 32 m.a fun a => reg 32 m.b fun b =>
    .ok (.send h o d a b (cntr (m.mod.extractLsb' 0 4)) (m.off.setWidth 16))
  | 1 =>
    need (m.d == 0 && m.ext == 0 && m.mod.extractLsb' 4 10 == 0 && m.off.toNat < 65536) <|
    ordOf m Ord.relWide fun o => want (Size.ofCode m.size) fun sz => need (sz != .v) <| reg 32 m.a fun a =>
    reg 32 m.b fun b => .ok (.sendi h o sz a b (cntr (m.mod.extractLsb' 0 4)) (m.off.setWidth 16))
  | 2 =>
    need (m.a == 0 && m.b == 0 && m.size == 0 && m.ext == 0 && m.off == 0 && m.mod.extractLsb' 4 10 == 0) <|
    ordOf m Ord.plain fun o => reg 32 m.d fun d => .ok (.cntrd h o d (cntr (m.mod.extractLsb' 0 4)))
  | 3 =>
    need (m.d == 0 && m.size == 0 && m.ext == 0 && m.mod.extractLsb' 5 9 == 0 && (!flag (m.mod.extractLsb' 4 1) || m.a == 0)) <|
    ordOf m Ord.relWide fun o => reg 32 m.a fun a => reg 32 m.b fun b =>
    .ok (.cntadd h o (flag (m.mod.extractLsb' 4 1)) a b (cntr (m.mod.extractLsb' 0 4)) m.off)
  | 4 =>
    need (m.d == 0 && m.a == 0 && m.size == 0 && m.ext == 0 && m.off == 0 && m.mod.extractLsb' 4 10 == 0) <|
    ordOf m Ord.plain fun o => reg 32 m.b fun b => .ok (.cntset h o b (cntr (m.mod.extractLsb' 0 4)))
  | 5 =>
    need (fits 4 g.imm && g.mod.extractLsb' 2 10 == 0 && g.mod != 3) <| reg 32 g.d fun d => reg 32 g.a fun a =>
    reg 32 g.b fun b => reg 16 g.c fun c =>
    .ok (if flag (g.mod.extractLsb' 0 1) then .wtsetL h d (g.imm.setWidth 4) c a b else if flag (g.mod.extractLsb' 1 1) then .wtsetS h d (g.imm.setWidth 4) c a b else .wtset h d (g.imm.setWidth 4) c a b)
  | 6 =>
    need (g.a == 0 && g.b == 0 && g.c == 0 && g.mod == 0 && fits 4 g.imm) <| reg 32 g.d fun d =>
    .ok (.wtclr h d (g.imm.setWidth 4))
  | 7 =>
    need (m.b == 0 && m.size == 0 && m.ext == 0 && m.mod == 0) <| ordOf m Ord.plain fun o => reg 32 m.d fun d =>
    reg 32 m.a fun a => .ok (.arm h o d a m.off)
  | 8 =>
    need (g.a == 0 && g.b == 0 && g.c == 0 && g.mod == 0 && fits 5 g.imm) <| reg 32 g.d fun d =>
    .ok (.disarm h d (g.imm.setWidth 5))
  | 9 =>
    need (m.b == 0 && m.size == 0 && m.ext == 0 && m.mod == 0) <| ordOf m Ord.plain fun o => reg 32 m.d fun d =>
    reg 32 m.a fun a => .ok (.launch h o d a m.off)
  | 10 =>
    need (m.b == 0 && m.size == 0 && m.ext == 0 && m.mod == 0) <| ordOf m Ord.plain fun o => reg 32 m.d fun d =>
    reg 32 m.a fun a => .ok (.exch h o d a m.off)
  | 11 =>
    need (g.d == 0 && g.b == 0 && g.c == 0 && g.mod == 0 && g.imm == 0) <| reg 32 g.a fun a => .ok (.vote h a)
  | 12 =>
    need (g.d == 0 && g.b == 0 && g.c == 0 && g.mod == 0 && g.imm == 0) <| reg 32 g.a fun a => .ok (.ttsel h a)
  | 13 =>
    need (m.d == 0 && m.b == 0 && m.size == 0 && m.ext == 0 && m.mod == 0) <| ordOf m Ord.relWide fun o =>
    reg 32 m.a fun a => .ok (.nsend h o a m.off)
  | _ => .error .unassigned

/-- The functions of class C (R245). -/
def decodeClassC (h : Hdr) (fn : Nat) (ops : BitVec 84) : Decoded :=
  let g := GOps.split ops
  let m := MOps.split ops
  match fn with
  | 0 =>
    need (g.d == 0 && g.a == 0 && g.b == 0 && g.c == 0 && g.imm == 0 && g.mod.extractLsb' 8 4 == 0) <|
    want (MTy.ofCode (g.mod.extractLsb' 0 4)) fun ta => want (MTy.ofCode (g.mod.extractLsb' 4 4)) fun tb =>
    need (ta.isInt == tb.isInt) <| .ok (.mfmt h ta tb)
  | 1 =>
    need (m.b == 0 && m.size == 2 && m.ext == 0 && m.d.toNat < 2 && m.mod.extractLsb' 2 12 == 0) <|
    want (MtblSrc.ofCode (m.mod.extractLsb' 0 2)) fun src => ordOf m Ord.acqOk fun o =>
    need (src == .mem || (o == Ord.zero && m.a == 0 && m.off == 0)) <| reg 32 m.a fun a =>
    .ok (.mtbl h o src (flag (m.d.extractLsb' 0 1)) a m.off)
  | 2 =>
    need (g.d == 0 && g.c == 0 && g.mod == 0 && g.imm == 0) <| reg 32 g.a fun a => reg 32 g.b fun b =>
    .ok (.mring h a b)
  | 3 =>
    need (m.d == 0 && m.size == 0 && m.ext == 0 && m.mod == 0) <| ordOf m Ord.plain fun o => reg 32 m.a fun a =>
    reg 32 m.b fun b => .ok (.mlda h o a b m.off)
  | 4 =>
    need (m.d == 0 && m.size == 0 && m.ext == 0 && m.mod == 0) <| ordOf m Ord.plain fun o => reg 32 m.a fun a =>
    reg 32 m.b fun b => .ok (.mldb h o a b m.off)
  | 5 =>
    need (g.a == 0 && g.b == 0 && g.c == 0 && g.mod == 0 && g.imm == 0) <| reg 4 g.d fun d => .ok (.mma h d)
  | 6 =>
    need (g.a == 0 && g.b == 0 && g.c == 0 && g.mod == 0 && g.imm == 0) <| reg 4 g.d fun d => .ok (.mmas h d)
  | 7 =>
    need (g.d == 0 && g.b == 0 && g.c == 0 && g.imm == 0 && g.mod.extractLsb' 1 11 == 0) <|
    if flag (g.mod.extractLsb' 0 1) then need (g.a == 0) <| .ok (.mskipOff h) else reg 32 g.a fun a =>
    .ok (.mskip h a)
  | 8 =>
    need (g.d == 0 && g.a == 0 && g.b == 0 && g.c == 0 && g.mod == 0 && g.imm == 0) <|  .ok (.mrot h )
  | 9 =>
    need (g.a == 0 && g.b == 0 && g.c == 0 && g.mod == 0 && g.imm == 0) <| reg 4 g.d fun d => .ok (.mzero h d)
  | 10 =>
    need (m.size == 0 && m.ext == 0 && m.mod.extractLsb' 5 9 == 0) <| ordOf m Ord.plain fun o =>
    want (DFmt.ofCode (m.mod.extractLsb' 0 2)) fun f => want (Rnd.ofCode (m.mod.extractLsb' 2 2)) fun rm =>
    reg 4 m.d fun t => reg 32 m.a fun a => reg 32 m.b fun b =>
    .ok (.mdrain h o f rm (flag (m.mod.extractLsb' 4 1)) t a b m.off)
  | 11 =>
    need (m.d == 0 && m.b == 0 && m.size == 0 && m.ext == 0 && m.mod == 0) <| ordOf m Ord.plain fun o =>
    reg 32 m.a fun a => .ok (.mcmd h o a m.off)
  | 12 =>
    need (g.a == 0 && g.b == 0 && g.c == 0 && g.imm == 0 && g.mod.extractLsb' 3 9 == 0) <|
    if flag (g.mod.extractLsb' 2 1) then need (g.mod.extractLsb' 0 2 == 0) <| reg 32 g.d fun d =>
    .ok (.mcapRev h d) else need (g.mod.extractLsb' 0 2 != 0) <| reg 32 g.d fun d =>
    .ok (.mcap h d (g.mod.extractLsb' 0 2))
  | 13 =>
    need (g.b == 0 && g.c == 0 && g.imm == 0 && g.mod.extractLsb' 1 11 == 0) <|
    if flag (g.mod.extractLsb' 0 1) then need (g.a == 0) <| reg 32 g.d fun d => .ok (.mstatU h d)
    else reg 32 g.d fun d => reg 4 g.a fun t => .ok (.mstat h d t)
  | _ => .error .unassigned

/-- The functions of class D (R280). -/
def decodeClassD (h : Hdr) (fn : Nat) (ops : BitVec 84) : Decoded :=
  let g := GOps.split ops
  let m := MOps.split ops
  match fn with
  | 0 =>
    need (m.size == 0 && m.ext == 0 && m.mod.extractLsb' 1 13 == 0) <| ordOf m Ord.plain fun o =>
    if flag (m.mod.extractLsb' 0 1) then need (m.a == 0 && m.off == 0) <| reg 32 m.d fun d =>
    reg 32 m.b fun b => .ok (.kstageU h o d b) else need (m.b == 0) <| reg 32 m.d fun d => reg 32 m.a fun a =>
    .ok (.kstage h o d a m.off)
  | 1 =>
    need (m.d == 0 && m.ext == 0 && m.mod == 0 && m.size == 4) <| ordOf m Ord.relWide fun o =>
    reg 32 m.a fun a => reg 32 m.b fun b => .ok (.ksend h o a b m.off)
  | 2 =>
    need (m.ext == 0 && m.mod == 0 && m.size == 4) <| ordOf m Ord.relWide fun o => reg 8 m.d fun d =>
    reg 32 m.a fun a => reg 32 m.b fun b => .ok (.ksendt h o d a b m.off)
  | 3 =>
    need (g.d == 0 && g.a == 0 && g.b == 0 && g.c == 0 && g.mod == 0 && g.imm == 0) <|  .ok (.kyield h )
  | 4 =>
    need (g.d == 0 && g.a == 0 && g.b == 0 && g.c == 0 && g.mod == 0 && g.imm == 0) <|  .ok (.kend h )
  | 5 =>
    need (g.b == 0 && g.c == 0 && g.imm == 0 && g.mod.extractLsb' 1 11 == 0) <| reg 32 g.d fun d =>
    reg 32 g.a fun a => .ok (if flag (g.mod.extractLsb' 0 1) then .kstatCnt h d a else .kstatOcc h d a)
  | 6 =>
    need (g.b == 0 && g.c == 0 && g.mod == 0 && g.imm == 0) <| reg 32 g.d fun d => reg 32 g.a fun a =>
    .ok (.kflush h d a)
  | _ => .error .unassigned

/-- The functions of class E (R306). -/
def decodeClassE (h : Hdr) (fn : Nat) (ops : BitVec 84) : Decoded :=
  let g := GOps.split ops
  let m := MOps.split ops
  match fn with
  | 0 =>
    need (g.b == 0 && g.c == 0 && g.mod == 0 && g.imm == 0) <| reg 32 g.d fun d => reg 32 g.a fun a =>
    .ok (.gnew h d a)
  | 1 =>
    need (g.b == 0 && g.c == 0 && g.mod == 0 && g.imm == 0) <| reg 32 g.d fun d => reg 32 g.a fun a =>
    .ok (.gfree h d a)
  | 2 =>
    need (g.b == 0 && g.c == 0 && g.mod == 0 && g.imm == 0) <| reg 32 g.d fun d => reg 32 g.a fun a =>
    .ok (.join h d a)
  | 3 =>
    need (g.b == 0 && g.c == 0 && g.mod == 0 && g.imm == 0) <| reg 32 g.d fun d => reg 32 g.a fun a =>
    .ok (.leave h d a)
  | 4 =>
    need (m.b == 0 && m.size == 0 && m.ext == 0 && m.mod == 0) <| ordOf m Ord.acqOk fun o => reg 8 m.d fun d =>
    reg 32 m.a fun a => .ok (.trylk h o d a m.off)
  | 5 =>
    need (m.b == 0 && m.size == 0 && m.ext == 0 && m.mod == 0) <| ordOf m Ord.relOk fun o => reg 8 m.d fun d =>
    reg 32 m.a fun a => .ok (.unlk h o d a m.off)
  | 6 =>
    need (m.ext == 0 && m.mod == 0 && m.size == 3) <| ordOf m Ord.relOk fun o => reg 8 m.d fun d =>
    reg 32 m.a fun a => reg 32 m.b fun b => .ok (.qpusht h o d a b m.off)
  | 7 =>
    need (m.b == 0 && m.size == 3 && m.ext == 0 && m.mod.extractLsb' 3 11 == 0) <| ordOf m Ord.acqOk fun o =>
    reg 32 m.d fun d => reg 32 m.a fun a => .ok (.qpopt h o (fin8 (m.mod.extractLsb' 0 3)) d a m.off)
  | 8 =>
    need (m.size == 0 && m.ext == 0 && m.mod == 0) <| ordOf m Ord.barOk fun o => reg 32 m.d fun d =>
    reg 32 m.a fun a => reg 32 m.b fun b => .ok (.bararr h o d a b m.off)
  | 9 =>
    need (m.size == 0 && m.ext == 0 && m.mod == 0) <| ordOf m Ord.acqOk fun o => reg 8 m.d fun d =>
    reg 32 m.a fun a => reg 32 m.b fun b => .ok (.bartry h o d a b m.off)
  | 10 =>
    need (m.d == 0 && m.size == 0 && m.ext == 0 && m.mod.extractLsb' 3 11 == 0) <|
    ordOf m Ord.plain fun o => decodePark h o (m.mod.extractLsb' 0 3).toNat m
  | 11 =>
    need (g.c == 0 && g.mod == 0 && g.imm == 0) <| reg 32 g.d fun d => reg 32 g.a fun a => reg 32 g.b fun b =>
    .ok (.shgive h d a b)
  | 12 =>
    need (g.b == 0 && g.c == 0 && g.mod == 0 && g.imm == 0) <| reg 32 g.d fun d => reg 32 g.a fun a =>
    .ok (.shresv h d a)
  | 13 =>
    need (g.b == 0 && g.c == 0 && g.imm == 0 && g.mod.extractLsb' 1 11 == 0) <| reg 32 g.d fun d =>
    reg 32 g.a fun a => .ok (if flag (g.mod.extractLsb' 0 1) then .shrdL h d a else .shrd h d a)
  | 14 =>
    need (g.b == 0 && g.c == 0 && g.mod == 0 && g.imm == 0) <| reg 32 g.d fun d => reg 32 g.a fun a =>
    .ok (.oprd h d a)
  | _ => .error .unassigned

/-- The last function assigned in each class (R76). -/
def lastFn : Nat → Nat
  | 0 => 13
  | 1 => 8
  | 2 => 22
  | 3 => 15
  | 4 => 7
  | 5 => 22
  | 6 => 19
  | 7 => 7
  | 8 => 7
  | 9 => 7
  | 10 => 5
  | 11 => 13
  | 12 => 13
  | 13 => 6
  | 14 => 14
  | _ => 0

/-- The operands of a word, by class. -/
def decodeOps (h : Hdr) (cls fn : Nat) (ops : BitVec 84) : Decoded :=
  match cls with
  | 0 => decodeClass0 h fn ops
  | 1 => decodeClass1 h fn ops
  | 2 => decodeClass2 h fn ops
  | 3 => decodeClass3 h fn ops
  | 4 => decodeClass4 h fn ops
  | 5 => decodeClass5 h fn ops
  | 6 => decodeClass6 h fn ops
  | 7 => decodeClass7 h fn ops
  | 8 => decodeClass8 h fn ops
  | 9 => decodeClass9 h fn ops
  | 10 => decodeClassA h fn ops
  | 11 => decodeClassB h fn ops
  | 12 => decodeClassC h fn ops
  | 13 => decodeClassD h fn ops
  | 14 => decodeClassE h fn ops
  | _ => .error .classF

/-- The decoder (R74). The reasons are tried in the order of their details, so the lowest that applies is given (R321).
The ILLEGAL function is an instruction whatever its other bits hold. -/
def decode (w : BitVec 128) : Decoded :=
  let p := Parts.split w
  if p.cls.toNat == 15 then .error .classF
  else if p.fn.toNat > lastFn p.cls.toNat then .error .unassigned
  else if p.cls.toNat == 0 && p.fn.toNat == 0 then .ok (.illegal w)
  else if p.resv != 0 then .error .reservedBits
  else match p.hdr with
    | none => .error .claim
    | some h => decodeOps h p.cls.toNat p.fn.toNat p.ops

/-- A word from sixteen bytes, the lowest address first (R3, R56). -/
def wordOfBytes : List Byte → BitVec 128
  | [] => 0
  | b :: bs => (wordOfBytes bs <<< 8) ||| b.setWidth 128

/-- The first n bytes of a value, lowest first (R3). -/
def bytesOfNat : Nat → Nat → List Byte
  | 0, _ => []
  | n + 1, v => BitVec.ofNat 8 v :: bytesOfNat n (v / 256)

/-- The decoder on bytes: the instruction and the bytes after its word; fewer than sixteen bytes hold no word. -/
def decodeBytes (bs : List Byte) : Option (Decoded × List Byte) :=
  if bs.length < 16 then none else some (decode (wordOfBytes (bs.take 16)), bs.drop 16)

/-! ### The encoder -/

/-- A word of the general layout. -/
def gWord (h : Hdr) (cls : BitVec 4) (fn : BitVec 8) (g : GOps) : BitVec 128 :=
  Parts.join ⟨h.pace, bit h.yld, h.reuse, h.claim.mode, h.claim.idx, h.wait, bit h.neg, BitVec.ofFin h.guard, 0, cls, fn,
    g.join⟩

/-- A word of the memory layout. -/
def mWord (h : Hdr) (cls : BitVec 4) (fn : BitVec 8) (m : MOps) : BitVec 128 :=
  Parts.join ⟨h.pace, bit h.yld, h.reuse, h.claim.mode, h.claim.idx, h.wait, bit h.neg, BitVec.ofFin h.guard, 0, cls, fn,
    m.join⟩

/-- The word of an instruction (R56 to R62 and the entries' tables). A device event has none. The three TRAPRET rows
share one word: the frame's disp chooses among them (R320). -/
def encode : Instr → Option (BitVec 128)
  | .illegal w => some w
  | .nop h => some (gWord h 0 1 GOps.zero)
  | .brk h code => some (gWord h 0 2 { GOps.zero with imm := code.setWidth 48 })
  | .trap h code => some (gWord h 0 3 { GOps.zero with imm := code.setWidth 48 })
  | .trapret h => some (gWord h 0 4 GOps.zero)
  | .trapretMove h => some (gWord h 0 4 GOps.zero)
  | .trapretEnd h => some (gWord h 0 4 GOps.zero)
  | .upret h => some (gWord h 0 5 GOps.zero)
  | .crrd h d r => some (gWord h 0 6 { GOps.zero with d := num d, mod := r.code })
  | .crwr h a r => some (gWord h 0 7 { GOps.zero with a := num a, mod := r.code })
  | .crset h d a r => some (gWord h 0 8 { GOps.zero with d := num d, a := num a, mod := r.code })
  | .crclr h d a r => some (gWord h 0 9 { GOps.zero with d := num d, a := num a, mod := r.code })
  | .ident h d => some (gWord h 0 10 { GOps.zero with d := num d })
  | .feat h d => some (gWord h 0 11 { GOps.zero with d := num d })
  | .halt h => some (gWord h 0 12 GOps.zero)
  | .sleep h d c b t =>
      some (gWord h 0 13 { GOps.zero with d := num d, a := num c, b := num b, imm := t.setWidth 48 })
  | .br h p t inv imm =>
      some (gWord h 1 0 { GOps.zero with a := num p, mod := (0 : BitVec 8) ++ bit inv ++ (0 : BitVec 1) ++ t.code, imm := imm })
  | .bri h a imm => some (gWord h 1 1 { GOps.zero with a := num a, imm := imm })
  | .call h imm => some (gWord h 1 2 { GOps.zero with imm := imm })
  | .calli h a imm => some (gWord h 1 3 { GOps.zero with a := num a, imm := imm })
  | .ret h a => some (gWord h 1 4 { GOps.zero with a := num a })
  | .loop h a imm => some (gWord h 1 5 { GOps.zero with a := num a, imm := imm })
  | .endTask h => some (gWord h 1 6 GOps.zero)
  | .yieldSlot h => some (gWord h 1 7 GOps.zero)
  | .ipf h n imm => some (gWord h 1 8 { GOps.zero with mod := (0 : BitVec 8) ++ n, imm := imm })
  | .add h w d a b =>
      some (gWord h 2 0 { GOps.zero with d := num d, a := num a, b := num b, mod := (0 : BitVec 11) ++ bit w })
  | .sub h w d a b =>
      some (gWord h 2 1 { GOps.zero with d := num d, a := num a, b := num b, mod := (0 : BitVec 11) ++ bit w })
  | .addi h w d a imm =>
      some (gWord h 2 2 { GOps.zero with d := num d, a := num a, mod := (0 : BitVec 11) ++ bit w, imm := imm })
  | .mul h w d a b =>
      some (gWord h 2 3 { GOps.zero with d := num d, a := num a, b := num b, mod := (0 : BitVec 11) ++ bit w })
  | .mulh h w d a b =>
      some (gWord h 2 4 { GOps.zero with d := num d, a := num a, b := num b, mod := (0 : BitVec 11) ++ bit w })
  | .mulhn h w d a b =>
      some (gWord h 2 5 { GOps.zero with d := num d, a := num a, b := num b, mod := (0 : BitVec 11) ++ bit w })
  | .mad h w d a b c =>
      some (gWord h 2 6 { GOps.zero with d := num d, a := num a, b := num b, c := num c, mod := (0 : BitVec 11) ++ bit w })
  | .div h w d a b =>
      some (gWord h 2 7 { GOps.zero with d := num d, a := num a, b := num b, mod := (0 : BitVec 11) ++ bit w })
  | .divn h w d a b =>
      some (gWord h 2 8 { GOps.zero with d := num d, a := num a, b := num b, mod := (0 : BitVec 11) ++ bit w })
  | .rem h w d a b =>
      some (gWord h 2 9 { GOps.zero with d := num d, a := num a, b := num b, mod := (0 : BitVec 11) ++ bit w })
  | .remn h w d a b =>
      some (gWord h 2 10 { GOps.zero with d := num d, a := num a, b := num b, mod := (0 : BitVec 11) ++ bit w })
  | .and h d a b => some (gWord h 2 11 { GOps.zero with d := num d, a := num a, b := num b })
  | .or h d a b => some (gWord h 2 12 { GOps.zero with d := num d, a := num a, b := num b })
  | .xor h d a b => some (gWord h 2 13 { GOps.zero with d := num d, a := num a, b := num b })
  | .andn h d a b => some (gWord h 2 14 { GOps.zero with d := num d, a := num a, b := num b })
  | .orn h d a b => some (gWord h 2 15 { GOps.zero with d := num d, a := num a, b := num b })
  | .shl h w d a b =>
      some (gWord h 2 16 { GOps.zero with d := num d, a := num a, b := num b, mod := (0 : BitVec 11) ++ bit w })
  | .shr h w d a b =>
      some (gWord h 2 17 { GOps.zero with d := num d, a := num a, b := num b, mod := (0 : BitVec 11) ++ bit w })
  | .sar h w d a b =>
      some (gWord h 2 18 { GOps.zero with d := num d, a := num a, b := num b, mod := (0 : BitVec 11) ++ bit w })
  | .rol h w d a b =>
      some (gWord h 2 19 { GOps.zero with d := num d, a := num a, b := num b, mod := (0 : BitVec 11) ++ bit w })
  | .shli h w d a n =>
      some (gWord h 2 20 { GOps.zero with d := num d, a := num a, mod := (0 : BitVec 11) ++ bit w, imm := n.setWidth 48 })
  | .shri h w d a n =>
      some (gWord h 2 21 { GOps.zero with d := num d, a := num a, mod := (0 : BitVec 11) ++ bit w, imm := n.setWidth 48 })
  | .sari h w d a n =>
      some (gWord h 2 22 { GOps.zero with d := num d, a := num a, mod := (0 : BitVec 11) ++ bit w, imm := n.setWidth 48 })
  | .min h d a b => some (gWord h 3 0 { GOps.zero with d := num d, a := num a, b := num b })
  | .max h d a b => some (gWord h 3 1 { GOps.zero with d := num d, a := num a, b := num b })
  | .minn h d a b => some (gWord h 3 2 { GOps.zero with d := num d, a := num a, b := num b })
  | .maxn h d a b => some (gWord h 3 3 { GOps.zero with d := num d, a := num a, b := num b })
  | .clz h d a => some (gWord h 3 4 { GOps.zero with d := num d, a := num a })
  | .ctz h d a => some (gWord h 3 5 { GOps.zero with d := num d, a := num a })
  | .popc h d a => some (gWord h 3 6 { GOps.zero with d := num d, a := num a })
  | .brev h d a => some (gWord h 3 7 { GOps.zero with d := num d, a := num a })
  | .bfx h d a pos len =>
      some (gWord h 3 8 { GOps.zero with d := num d, a := num a, imm := (0 : BitVec 36) ++ len ++ pos })
  | .bfxz h d a pos len =>
      some (gWord h 3 9 { GOps.zero with d := num d, a := num a, imm := (0 : BitVec 36) ++ len ++ pos })
  | .bfi h d a b pos len =>
      some (gWord h 3 10 { GOps.zero with d := num d, a := num a, b := num b, imm := (0 : BitVec 36) ++ len ++ pos })
  | .lea h d a b pcrel sh imm =>
      some (gWord h 3 11 { GOps.zero with d := num d, a := num a, b := num b, mod := (0 : BitVec 8) ++ sh ++ bit pcrel, imm := imm })
  | .li h d imm => some (gWord h 3 12 { GOps.zero with d := num d, imm := imm })
  | .lih h d a imm => some (gWord h 3 13 { GOps.zero with d := num d, a := num a, imm := imm.setWidth 48 })
  | .mov h d a => some (gWord h 3 14 { GOps.zero with d := num d, a := num a })
  | .sel h d a b c => some (gWord h 3 15 { GOps.zero with d := num d, a := num a, b := num b, c := num c })
  | .cmp h cc w d a b =>
      some (gWord h 4 0 { GOps.zero with d := num d, a := num a, b := num b, mod := (0 : BitVec 7) ++ bit w ++ cc.code })
  | .cmpi h cc w d a imm =>
      some (gWord h 4 1 { GOps.zero with d := num d, a := num a, mod := (0 : BitVec 7) ++ bit w ++ cc.code, imm := imm })
  | .pand h d a b => some (gWord h 4 2 { GOps.zero with d := num d, a := num a, b := num b })
  | .por h d a b => some (gWord h 4 3 { GOps.zero with d := num d, a := num a, b := num b })
  | .pxor h d a b => some (gWord h 4 4 { GOps.zero with d := num d, a := num a, b := num b })
  | .pnot h d a => some (gWord h 4 5 { GOps.zero with d := num d, a := num a })
  | .pset h d imm => some (gWord h 4 6 { GOps.zero with d := num d, imm := imm.setWidth 48 })
  | .psetX h d a => some (gWord h 4 6 { GOps.zero with d := num d, a := num a, mod := 1 })
  | .pget h d a => some (gWord h 4 7 { GOps.zero with d := num d, a := num a })
  | .fadd h t rm d a b =>
      some (gWord h 5 0 { GOps.zero with d := num d, a := num a, b := num b, mod := (0 : BitVec 6) ++ rm.code ++ t.code })
  | .fsub h t rm d a b =>
      some (gWord h 5 1 { GOps.zero with d := num d, a := num a, b := num b, mod := (0 : BitVec 6) ++ rm.code ++ t.code })
  | .fmul h t rm d a b =>
      some (gWord h 5 2 { GOps.zero with d := num d, a := num a, b := num b, mod := (0 : BitVec 6) ++ rm.code ++ t.code })
  | .fma h t rm d a b c =>
      some (gWord h 5 3 { GOps.zero with d := num d, a := num a, b := num b, c := num c, mod := (0 : BitVec 6) ++ rm.code ++ t.code })
  | .fms h t rm d a b c =>
      some (gWord h 5 4 { GOps.zero with d := num d, a := num a, b := num b, c := num c, mod := (0 : BitVec 6) ++ rm.code ++ t.code })
  | .fnma h t rm d a b c =>
      some (gWord h 5 5 { GOps.zero with d := num d, a := num a, b := num b, c := num c, mod := (0 : BitVec 6) ++ rm.code ++ t.code })
  | .fmin h t d a b =>
      some (gWord h 5 6 { GOps.zero with d := num d, a := num a, b := num b, mod := (0 : BitVec 6) ++ (0 : BitVec 2) ++ t.code })
  | .fmax h t d a b =>
      some (gWord h 5 7 { GOps.zero with d := num d, a := num a, b := num b, mod := (0 : BitVec 6) ++ (0 : BitVec 2) ++ t.code })
  | .fabs h t d a =>
      some (gWord h 5 8 { GOps.zero with d := num d, a := num a, mod := (0 : BitVec 6) ++ (0 : BitVec 2) ++ t.code })
  | .fneg h t d a =>
      some (gWord h 5 9 { GOps.zero with d := num d, a := num a, mod := (0 : BitVec 6) ++ (0 : BitVec 2) ++ t.code })
  | .fdiv h t rm d a b =>
      some (gWord h 5 10 { GOps.zero with d := num d, a := num a, b := num b, mod := (0 : BitVec 6) ++ rm.code ++ t.code })
  | .fsqrt h t rm d a =>
      some (gWord h 5 11 { GOps.zero with d := num d, a := num a, mod := (0 : BitVec 6) ++ rm.code ++ t.code })
  | .frcp h t rm d a =>
      some (gWord h 5 12 { GOps.zero with d := num d, a := num a, mod := (0 : BitVec 6) ++ rm.code ++ t.code })
  | .frsq h t rm d a =>
      some (gWord h 5 13 { GOps.zero with d := num d, a := num a, mod := (0 : BitVec 6) ++ rm.code ++ t.code })
  | .fexp2 h t rm d a =>
      some (gWord h 5 14 { GOps.zero with d := num d, a := num a, mod := (0 : BitVec 6) ++ rm.code ++ t.code })
  | .flog2 h t rm d a =>
      some (gWord h 5 15 { GOps.zero with d := num d, a := num a, mod := (0 : BitVec 6) ++ rm.code ++ t.code })
  | .fcmp h cc t odd d a b =>
      some (gWord h 5 16 { GOps.zero with d := num d, a := num a, b := num b, mod := (0 : BitVec 2) ++ bit odd ++ cc.code ++ (0 : BitVec 2) ++ t.code })
  | .fclass h t d a =>
      some (gWord h 5 17 { GOps.zero with d := num d, a := num a, mod := (0 : BitVec 6) ++ (0 : BitVec 2) ++ t.code })
  | .fscale h t rm d a b =>
      some (gWord h 5 18 { GOps.zero with d := num d, a := num a, b := num b, mod := (0 : BitVec 6) ++ rm.code ++ t.code })
  | .fred h t rm d a =>
      some (gWord h 5 19 { GOps.zero with d := num d, a := num a, mod := (0 : BitVec 6) ++ rm.code ++ t.code })
  | .fredmax h t d a =>
      some (gWord h 5 20 { GOps.zero with d := num d, a := num a, mod := (0 : BitVec 6) ++ (0 : BitVec 2) ++ t.code })
  | .fredmin h t d a =>
      some (gWord h 5 21 { GOps.zero with d := num d, a := num a, mod := (0 : BitVec 6) ++ (0 : BitVec 2) ++ t.code })
  | .fdot h t rm d a b =>
      some (gWord h 5 22 { GOps.zero with d := num d, a := num a, b := num b, mod := (0 : BitVec 6) ++ rm.code ++ t.code })
  | .vadd h t sat d a b =>
      some (gWord h 6 0 { GOps.zero with d := num d, a := num a, b := num b, mod := (0 : BitVec 7) ++ bit sat ++ t.code })
  | .vsub h t sat d a b =>
      some (gWord h 6 1 { GOps.zero with d := num d, a := num a, b := num b, mod := (0 : BitVec 7) ++ bit sat ++ t.code })
  | .vmul h t sat d a b =>
      some (gWord h 6 2 { GOps.zero with d := num d, a := num a, b := num b, mod := (0 : BitVec 7) ++ bit sat ++ t.code })
  | .vmad h t sat d a b c =>
      some (gWord h 6 3 { GOps.zero with d := num d, a := num a, b := num b, c := num c, mod := (0 : BitVec 7) ++ bit sat ++ t.code })
  | .vand h t d a b =>
      some (gWord h 6 4 { GOps.zero with d := num d, a := num a, b := num b, mod := (0 : BitVec 8) ++ t.code })
  | .vor h t d a b =>
      some (gWord h 6 5 { GOps.zero with d := num d, a := num a, b := num b, mod := (0 : BitVec 8) ++ t.code })
  | .vxor h t d a b =>
      some (gWord h 6 6 { GOps.zero with d := num d, a := num a, b := num b, mod := (0 : BitVec 8) ++ t.code })
  | .vshl h t none d a b =>
      some (gWord h 6 7 { GOps.zero with d := num d, a := num a, b := num b, mod := (0 : BitVec 8) ++ t.code })
  | .vshl h t (some i) d a b =>
      some (gWord h 6 7 { GOps.zero with d := num d, a := num a, b := num b, mod := (0 : BitVec 6) ++ bit true ++ (0 : BitVec 1) ++ t.code, imm := i.setWidth 48 })
  | .vshr h t none d a b =>
      some (gWord h 6 8 { GOps.zero with d := num d, a := num a, b := num b, mod := (0 : BitVec 8) ++ t.code })
  | .vshr h t (some i) d a b =>
      some (gWord h 6 8 { GOps.zero with d := num d, a := num a, b := num b, mod := (0 : BitVec 6) ++ bit true ++ (0 : BitVec 1) ++ t.code, imm := i.setWidth 48 })
  | .vsar h t none d a b =>
      some (gWord h 6 9 { GOps.zero with d := num d, a := num a, b := num b, mod := (0 : BitVec 8) ++ t.code })
  | .vsar h t (some i) d a b =>
      some (gWord h 6 9 { GOps.zero with d := num d, a := num a, b := num b, mod := (0 : BitVec 6) ++ bit true ++ (0 : BitVec 1) ++ t.code, imm := i.setWidth 48 })
  | .vmin h t d a b =>
      some (gWord h 6 10 { GOps.zero with d := num d, a := num a, b := num b, mod := (0 : BitVec 8) ++ t.code })
  | .vmax h t d a b =>
      some (gWord h 6 11 { GOps.zero with d := num d, a := num a, b := num b, mod := (0 : BitVec 8) ++ t.code })
  | .vcmp h cc t odd d a b =>
      some (gWord h 6 12 { GOps.zero with d := num d, a := num a, b := num b, mod := (0 : BitVec 1) ++ bit odd ++ cc.code ++ (0 : BitVec 2) ++ t.code })
  | .vred h t d a => some (gWord h 6 13 { GOps.zero with d := num d, a := num a, mod := (0 : BitVec 8) ++ t.code })
  | .vbcast h t none d a =>
      some (gWord h 6 14 { GOps.zero with d := num d, a := num a, mod := (0 : BitVec 8) ++ t.code })
  | .vbcast h t (some i) d a =>
      some (gWord h 6 14 { GOps.zero with d := num d, a := num a, mod := (0 : BitVec 6) ++ bit true ++ (0 : BitVec 1) ++ t.code, imm := i.setWidth 48 })
  | .vperm h t d a b c =>
      some (gWord h 6 15 { GOps.zero with d := num d, a := num a, b := num b, c := num c, mod := (0 : BitVec 8) ++ t.code })
  | .vsel h t d a b c =>
      some (gWord h 6 16 { GOps.zero with d := num d, a := num a, b := num b, c := num c, mod := (0 : BitVec 8) ++ t.code })
  | .vins h t d a lane =>
      some (gWord h 6 17 { GOps.zero with d := num d, a := num a, mod := (0 : BitVec 8) ++ t.code, imm := lane.setWidth 48 })
  | .vext h t d a lane =>
      some (gWord h 6 18 { GOps.zero with d := num d, a := num a, mod := (0 : BitVec 8) ++ t.code, imm := lane.setWidth 48 })
  | .vmovx h true v x => some (gWord h 6 19 { GOps.zero with d := num x, a := num v, mod := 64 })
  | .vmovx h false v x => some (gWord h 6 19 { GOps.zero with d := num v, a := num x })
  | .cvt h dst src rm half d a =>
      some (gWord h 7 0 { GOps.zero with d := num d, a := num a, mod := (0 : BitVec 1) ++ bit half ++ rm.code ++ dst.code ++ src.code })
  | .cvti h dst src rm half d a =>
      some (gWord h 7 1 { GOps.zero with d := num d, a := num a, mod := (0 : BitVec 1) ++ bit half ++ rm.code ++ dst.code ++ src.code })
  | .cvtf h dst src rm half d a =>
      some (gWord h 7 2 { GOps.zero with d := num d, a := num a, mod := (0 : BitVec 1) ++ bit half ++ rm.code ++ dst.code ++ src.code })
  | .dec8 h dst rm grp d a tblB =>
      some (gWord h 7 3 { GOps.zero with d := num d, a := num a, mod := grp ++ rm.code ++ dst.code ++ (13 : BitVec 4), imm := (0 : BitVec 47) ++ bit tblB })
  | .enc8 h src grp d a tblB =>
      some (gWord h 7 4 { GOps.zero with d := num d, a := num a, mod := grp ++ (0 : BitVec 2) ++ (13 : BitVec 4) ++ src.code, imm := (0 : BitVec 47) ++ bit tblB })
  | .pack h byte hi d a b =>
      some (gWord h 7 5 { GOps.zero with d := num d, a := num a, b := num b, mod := (0 : BitVec 10) ++ bit hi ++ bit byte })
  | .unpack h byte hi x half d a =>
      some (gWord h 7 6 { GOps.zero with d := num d, a := num a, mod := (0 : BitVec 8) ++ bit half ++ bit x ++ bit hi ++ bit byte })
  | .tblld h o src tblB a off =>
      some (mWord h 7 7 { MOps.ofOrd o with d := (0 : BitVec 5) ++ bit tblB, a := num a, size := 2, mod := (0 : BitVec 12) ++ src.code, off := off })
  | .ld h o sz ext d a off =>
      some (mWord h 8 0 { MOps.ofOrd o with d := num d, a := num a, size := sz.code, ext := bit ext, off := off })
  | .st h o sz a b off => some (mWord h 8 1 { MOps.ofOrd o with a := num a, b := num b, size := sz.code, off := off })
  | .ldv h o d a off => some (mWord h 8 2 { MOps.ofOrd o with d := num d, a := num a, size := 4, off := off })
  | .stv h o a b off => some (mWord h 8 3 { MOps.ofOrd o with a := num a, b := num b, size := 4, off := off })
  | .ldro h o sz ext d a off =>
      some (mWord h 8 4 { MOps.ofOrd o with d := num d, a := num a, size := sz.code, ext := bit ext, off := off })
  | .ldg h o word sc d a b off =>
      some (mWord h 8 5 { MOps.ofOrd o with d := num d, a := num a, b := num b, size := if word then 2 else 1, mod := (0 : BitVec 13) ++ bit sc, off := off })
  | .sts h o word sc d a b off =>
      some (mWord h 8 6 { MOps.ofOrd o with d := num d, a := num a, b := num b, size := if word then 2 else 1, mod := (0 : BitVec 13) ++ bit sc, off := off })
  | .pfx h t n a off =>
      some (mWord h 8 7 { MOps.ofOrd Ord.zero with a := num a, mod := (0 : BitVec 8) ++ t.code ++ n, off := off })
  | .amo h o op dword ext d a b off =>
      some (mWord h 9 0 { MOps.ofOrd o with d := num d, a := num a, b := num b, size := if dword then 3 else 2, ext := bit ext, mod := (0 : BitVec 10) ++ op.code, off := off })
  | .cas h o dword ext d a b off =>
      some (mWord h 9 1 { MOps.ofOrd o with d := num d, a := num a, b := num b, size := if dword then 3 else 2, ext := bit ext, off := off })
  | .wbr h o d a b off => some (mWord h 9 2 { MOps.ofOrd o with d := num d, a := num a, b := num b, off := off })
  | .wbinvr h o d a b off => some (mWord h 9 4 { MOps.ofOrd o with d := num d, a := num a, b := num b, off := off })
  | .zeror h o d a b off => some (mWord h 9 5 { MOps.ofOrd o with d := num d, a := num a, b := num b, off := off })
  | .invr h o d a b off => some (mWord h 9 3 { MOps.ofOrd o with d := num d, a := num a, b := num b, off := off })
  | .invrRo h o d a b off =>
      some (mWord h 9 3 { MOps.ofOrd o with d := num d, a := num a, b := num b, mod := 1, off := off })
  | .lockl h o n d a off =>
      some (mWord h 9 6 { MOps.ofOrd o with d := num d, a := num a, mod := (0 : BitVec 8) ++ n, off := off })
  | .unlockl h o n d a off =>
      some (mWord h 9 7 { MOps.ofOrd o with d := num d, a := num a, mod := (0 : BitVec 8) ++ n, off := off })
  | .cpy h o rtn d a b off =>
      some (mWord h 10 0 { MOps.ofOrd o with d := num d, a := num a, b := num b, mod := (0 : BitVec 10) ++ rtn, off := off })
  | .cpyi h o rtn d a b off =>
      some (mWord h 10 1 { MOps.ofOrd o with d := num d, a := num a, b := num b, mod := (0 : BitVec 10) ++ rtn, off := off })
  | .gather h o sz ix sc d a b off =>
      some (mWord h 10 2 { MOps.ofOrd o with d := num d, a := num a, b := num b, size := sz.code, mod := (0 : BitVec 12) ++ bit sc ++ bit ix, off := off })
  | .scatter h o sz ix sc d a b off =>
      some (mWord h 10 3 { MOps.ofOrd o with d := num d, a := num a, b := num b, size := sz.code, mod := (0 : BitVec 12) ++ bit sc ++ bit ix, off := off })
  | .halo h o dirs a b off =>
      some (mWord h 10 4 { MOps.ofOrd o with a := num a, b := num b, mod := (0 : BitVec 10) ++ dirs, off := off })
  | .cpyq h o d b => some (mWord h 10 5 { MOps.ofOrd o with d := num d, b := num b })
  | .send h o d a b c toff =>
      some (mWord h 11 0 { MOps.ofOrd o with d := num d, a := num a, b := num b, mod := (0 : BitVec 10) ++ (BitVec.ofFin c : BitVec 4), off := toff.setWidth 32 })
  | .sendi h o sz a b c toff =>
      some (mWord h 11 1 { MOps.ofOrd o with a := num a, b := num b, size := sz.code, mod := (0 : BitVec 10) ++ (BitVec.ofFin c : BitVec 4), off := toff.setWidth 32 })
  | .cntrd h o d c =>
      some (mWord h 11 2 { MOps.ofOrd o with d := num d, mod := (0 : BitVec 10) ++ (BitVec.ofFin c : BitVec 4) })
  | .cntadd h o self a b c k =>
      some (mWord h 11 3 { MOps.ofOrd o with a := num a, b := num b, mod := (0 : BitVec 9) ++ bit self ++ (BitVec.ofFin c : BitVec 4), off := k })
  | .cntset h o b c =>
      some (mWord h 11 4 { MOps.ofOrd o with b := num b, mod := (0 : BitVec 10) ++ (BitVec.ofFin c : BitVec 4) })
  | .wtset h d e c a b =>
      some (gWord h 11 5 { GOps.zero with d := num d, a := num a, b := num b, c := num c, mod := 0, imm := e.setWidth 48 })
  | .wtsetS h d e c a b =>
      some (gWord h 11 5 { GOps.zero with d := num d, a := num a, b := num b, c := num c, mod := 2, imm := e.setWidth 48 })
  | .wtsetL h d e c a b =>
      some (gWord h 11 5 { GOps.zero with d := num d, a := num a, b := num b, c := num c, mod := 1, imm := e.setWidth 48 })
  | .wtclr h d e => some (gWord h 11 6 { GOps.zero with d := num d, imm := e.setWidth 48 })
  | .arm h o d a off => some (mWord h 11 7 { MOps.ofOrd o with d := num d, a := num a, off := off })
  | .launch h o d a off => some (mWord h 11 9 { MOps.ofOrd o with d := num d, a := num a, off := off })
  | .exch h o d a off => some (mWord h 11 10 { MOps.ofOrd o with d := num d, a := num a, off := off })
  | .disarm h d i => some (gWord h 11 8 { GOps.zero with d := num d, imm := i.setWidth 48 })
  | .vote h a => some (gWord h 11 11 { GOps.zero with a := num a })
  | .ttsel h a => some (gWord h 11 12 { GOps.zero with a := num a })
  | .nsend h o a off => some (mWord h 11 13 { MOps.ofOrd o with a := num a, off := off })
  | .mfmt h ta tb => some (gWord h 12 0 { GOps.zero with mod := (0 : BitVec 4) ++ tb.code ++ ta.code })
  | .mtbl h o src tblB a off =>
      some (mWord h 12 1 { MOps.ofOrd o with d := (0 : BitVec 5) ++ bit tblB, a := num a, size := 2, mod := (0 : BitVec 12) ++ src.code, off := off })
  | .mring h a b => some (gWord h 12 2 { GOps.zero with a := num a, b := num b })
  | .mlda h o a b off => some (mWord h 12 3 { MOps.ofOrd o with a := num a, b := num b, off := off })
  | .mldb h o a b off => some (mWord h 12 4 { MOps.ofOrd o with a := num a, b := num b, off := off })
  | .mma h d => some (gWord h 12 5 { GOps.zero with d := num d })
  | .mmas h d => some (gWord h 12 6 { GOps.zero with d := num d })
  | .mzero h d => some (gWord h 12 9 { GOps.zero with d := num d })
  | .mskip h a => some (gWord h 12 7 { GOps.zero with a := num a })
  | .mskipOff h => some (gWord h 12 7 { GOps.zero with mod := 1 })
  | .mrot h => some (gWord h 12 8 GOps.zero)
  | .mdrain h o f rm z t a b off =>
      some (mWord h 12 10 { MOps.ofOrd o with d := num t, a := num a, b := num b, mod := (0 : BitVec 9) ++ bit z ++ rm.code ++ f.code, off := off })
  | .mcmd h o a off => some (mWord h 12 11 { MOps.ofOrd o with a := num a, off := off })
  | .mcap h d rights => some (gWord h 12 12 { GOps.zero with d := num d, mod := (0 : BitVec 10) ++ rights })
  | .mcapRev h d => some (gWord h 12 12 { GOps.zero with d := num d, mod := 4 })
  | .mstat h d t => some (gWord h 12 13 { GOps.zero with d := num d, a := num t })
  | .mstatU h d => some (gWord h 12 13 { GOps.zero with d := num d, mod := 1 })
  | .kstage h o d a off => some (mWord h 13 0 { MOps.ofOrd o with d := num d, a := num a, off := off })
  | .kstageU h o d b => some (mWord h 13 0 { MOps.ofOrd o with d := num d, b := num b, mod := 1 })
  | .ksend h o a b off => some (mWord h 13 1 { MOps.ofOrd o with a := num a, b := num b, size := 4, off := off })
  | .ksendt h o d a b off =>
      some (mWord h 13 2 { MOps.ofOrd o with d := num d, a := num a, b := num b, size := 4, off := off })
  | .kyield h => some (gWord h 13 3 GOps.zero)
  | .kend h => some (gWord h 13 4 GOps.zero)
  | .kstatOcc h d a => some (gWord h 13 5 { GOps.zero with d := num d, a := num a })
  | .kstatCnt h d a => some (gWord h 13 5 { GOps.zero with d := num d, a := num a, mod := 1 })
  | .kflush h d a => some (gWord h 13 6 { GOps.zero with d := num d, a := num a })
  | .gnew h d a => some (gWord h 14 0 { GOps.zero with d := num d, a := num a })
  | .gfree h d a => some (gWord h 14 1 { GOps.zero with d := num d, a := num a })
  | .join h d a => some (gWord h 14 2 { GOps.zero with d := num d, a := num a })
  | .leave h d a => some (gWord h 14 3 { GOps.zero with d := num d, a := num a })
  | .shresv h d a => some (gWord h 14 12 { GOps.zero with d := num d, a := num a })
  | .oprd h d a => some (gWord h 14 14 { GOps.zero with d := num d, a := num a })
  | .shgive h d a b => some (gWord h 14 11 { GOps.zero with d := num d, a := num a, b := num b })
  | .shrd h d a => some (gWord h 14 13 { GOps.zero with d := num d, a := num a })
  | .shrdL h d a => some (gWord h 14 13 { GOps.zero with d := num d, a := num a, mod := 1 })
  | .trylk h o d a off => some (mWord h 14 4 { MOps.ofOrd o with d := num d, a := num a, off := off })
  | .unlk h o d a off => some (mWord h 14 5 { MOps.ofOrd o with d := num d, a := num a, off := off })
  | .qpusht h o d a b off =>
      some (mWord h 14 6 { MOps.ofOrd o with d := num d, a := num a, b := num b, size := 3, off := off })
  | .qpopt h o n d a off =>
      some (mWord h 14 7 { MOps.ofOrd o with d := num d, a := num a, size := 3, mod := (0 : BitVec 11) ++ (BitVec.ofFin n : BitVec 3), off := off })
  | .bararr h o d a b off => some (mWord h 14 8 { MOps.ofOrd o with d := num d, a := num a, b := num b, off := off })
  | .bartry h o d a b off => some (mWord h 14 9 { MOps.ofOrd o with d := num d, a := num a, b := num b, off := off })
  | .parkLk h o a off => some (mWord h 14 10 { MOps.ofOrd o with a := num a, off := off })
  | .parkQn h o a off => some (mWord h 14 10 { MOps.ofOrd o with a := num a, mod := 1, off := off })
  | .parkQs h o a off => some (mWord h 14 10 { MOps.ofOrd o with a := num a, mod := 2, off := off })
  | .parkBar h o a b off => some (mWord h 14 10 { MOps.ofOrd o with a := num a, b := num b, mod := 3, off := off })
  | .parkRp h o a off => some (mWord h 14 10 { MOps.ofOrd o with a := num a, mod := 4, off := off })
  | .sleepTimeout _ _ | .claimRelease _ _ _ | .icacheFill _ _ | .prefetchFill _ | .userInterruptTake _ _ => none
  | .preemptionRequest _ _ | .detachTimeout _ _ | .detachedAccessPerformed _ _ | .handlerCut _ _ | .handlerAbandon _ _ => none
  | .placement _ | .continuationResume _ | .doneIncrement _ | .memoryOpPerform _ _ | .nearCacheEvict _ _ _ => none
  | .tbinv1Write _ _ | .tbInvalidationDone _ | .registerWrite _ _ | .fqnoteWrite _ | .fqringWrite _ => none
  | .pageRequestRetry _ | .prrespWrite _ _ | .streamerKick _ | .streamerChunk _ | .completionRelease _ => none
  | .descriptorFreeTimeout _ _ | .counterUpdate _ | .wtEntryFire _ _ | .triggerStart _ _ | .triggerComplete _ _ => none
  | .exchPhaseRelease _ | .timetableStart _ | .timetableEnd _ | .nsendArrival _ | .nsendAck _ => none
  | .matrixEntryService _ | .ringTileArrive _ | .ringCreditReturn _ | .mrotTimeout _ | .mcmdKickArrive _ => none
  | .leaseExpire _ | .matrixUnitFail _ | .ksendAnswer _ | .ksendResend _ _ | .reservationLapse _ => none
  | .keyedRecordArrive _ | .dispatch _ | .huskLookupDone _ _ | .huskSpillDone _ _ | .huskReloadDone _ _ => none
  | .retireDue _ _ | .stageAutoUnbind _ _ | .gnewGroupSettle _ | .shareMessage _ | .probeMessage _ => none
  | .cycleWakeMessage _ | .probeRecordExpire _ | .opChange _ | .clockSwitch _ | .slewHoldEnd _ | .slewUnassisted _ => none
  | .errcfgWrite _ | .hostCounterWrite _ _ _ | .hostBar2Access _ | .linkFlitResend _ _ | .linkDown _ _ => none
  | .linkLossComplete _ _ | .eccError _ _ | .coreFreeze _ | .deviceReset | .boot _ => none

/-- The instruction that the decoder reads from a word of the opcode table: bit 0 of the table is the least significant
bit of the byte at the lowest address, which for this little-endian word is bit 0 of the word (R3, R56). -/
def decodeTableWord (nbits w : Nat) : Option Instr :=
  match decodeBytes (bytesOfNat 16 (w % 2 ^ nbits)) with
  | some (.ok i, _) => some i
  | _ => none

end Sys2Proof
end

