-- ==== Sys2Proof/Config.lean ====
section
/-!
DEFINITION. What one part of the device fixes and the spec leaves open: constants without a body, which nothing can
evaluate.
-/
set_option Elab.async false
namespace Sys2Proof.Config

/-- FEAT.stepping, from fuses (R96; log 5). -/
opaque stepping : BitVec 8

/-- The check of a capability: a keyed function of the unit's secret key (named by the unit and by which draw it is),
die, cluster, ASID, generation and rights (R252; log 6). -/
opaque check (cluster draw die index asid gen rights : Nat) : BitVec 32

/-- The address of a mailbox entry as an expert routine sees it in x5 (R199; log 7). -/
opaque mailbox (handle : Nat) : BitVec 48

/-- Where an engine begins to look for a free descriptor for a command: the spec leaves the descriptor's index to the
device (R200; log 8). -/
opaque descriptor (command : Nat) : Nat

/-- What the matrix unit finds in a poisoned byte of local memory: the spec gives the access no cause and the byte no value
(R256, R349; log 21). -/
opaque poisonByte (use : Nat) (offset : Nat) : BitVec 8

/-- What a byte reads as to an agent whose ASID has another key than the one it was written under: the agent's key, the
address, the contents of the encrypted block, and when it is read (R27; log 53). -/
opaque deciphered (key addr block time : Nat) : BitVec 8

/-- Whether an outstanding request, or its reply, uses a link: paths are the router layer's (R368; log 23). -/
opaque crosses (die port request : Nat) : Bool

/-- Whether a lost request had reached its target, so that only its reply was lost (R368; log 23). -/
opaque replyLost (request : Nat) : Bool

/-- Whether the state of a task or of a context of a frozen core fails under ECC (R375; log 24). -/
opaque stateFails (core item time : Nat) : Bool

/-- Whether a physical cluster site passes test (R18; log 25). -/
opaque sitePasses (die cluster : Nat) : Bool

/-- The gateway die whose stacks hold a physical line (R14; log 26). -/
opaque stackDie (line : Nat) : Fin 8

end Sys2Proof.Config
end

