-- ==== Sys2Proof/Machine/State.lean ====
section
/-!
DEFINITION. The state of the whole package: plain data. Cores, clusters, dies, slices, groups, tasks, engine commands and
messages are kept in keyed tables; a key that is absent stands for the item at its reset value.
-/
set_option Elab.async false
namespace Sys2Proof.Machine

/-- Why the machine stops. -/
inductive Fault where
  /-- Raised by an instruction's meaning when the current slot holds no task. The core cycle never issues from an empty
  slot, so only a state outside every run meets it. Safe. -/
  | noTask
  deriving DecidableEq, Repr

/-- Why an instruction has no meaning here. -/
inductive Refusal where
  /-- Raised by an arm of exec whose instruction has no meaning yet. Safe. -/
  | notModelled (mnemonic : String)
  deriving DecidableEq, Repr

/-! ### Storage -/

/-- Bytes by address, in canonical form: addresses strictly rising and no byte equal to what an unlisted one reads as. -/
abbrev Mem := List Host.Cell

/-- A register of a slot, as dependences name it (R69). x 32 to x 39 are the shadow x24 to x31 (R63); a decode table
counts as a register (R148). -/
inductive Reg where
  | x (n : Nat)
  | v (n : Nat)
  | p (n : Nat)
  | tbl (b : Bool)
  deriving DecidableEq, Repr

/-- A decode table: a shipped one or an image of 256 words (R117, R118). -/
inductive DecTable where
  | q43
  | q52
  | img (words : List (BitVec 32))
  deriving DecidableEq, Repr

/-- A stretch of an access on one page, translated at issue: where it lies and what its page permits (R153). -/
structure Seg where
  va  : Nat
  pa  : Nat
  len : Nat
  swm : Bool
  cls : Nat
  w   : Bool
  deriving DecidableEq, Repr

/-- Where an access goes: a core's local memory, or global memory in an ASID (R151). -/
inductive Loc where
  | loc (core off : Nat)
  | glob (asid : Nat) (g : Seg)
  deriving DecidableEq, Repr

/-- The causes of R315. -/
inductive Cause where
  | illegal | featureAbsent | hintMiss | brk | trap | privileged | noHandler | fetchBounds | noContext | frame
  | align | address | window | page | permission | aliased | poison
  deriving DecidableEq, Repr

/-- A trap about to be taken (R315, R334). -/
structure Trap where
  cause  : Cause
  detail : Nat := 0
  addr   : Word := 0
  code   : Nat := 0        -- the code of BREAK or TRAP
  nextPc : Bool := false   -- the saved PC is that of the next word (R100)
  word   : BitVec 128 := 0 -- the word that trapped; zero for fetch causes (R317)
  deriving DecidableEq, Repr

/-- The kinds of PARK (R298). -/
inductive ParkKind where
  | lk | qn | qs | bar | rp
  deriving DecidableEq, Repr

/-- A matrix-queue entry (R237). -/
inductive MKind where
  | mfmt (ta tb : MTy)
  | mtbl (src : List Loc) (tblB : Bool)
  | mtblCopy (t : DecTable) (tblB : Bool)
  | mring (succ pred : Nat)
  | mlda (core off pitch : Nat)
  | mldb (core off pitch : Nat)
  | mma (t : Nat)
  | mmas (t : Nat)
  | mskip (ptr : Nat)
  | mskipOff
  | mrot
  | mzero (t : Nat)
  | mdrain (f : DFmt) (rm : Rnd) (z : Bool) (t core off pitch : Nat)
  | mcap (rights dst : Nat)
  | mcapRev (dst : Nat)
  | mstat (t dst : Nat)
  | mstatU (dst : Nat)
  deriving DecidableEq, Repr

/-- What a direct ordered operation does when it is performed, with the operands it captured at issue (R158). Register
numbers are physical (Reg.x). -/
inductive OpKind where
  | load (ro : Bool) (l : Loc) (n : Nat) (ext : Bool) (dst : Nat)
  | loadV (ro : Bool) (l : Loc) (mask : Pred) (dst : Nat)
  | store (l : Loc) (n : Nat) (v : Word)
  | storeV (l : Loc) (mask : Pred) (v : Vec)
  | gatherL (core e : Nat) (lanes : List (Nat × Nat)) (dst : Nat)         -- LDG: lane, local offset
  | scatterL (core e : Nat) (lanes : List (Nat × Nat × Nat))              -- STS: lane, local offset, value
  | amo (l : Loc) (op : AmoOp) (n : Nat) (ext : Bool) (v : Word) (dst : Nat)
  | cas (l : Loc) (n : Nat) (ext : Bool) (cmp new : Word) (dst : Nat)
  | tblld (src : List Loc) (tblB : Bool)
  | wbr (segs : List Loc) (rem : Word) (dst : Nat)
  | invr (ro : Bool) (segs : List Loc) (rem : Word) (dst : Nat)
  | wbinvr (segs : List Loc) (rem : Word) (dst : Nat)
  | zeror (segs : List Loc) (rem : Word) (dst : Nat)
  | lockl (lock : Bool) (lines : List Loc) (at_ bm : Nat) (dst : Nat)      -- lines left, lines handled, those that failed
  | cpyq (handle dst : Nat)
  | send (coord toff ctr : Nat) (data : List Byte) (src : Option (Nat × Nat))   -- src: local offset and length of SEND
  | cntrd (ctr dst : Nat)
  | cntadd (coord ctr : Nat) (amount : BitVec 32)
  | cntset (ctr : Nat) (v : BitVec 32)
  | arm (l : Loc) (dst : Nat)
  | launch (l : Loc) (dst : Nat)
  | nsend (l : Loc)
  | matrix (entry : Nat)
  | kstage (l : List Loc) (dst : Nat)
  | kstageU (handle : Word) (closed : Bool) (dst : Nat)   -- closed: its first step has been taken (R263)
  | trylk (l : Loc) (g : GroupId) (dst : Nat)             -- g: the issuer's group
  | unlk (l : Loc) (g : GroupId) (dst : Nat)
  | qpusht (l : Loc) (v : Word) (dst : Nat)
  | qpopt (l : Loc) (n dst : Nat)
  | bararr (l : Loc) (i dst : Nat)
  | bartry (l : Loc) (gen dst : Nat)
  | park (k : ParkKind) (l : Loc) (gen : Nat)
  deriving DecidableEq, Repr

/-- A direct operation of a task that is outstanding (R158 to R160). -/
structure MemOp where
  id     : Nat
  stream : Nat
  deps   : List Nat               -- the operations ordered before it that were outstanding at its issue
  spans  : List (Nat × Nat)       -- effective addresses it accesses, with lengths (R159 clause 2)
  sync   : Sync
  scope  : Scope
  kind   : OpKind
  pc     : Word
  mask   : Option Word := none    -- the WAYMASK at its issue (R192); none: an agent without one
  sent   : Bool := false          -- a message of it is on its way (R221)
  lost   : Option (Nat × Nat) := none   -- lost with a link declared down in that router cycle, and that link (R368)
  deriving DecidableEq, Repr

/-- An instruction whose registers are not yet free for its readers, or whose claim still stands (R66, R68). -/
structure Inflight where
  id     : Nat
  writes : List Reg
  reads  : List Reg               -- sources that it may still read
  claim  : Claim
  left   : Option Nat             -- core cycles left; none: until its completion
  byOp   : Bool := false          -- completed by the operation, command or matrix entry of the same id
  deriving DecidableEq, Repr

/-- An earlier instruction that dependences still look back to (R69, R70). -/
structure Hist where
  writes : List Reg
  reads  : List Reg               -- of a variable producer only
  lat    : Option Nat             -- none: variable
  dist   : Nat                    -- declared distance so far
  claim  : Claim
  deriving DecidableEq, Repr

/-- A reuse latch (R67). -/
structure Latch where
  reg   : Reg
  val   : Vec
  fresh : Bool                    -- no write to reg has been performed since
  deriving DecidableEq, Repr

/-- The release status of the last write of a byte of a location (R164, R166). -/
structure RelTag where
  loc   : Option Nat                     -- the core of a local byte; none: a physical address
  addr  : Nat
  agent : Nat                            -- the releasing core
  scope : Scope
  deriving DecidableEq, Repr

/-- What a slot held before it issued an operation that may still trap when it is performed: its registers, with the results
of older operations that have come since, and the user-level interrupts taken since (R171). -/
structure Undo where
  id       : Nat
  word     : BitVec 128
  pc       : Word
  xs       : Vector Word 40
  vs       : Vector Vec 16
  ps       : Vector Pred 8
  poison   : List (Reg × Nat)
  fpstat   : BitVec 5
  misses   : BitVec 32
  lastkind : BitVec 3
  scopemiss : Bool
  xlast    : BitVec 32
  xid      : BitVec 32 := 0
  uepc     : Word := 0
  inh      : Bool := false
  upcall   : Bool := false
  bank     : Bool := false
  handlers : List (Word × BitVec 32) := []
  taken    : List (Word × BitVec 32) := []
  flow     : List (Reg × Nat) := []
  turned   : List Nat := []
  deriving DecidableEq, Repr

/-- What keeps a slot from issuing although its task is resident. -/
inductive Hold where
  | none
  | op (id : Nat)                                          -- until that operation is performed or that entry served
  | sleep (ctr : Nat) (v : BitVec 32) (t0 timeout dst : Nat)   -- R105
  | trapping (t : Trap)                                    -- draining before trap entry (R101)
  | paging (t : Trap) (va : Nat)                           -- a PAGE, draining before it is posted (R336)
  | suspend (gpa : Nat) (kinds : Nat) (t : Trap)           -- draining before a stage-two suspension (R344)
  | ending                                                 -- END (R91)
  | halting                                                -- HALT (R104)
  | yielding (kend : Bool)                                 -- KYIELD, KEND (R282)
  | returning (word : BitVec 128)                          -- TRAPRET (R102, R320)
  | wtSave (e : Nat) (rec : Word)                          -- WTSET.s (R223)
  | ksend (cmd : Nat)                                      -- KSEND awaits its answer (R281)
  | ksendFull (cmd : Nat)                                  -- refused with the waiter list full (R268)
  | preempt (sleep : Option (Nat × Nat))                   -- draining for pre-emption (R52); of a SLEEP: counter, register
  | abandon (sleep : Option (Nat × Nat))                   -- draining before its handler is abandoned (R332); of a SLEEP
  | saving (origin : Nat) (feat : Option (BitVec 16)) (fw : Bool) (signal : Option (Nat × Nat))
                                                           -- its save entry's page is awaited (R354)
  deriving DecidableEq, Repr

/-- One of the four slots of a core, holding a resident task (R29, R34). -/
structure SlotSt where
  task     : Nat
  pc       : Word := 0
  xs       : Vector Word 40 := Vector.replicate 40 0
  vs       : Vector Vec 16 := Vector.replicate 16 0
  ps       : Vector Pred 8 := Vector.replicate 8 0
  poison   : List (Reg × Nat) := []        -- poisoned registers and the address that poisoned each (R369)
  fpstat   : BitVec 5 := 0                 -- R125
  misses   : BitVec 32 := 0                -- HINTCTL (R72)
  slips    : BitVec 16 := 0
  lastkind : BitVec 3 := 0
  strict   : Bool := false
  bank     : Bool := false                 -- x24 to x31 select the shadow bank (R63)
  inh      : Bool := false                 -- TSTAT (R95)
  level    : BitVec 2 := 0
  upcall   : Bool := false
  scopemiss : Bool := false
  xlast    : BitVec 32 := 0                -- XFERID (R200)
  xid      : BitVec 32 := 0
  uepc     : Word := 0                     -- R97
  gap      : Nat := 0                      -- gap_left (R49)
  frozen   : Option Nat := none            -- the fetch block awaited (R50)
  fmask    : Option Word := none           -- and the WAYMASK that its request carries (R192)
  hist     : List Hist := []
  inflight : List Inflight := []
  ops      : List MemOp := []
  undo     : List Undo := []               -- before the operations that may still trap, oldest first (R171)
  latA     : Option Latch := none
  latB     : Option Latch := none
  latC     : Option Latch := none
  flow     : List (Reg × Nat) := []        -- registers that depend on the predicate of a KSENDT, and its command (R159)
  fed      : List Nat := []                -- the KSENDTs on whose predicates the last instruction issued depends (R159)
  turned   : List Nat := []                -- those on which a control transfer has depended (R159)
  hold     : Hold := .none
  mark     : Option Trap := none           -- the PAGE that a notice left for the instruction that executes (R340)
  preReq   : Option Nat := none            -- a pre-emption request and its router cycle (R51)
  handlers : List (Word × BitVec 32) := [] -- the CPYI interrupt being handled: handler and xid (R331)
  recalling : Bool := false                -- shares lent to the group are being recalled (R52)
  saveWait : Option (Bool × Nat) := none   -- the fault record, or (true) page request, that a save entry waits on (R354)
  deriving DecidableEq, Repr

/-! ### Tasks, launches, groups -/

/-- A continuation record in memory: its ASID and address. -/
structure RecAt where
  asid : Nat
  va   : Nat
  deriving DecidableEq, Repr

/-- Where a task is (R34, R287). -/
inductive Place where
  | queued (core : Nat)
  | resident (core slot : Nat)
  | parked (core : Nat) (r : RecAt)
  | saved (core : Nat) (r : RecAt)
  | idle                               -- a coroutine between records (R270)
  | ended
  deriving DecidableEq, Repr

/-- A pending user-level interrupt of CPYI (R211). -/
structure UserInt where
  handler : Word
  xid     : BitVec 32
  deriving DecidableEq, Repr

/-- What a parked task waits for (R298 to R300). -/
structure Wait where
  kind   : ParkKind
  obj    : Nat               -- physical address of the object
  asid   : Nat
  coord  : Nat               -- PARK.rp: the watched counter
  ctr    : Nat
  thresh : BitVec 32
  stage  : Option (Nat × Nat)   -- a refused KSEND: the member and the stage slot (R268)
  groups : List GroupId
  deriving DecidableEq, Repr

/-- The key, the stage and the run token of a coroutine (R269). -/
structure Coro where
  core  : Nat
  stage : Nat
  ctx   : Nat
  cmd   : Option Nat         -- the KSEND whose record it handles (R277)
  deriving DecidableEq, Repr

structure TaskSt where
  launch  : Nat
  asid    : Nat
  tile    : Nat := 0
  home    : Nat := 0                 -- its own coordinate (R39)
  layer   : Nat := 0
  group   : GroupId := 0
  prio    : Nat := 0
  feat    : BitVec 16 := 0
  level0  : BitVec 2 := 0            -- the level at which it was placed
  place   : Place := .ended
  seq     : Nat := 0                 -- engine-command sequence number (R200)
  ints    : List UserInt := []
  wait    : Option Wait := none
  wake    : Option Pred := none      -- status for p7 at resumption (R355)
  coro    : Option Coro := none
  detached : List MemOp := []        -- R53
  marks   : List (Word × Trap) := [] -- instructions whose next execution takes PAGE, unresolved, with that trap (R340)
  miss    : Option Trap := none      -- the PAGE of a stage-two miss that suspended it (R344)
  missAt  : Option Word := none      -- and the pc of the instruction that missed, where its record stands elsewhere
  missFail : Bool := false           -- and whether it is to be taken at resumption
  vote    : Nat := 0                 -- R232
  pin     : Bool := false            -- its record is pinned (R38)
  kept    : Option (Nat × RecAt) := none   -- while it is not resident: the core that saved it and its record
  keptAt  : Nat := 0                 -- and the physical cluster of that core at the save (R162)
  skew    : List Int := []           -- by stream: the count that its record gave, less what was then outstanding (R37, R161)
  fired   : Option Nat := none       -- the core whose fired entry queues its record once that is saved (R46)
  fw      : Bool := false            -- its record is the scheduler firmware's to queue (R52, R104, R376)
  flow    : List (Reg × Nat) := []   -- while it is not resident: what its slot held in flow and turned (R159, R161)
  turned  : List Nat := []
  deriving DecidableEq, Repr

/-- The fields of a launch record, as read when the launch fired (R40). -/
structure LaunchRec where
  kbind : Nat
  doneEn : Bool
  doneCtr : Nat
  doneCoord : Nat
  image : Nat
  save : Nat
  lmsize : Nat
  lmoff : Nat
  parkmask : BitVec 32
  feat : BitVec 16
  asid : Nat
  prio : Nat
  cap : Nat
  shares : Nat
  group : GroupId
  gmode : Nat
  layers : Nat
  ncol : Nat
  nrow : Nat
  ndie : Nat
  orgcol : Nat
  orgrow : Nat
  orgdie : Nat
  args : Nat
  entry : Word
  limit : Word
  code : Word
  deriving DecidableEq, Repr

structure LaunchSt where
  r       : LaunchRec
  level   : BitVec 2                -- of its source: 1 for control cores
  phase   : Nat := 0                -- exchange phase count (R230)
  trel    : Option Nat := none      -- Trel of a released phase
  combined : Nat := 0               -- the combined vote
  argv    : List Word := []         -- its argument block, read when it fired (R42)
  topo    : List (Nat × Nat) := []  -- topology generations of its dies when it fired (R372)
  done    : Bool := false           -- its done increment is on its way, and its number still held (R31)
  deriving DecidableEq, Repr

/-- How a group came to be (R286). -/
inductive Origin where
  | launch (n : Nat)
  | gnew (launch : Nat)
  | leave
  deriving DecidableEq, Repr

structure GroupSt where
  gen    : BitVec 6
  live   : Bool := true
  asid   : Nat := 0
  own    : Nat := 0
  resv   : Nat := 0
  cap    : Nat := 0
  inn    : List Nat := []           -- shares received, by depth class 1 to 8
  lent   : List Nat := []           -- of those, the ones that it has passed on and not got back, by class (R302, R303)
  away   : Nat := 0                 -- own shares that other groups hold
  lost   : Option (Nat × Nat) := none   -- a share message to it lost: when its link went down, and that link (R368)
  home   : Nat := 0                 -- home die (R363)
  origin : Origin := .leave
  settled : Bool := false           -- its launch is done (R286)
  deriving DecidableEq, Repr

/-- A wait-for edge (R300). -/
structure Edge where
  src   : GroupId
  dst   : GroupId
  time  : Nat                       -- registration order
  tasks : List Nat
  deriving DecidableEq, Repr

/-- A cycle probe on its way, with the groups it has crossed, latest first (R356). -/
structure Probe where
  origin : GroupId
  serial : Nat
  at_    : GroupId
  path   : List GroupId
  deriving DecidableEq, Repr

/-- A record that a group forwarded a probe (R356). -/
structure ProbeRec where
  group  : GroupId
  origin : GroupId
  serial : Nat
  next   : GroupId
  time   : Nat
  deriving DecidableEq, Repr

/-- A wake message of a declared cycle and the groups it has still to visit (R357). -/
structure WakeMsg where
  path : List GroupId
  deriving DecidableEq, Repr

/-! ### Engine commands -/

inductive CmdKind where
  | cpy (dst src pr : Word) (rtn : Nat) (intr : Bool)
  | lanes (e : Nat) (moves : List (Word × Word))            -- GATHER, SCATTER: from, to
  | halo (dirs : Nat) (ea x : Word)
  | exch (dir : Nat) (dst : Nat)
  | mcmd (rec : Nat)                                        -- the record's address
  | ksend (rec : List Loc) (handle : Word) (pred : Option Nat)
  deriving DecidableEq, Repr

/-- Stages of an engine command (R201). -/
inductive CmdState where
  | issued                          -- its kick awaits the operations ordered before it (R205)
  | queued                          -- in the engine's table
  | running
  | waiting (recs : List Nat)       -- on fault records of its ASID, or on page requests (R346)
  | saved                           -- R207
  | releasing (status : Nat)        -- the completion release is on its way
  | done (status time : Nat)
  deriving DecidableEq, Repr

/-- What an exchange phase gives an EXCH that it released: the combined vote, its core's selection map, and, from Trel on,
when its core's timetable ended and whether that has met a fault (R228, R232, R372). -/
structure XPhase where
  vote  : Nat
  map   : BitVec 24
  endAt : Option Nat := none
  fault : Bool := false
  deriving DecidableEq, Repr

/-- Status codes of a finished command: 3 DONE, 5 PARTIAL, 6 FAULTED, 7 REFUSED (R201, R345). -/
structure Cmd where
  core   : Nat
  task   : Option Nat               -- none for a triggered action
  trig   : Option Nat := none       -- the trigger that started it
  asid   : Nat
  handle : Nat
  stream : Nat := 0
  deps   : List Nat := []
  engine : Nat
  kind   : CmdKind
  state  : CmdState := .issued
  offset : Nat := 0                 -- bytes moved, or the chunk to resume at
  buf    : List (Nat × Word × List Byte) := []   -- element number, destination, bytes read before a fault (R346)
  idx    : List (Nat × List Byte) := []          -- index entries read before it, by number; no bytes: poisoned (R346)
  pat    : Option (List Byte) := none            -- the pattern record or parameter block, once read
  rel    : Bool := false
  xid    : Option UserInt := none   -- the user interrupt of CPYI
  arrived : Bool := false           -- an EXCH that has reached its barrier
  taken  : Option (BitVec 24) := none   -- the selection map that the first arrival of a core took (R232)
  phase  : Option XPhase := none    -- and the phase that released it
  vote   : Nat := 0
  sel    : Nat := 0
  arr    : Nat := 0                 -- when its kick reached the engine; 0: it has not
  mask   : Option Word := none      -- the WAYMASK at its issue, which a KSEND's read carries (R192)
  deriving DecidableEq, Repr

/-- A counter message in flight (R218, R221). -/
structure CMsg where
  coord : Nat
  ctr   : Nat
  add   : BitVec 32
  asid  : Option Nat                -- none: a host write
  judged : Bool := true             -- whether R370 judges it against the owner
  toff  : Nat := 0
  data  : List Byte := []
  bad   : Bool := false             -- the data is poisoned
  op    : Option (Nat × Nat) := none   -- the task and operation that it performs
  trig  : Option (Nat × Nat) := none   -- the core and trigger that it completes
  halo  : Option Nat := none        -- the HALO command it belongs to
  launch : Option Nat := none       -- the launch whose done increment it is (R31)
  link  : Option (Nat × Nat) := none   -- lost with a link declared down in that router cycle, and that link (R368)
  deriving DecidableEq, Repr

/-- What a member answers to a keyed record (R281). -/
inductive Answer where
  | accepted | refused | dropped
  deriving DecidableEq, Repr

/-- An answer on its way to the sender, under the name of the command (R281). -/
structure KMsg where
  task   : Nat
  pred   : Option Nat := none       -- the predicate of a KSENDT
  coord  : Nat
  stage  : Nat
  answer : Answer
  deriving DecidableEq, Repr

/-! ### Cores -/

structure WtEntry where
  valid  : Bool := false
  launchRec : Bool := false         -- kind
  ctr    : Nat := 0
  thresh : BitVec 32 := 0
  recVa  : Nat := 0
  asid   : Nat := 0
  task   : Option Nat := none       -- the task that a WTSET.s suspended
  level  : BitVec 2 := 0            -- of the writer
  launch : Nat := 0                 -- of the writer
  ready  : Option Nat := none       -- when it became ready
  deriving DecidableEq, Repr

inductive TrigAction where
  | send (coord toff ctr len src : Nat)
  | cpy (dst src pr : Word) (rtn : Nat)
  | cntadd (coord ctr : Nat) (amount : BitVec 32)
  | nsend (va : Nat)
  deriving DecidableEq, Repr

/-- An armed or running trigger (R224 to R226). -/
structure Trigger where
  ctr     : Nat
  thresh  : BitVec 32
  doneEn  : Bool
  doneCtr : Nat
  action  : TrigAction
  asid    : Nat
  ready   : Option Nat := none
  started : Bool := false
  complete : Bool := false          -- its action has completed
  deriving DecidableEq, Repr

/-- How a queued task starts (R42, R46, R274). -/
inductive Start where
  | fresh
  | record (r : RecAt)
  | coro (rec : List Byte) (retire : Bool)
  deriving DecidableEq, Repr

structure QItem where
  task   : Nat
  prio   : Nat
  launch : Nat
  layer  : Nat
  start  : Start
  waiting : Bool := false           -- it has reached the core and found no slot (R42)
  acq    : Bool := false            -- its task has acquired at device scope since it left a slot (R218, R227, R261, R278)
  deriving DecidableEq, Repr

/-- A row flag or column flag per line of a tile, its mode, and 256 values of 21 bits in row-major order (R235). -/
structure MLatch where
  vals  : List (BitVec 21) := []    -- empty: all zero
  int   : Bool := false
  flags : BitVec 16 := 0
  deriving DecidableEq, Repr

/-- An accumulator tile (R235). -/
structure Acc where
  vals  : List (BitVec 40) := []    -- empty: all zero
  int   : Bool := false
  taint : BitVec 16 := 0
  nan   : Bool := false
  inf   : Bool := false
  sat   : Bool := false
  mm    : Bool := false
  deriving DecidableEq, Repr

structure MEntry where
  id   : Nat
  kind : MKind
  task : Option Nat                 -- whose registers and operations it completes
  op   : Option Nat := none         -- the operation it performs
  asid : Nat
  begun : Bool := false             -- MROT: its service has begun
  started : Bool := false           -- MROT: the tile has been sent
  t0   : Nat := 0                   -- and when
  deriving DecidableEq, Repr

/-- A KFLUSH in progress at a member: the keys that it has still to retire there, and how many it has retired (R284). -/
structure FlushSt where
  task : Nat
  dst  : Nat
  id   : Nat                        -- its name in flight
  keys : List Word
  done : Nat := 0
  deriving DecidableEq, Repr

/-- A stage binding (R257, R258, R261). -/
structure StageSt where
  asid     : Nat
  launch   : Nat
  handle   : Word
  index    : Nat                    -- member index
  entry    : Word
  husk     : Nat                    -- huskbase
  livemask : BitVec 32
  share    : Nat
  run      : Nat
  nblog    : Nat
  retire   : Nat
  seeded   : Bool
  group    : GroupId
  image    : List Word
  husks    : List Word := []        -- keys of Husks written and not read back
  found    : List Word := []        -- keys that a lookup found valid and that are not reloaded
  looked   : List Word := []        -- keys looked up since their last change of state
  busy     : Option (Nat × Word) := none   -- 0 lookup, 1 spill, 2 reload in progress, with the key
  await    : Option (Bool × Nat) := none   -- that access waits on a fault record, or (true) on a page request
  victimNo : List Nat := []         -- contexts whose spill failed (R353)
  inst     : BitVec 16 := 0
  spills   : BitVec 16 := 0
  reloads  : BitVec 16 := 0
  retires  : BitVec 16 := 0
  retiring : List Word := []        -- keys that KFLUSH or R264 has still to retire
  flush    : List FlushSt := []
  closed   : Bool := false          -- an unbind has closed it to new records (R263)
  deriving DecidableEq, Repr

inductive PodState where
  | idle | run | spill | load
  deriving DecidableEq, Repr

structure PodCtx where
  stage  : Nat
  key    : Word
  state  : PodState
  regs   : List Word := []
  pc     : Word := 0
  scopemiss : Bool := false
  token  : Nat := 0
  poison : List (Reg × Nat) := []   -- poisoned live registers (R369)
  last   : Nat := 0
  idle   : Nat := 0
  retire : Bool := false
  task   : Nat := 0                 -- the coroutine's task, from instantiation to its end
  snap   : Option Nat := none       -- the stream counts of the Husk that it was read back from, until it resumes (R274)
  deriving DecidableEq, Repr

structure InRec where
  cmd   : Nat
  stage : Nat
  bytes : List Byte
  deriving DecidableEq, Repr

/-- A task on a member's waiter list, or an inbox entry reserved for it (R268). -/
structure Waiter where
  task  : Nat
  stage : Nat
  deriving DecidableEq, Repr

/-- The selection map of a core (R232). -/
structure ExchSt where
  map     : BitVec 24 := 0xFAC688   -- entry r = r
  deriving DecidableEq, Repr

structure CoreSt where
  owner    : Option Nat := none
  feat     : BitVec 16 := 0x003F
  lmem     : Mem := []
  lpoison  : List Nat := []           -- poisoned words of local memory (R349)
  ctrs     : Vector (BitVec 32) 16 := Vector.replicate 16 0
  wt       : Tab WtEntry := []
  trig     : Tab Trigger := []
  tblA     : DecTable := .q43
  tblB     : DecTable := .q43
  tvec     : Word := 0
  uvec     : Word := 0
  tframe   : Word := 0
  waymask  : Word := 0xFFFFFFFFFFFFFFFF
  rtcode   : Word := 0
  rtlimit  : Word := 0
  fwvec    : Word := 0
  fwframe  : Word := 0
  upcode   : Word := 0
  uplimit  : Word := 0
  slots    : Tab SlotSt := []
  rr       : Nat := 3
  last     : Nat := 3
  yielded  : Bool := false
  queue    : List QItem := []
  halted   : Bool := false
  unavail  : Bool := false
  freezing : Bool := false            -- it is frozen, and its tasks and matrix entries still drain (R375)
  settle   : Nat := 0                 -- issue is held until this router cycle while a regulator settles (R365)
  op       : Nat := 0                 -- operating point, 0 stopped (R288)
  target   : Nat := 0
  stepping : Bool := false
  images   : List Nat := []           -- launches whose local image was saved here and not restored (R54)
  badImage : List Nat := []           -- of those, the ones whose save failed
  fmtA     : MTy := .bf16
  fmtB     : MTy := .bf16
  mint     : Bool := false            -- integer mode
  mTA      : DecTable := .q43
  mTB      : DecTable := .q43
  latA     : MLatch := {}
  skOn     : Bool := false
  skPtr    : BitVec 16 := 0
  skLeft   : BitVec 8 := 0
  skZero   : Bool := false
  a0       : Acc := {}
  a1       : Acc := {}
  mq       : List MEntry := []
  stages   : Tab StageSt := []
  pod      : Tab PodCtx := []
  inbox    : List InRec := []
  waiters  : List Waiter := []
  resvd    : List (Waiter × Nat) := []   -- inbox entries reserved, and until when
  exch     : ExchSt := {}
  served   : Nat := 0                 -- the stage the dispatcher served last
  incAt    : Tab Nat := []            -- by counter: the router cycle of its last increment (R217)
  firedAt  : Option Nat := none       -- the router cycle in which its table last fired (R45)
  trigAt   : Option Nat := none       -- and in which it last started a trigger (R226)
  dispAt   : Option Nat := none       -- and in which its dispatcher or a retirement of it last acted (R271)
  deriving DecidableEq, Repr

/-! ### Clusters, matrix units, dies, slices -/

/-- A near-cache line (R179). -/
structure NearLine where
  asid   : Nat
  line   : Nat                       -- VA[55:7]
  pa     : Nat                       -- physical address of the line
  swm    : Bool
  cls    : Nat                       -- its page's class (R153)
  valid  : BitVec 32
  dirty  : BitVec 128
  data   : BitVec 1024
  poison : BitVec 32
  rel    : List RelTag := []         -- the releases that wrote its bytes (R166)
  deriving DecidableEq, Repr

structure RoLine where
  asid   : Nat
  line   : Nat
  data   : BitVec 1024
  poison : BitVec 32
  deriving DecidableEq, Repr

/-- A 64-byte block of the instruction cache; firmware blocks are physical (R319). -/
structure IBlock where
  asid  : Option Nat
  blk   : Nat
  data  : BitVec 512
  bad   : Bool
  deriving DecidableEq, Repr

/-- A command at a unit's front (R253, R254). -/
structure FrontCmd where
  cmd : Nat
  ok   : Bool := false               -- it has passed the checks of R254
  step : Nat := 0                    -- steps done
  deriving DecidableEq, Repr

structure MUnit where
  latB   : MLatch := {}
  bnext  : Option MLatch := none
  succ   : Option Nat := none        -- physical cluster; none: itself
  pred   : Option Nat := none
  credit : Bool := true
  ag0    : Acc := {}
  ag1    : Acc := {}
  latBAsid : Option Nat := none      -- the ASID each unit-wide item carries (R236)
  ringAsid : Option Nat := none
  ag0Asid  : Option Nat := none
  ag1Asid  : Option Nat := none
  lease  : Option (Nat × Nat) := none   -- commander's core and ASID
  leaseAt : Nat := 0                 -- its last completion
  front  : List FrontCmd := []
  gen    : BitVec 6 := 0
  draw   : Nat := 0                  -- which secret key the unit holds
  rr     : Nat := 0                  -- last requester served
  failed : Bool := false
  deriving DecidableEq, Repr

structure ClusterSt where
  near   : List NearLine := []       -- most recently used first
  ro     : List RoLine := []
  icache : List IBlock := []
  unit   : MUnit := {}
  deriving DecidableEq, Repr

/-- A ring tile or credit on its way (R243). -/
structure RingTile where
  dst  : Nat
  src  : Nat
  asid : Nat
  tile : MLatch
  deriving DecidableEq, Repr

structure RemapEntry where
  valid : Bool
  lrow : Nat
  lcol : Nat
  prow : Nat
  pcol : Nat
  deriving DecidableEq, Repr

/-- A raise of an operating point that waits for the bank (R292, R365). -/
structure Raise where
  core  : Nat
  since : Nat
  deriving DecidableEq, Repr

structure DieSt where
  clusterMap : Tab (BitVec 16) := []     -- an absent entry is the identity (R19)
  coreMap  : List RemapEntry := []
  frozen   : List (Nat × Nat) := []      -- physical sites of cores that froze (R375)
  topo     : Nat := 0                    -- topology generation (R372)
  links    : List Nat := []              -- ports declared down
  resends  : Tab (Nat × Nat) := []       -- resends of a flit in a row, by port, and the router cycle of the latest (R368)
  thresh   : BitVec 16 := 0x0100         -- ECCCNT (R378)
  eccBy    : Tab Nat := []               -- corrected errors by structure since its last report (R378)
  uncorr   : BitVec 16 := 0
  corr     : BitVec 32 := 0
  stale    : BitVec 16 := 0              -- WGCNT (R363)
  cycles   : BitVec 16 := 0
  orphans  : BitVec 16 := 0
  unassisted : BitVec 16 := 0
  spent    : Nat := 0                    -- bank charge used, in 1/25 of a level-raise; 0: full, 12,800: empty (R292)
  raises   : List Raise := []
  holding  : Bool := false               -- issue on the die is held (R292)
  slewholds : BitVec 16 := 0
  lost     : Bool := false               -- excluded at boot (R377)
  deriving DecidableEq, Repr

/-- A way of a slice's set (R193, R195). -/
structure Way where
  asid   : Nat
  line   : Nat
  cls    : Nat
  locked : Bool
  used   : Nat                           -- recency
  deriving DecidableEq, Repr

structure SliceSt where
  sets   : Tab (Tab Way) := []           -- by set, then by way
  dmask  : Word := 0xFFFFFFFFFFFFFFFF    -- SLDMASK
  qsel   : BitVec 10 := 0
  quota  : Tab Nat := []                 -- by ASID
  bypass : BitVec 32 := 0
  deriving DecidableEq, Repr

/-! ### Translation, faults, gateway and host registers -/

/-- A leaf entry as a walk found it (R153). -/
structure Pte where
  pa  : Nat
  cmp : Bool
  swm : Bool
  cls : Nat
  x   : Bool
  w   : Bool
  big : Bool
  deriving DecidableEq, Repr

/-- A translation held by a slice (R155). -/
structure TlbEntry where
  slice : Nat
  asid  : Nat
  page  : Nat                            -- VA[55:16], or VA[55:22] of a 4 MiB block
  pte   : Pte
  deriving DecidableEq, Repr

/-- Which bytes of a line of physical memory were written under the key that its last writer's ASID had, and which bytes no
key reads back (R27; log 53). -/
structure LineKey where
  key  : Nat
  own  : BitVec 128
  lost : BitVec 128
  deriving DecidableEq, Repr

/-- A tag of the presence filter (R348). -/
structure Presence where
  pline : Nat
  asid  : Nat
  line  : Nat
  w     : Bool
  deriving DecidableEq, Repr

structure RootEntry where
  table : Nat
  vf    : Nat := 0
  deriving DecidableEq, Repr

/-- A task attached to a fault record, with its core and the instruction that faulted (R339, R340). -/
structure Faulter where
  record : Nat
  task   : Nat
  core   : Nat
  pc     : Word
  trap   : Trap := { cause := .page }   -- its PAGE
  deriving DecidableEq, Repr

/-- A fault ring (R337 to R340). -/
structure RingSt where
  cfg    : Word := 0                     -- FQRING
  next   : Nat := 0
  noring : BitVec 32 := 0
  tasks  : List Faulter := []
  deriving DecidableEq, Repr

/-- What a stage-two miss keeps waiting (R343, R344, R354). -/
inductive Missed where
  | task (t : Nat)
  | cmd (id : Nat)
  | husk (core stage : Nat)
  | save (core slot : Nat)
  deriving DecidableEq, Repr

/-- A stage-two miss that found its queue full or off: it is posted again every 4,096 router cycles (R343). -/
structure Retry where
  id    : Nat
  asid  : Nat
  gpa   : Nat
  who   : Missed
  kinds : Nat
  time  : Nat
  deriving DecidableEq, Repr

/-- A page-request queue (R343). -/
structure PrqSt where
  cfg   : Word := 0
  resp  : Word := 0
  next  : Nat := 0
  open_ : List (Nat × Nat) := []         -- tag and GPA page of the unanswered entries
  tasks : List (Nat × Nat) := []         -- tag and suspended task
  cmds  : List (Nat × Nat) := []         -- tag and waiting command
  retry : List Retry := []               -- misses that found the queue full or off
  deriving DecidableEq, Repr

/-- A range invalidation in progress (R155). -/
structure TbInv where
  core  : Nat
  tb0   : Word
  tb1   : Word
  wait  : List Nat                       -- operations that used an old translation
  deriving DecidableEq, Repr

/-- An NSEND awaiting its acknowledgement (R233). -/
structure NetOut where
  den    : Bool
  dcoord : Nat
  dctr   : Nat
  asid   : Nat
  deriving DecidableEq, Repr

/-- A line that PFX or IPF has asked for (R93, R174). -/
inductive Prefetch where
  | near (core asid line : Nat) (mask : Option Word) (dead : BitVec 32)   -- dead: words that an INVR has met since (R191)
  | ro (core asid line : Nat) (mask : Option Word)
  | slice (core asid line : Nat) (mask : Option Word)
  | code (core asid blk : Nat) (mask : Option Word)
  deriving DecidableEq, Repr

/-- An entry of the error ring as it was posted, for folding (R366). -/
structure ErrLast where
  idx   : Nat
  code  : Nat
  coord : Nat
  asid  : Nat
  time  : Nat
  deriving DecidableEq, Repr

/-- Registers of the host and of the gateway control window. -/
structure GwSt where
  slhash  : Word := 0
  root    : Tab RootEntry := []
  vfroot  : Tab Nat := []
  tb0     : Tab Word := []
  tb1     : Tab Word := []
  fqsel   : BitVec 10 := 0
  fqnote  : Word := 0
  rings   : Tab RingSt := []
  prq     : Tab PrqSt := []
  errcfg  : Word := 0
  errsig  : Word := 0
  errlost : BitVec 32 := 0
  errnext : Nat := 0
  errlast : List ErrLast := []           -- the entries posted since ERRCFG was written, newest first
  netenc  : Tab (BitVec 16) := []        -- absent: 0xFFFF
  refused : Tab (BitVec 32) := []
  endpoint : Tab (BitVec 32) := []
  apr     : Tab Word := []
  bootstat : Word := 0x1000000000000000   -- capgib 1,024, state full
  hostdata : List Byte := []             -- completion data of the last host read
  vfctrs  : Tab Nat := []                -- by counter of the window of R47, 8 · col + k: the function that sees it
  fwvec   : Word := 0                    -- FWVEC as the root firmware set it on every core at boot (R319)
  fwframe : Word := 0                    -- and FWFRAME of coordinate 0
  deriving DecidableEq, Repr

/-! ### The whole state -/

/-- Whose turn it is. The agenda is the environment's choice of what happens next. -/
inductive Turn where
  | event (i : Instr)
  | core (c : Nat)
  | tick (n : Nat)
  deriving DecidableEq, Repr

/-- One flit's worth of a timetable entry: its router cycle, kind and entry index (R230). -/
structure XUnit where
  at_  : Nat
  op   : Nat
  idx  : Nat
  port : Nat
  port2 : Nat
  addr : Nat
  deriving DecidableEq, Repr

/-- A flit with its sideband: the tag of its launch and phase, and the check over its bytes (R230). -/
structure Flit where
  data  : List Byte
  bad   : Bool
  tag   : Nat
  check : Byte
  deriving DecidableEq, Repr

/-- A flit on its way to an input port, where it appears in a router cycle. -/
structure Wire where
  site : Nat
  port : Nat
  at_  : Nat
  flit : Flit
  deriving DecidableEq, Repr

/-- A timetable engine that runs for a phase of a launch (R230, R371): its core and that core's site, Trel, the phase's tag,
where the timetable begins, the entry to be reached next, the offset of the one before, whether it has ended, and the units
of the entries reached that have still to move. -/
structure XEng where
  core   : Nat
  site   : Nat
  launch : Nat
  trel   : Nat
  tag    : Nat
  base   : Nat
  idx    : Nat := 0
  prev   : Nat := 0
  ended  : Bool := false
  units  : List XUnit := []
  deriving DecidableEq, Repr

/-- A launch fired by an entry whose binding waits for a matrix queue (R236, R262). -/
structure LateLaunch where
  r     : LaunchRec
  level : BitVec 2
  asid  : Nat                            -- of the source
  deriving DecidableEq, Repr

structure State where
  core     : Nat := 0                    -- the core and the slot whose instruction executes
  slot     : Nat := 0
  agenda   : List Turn := []
  focus    : Nat := 0                    -- the core that took the last turn by default
  turns    : Nat := 0                    -- default turns so far
  now      : Nat := 0                    -- TIME (R97)
  seq      : Nat := 0                    -- names handed out so far
  resets   : Nat := 0                    -- device resets so far, each of which draws new secret keys (R236)
  mem      : Mem := []                   -- physical memory
  mpoison  : List Nat := []              -- poisoned words of physical memory (R349)
  keys     : Tab LineKey := []           -- by line of physical memory (R27)
  epochs   : Tab Nat := []               -- by ASID: how often its key has been replaced (R27)
  cmps     : List Nat := []              -- 64 KiB pages of physical memory last translated with cmp = 1 (R351)
  rel      : List RelTag := []
  arrivals : List RelTag := []           -- the releases of a barrier's arrivals so far, by its physical address (R311)
  cores    : Tab CoreSt := []
  clusters : Tab ClusterSt := []         -- by physical cluster, die · 1,024 + 32 · row + col
  dies     : Tab DieSt := []
  slices   : Tab SliceSt := []
  tlb      : List TlbEntry := []
  presence : List Presence := []
  tasks    : Tab TaskSt := []
  launches : Tab LaunchSt := []
  late     : List LateLaunch := []
  groups   : Tab GroupSt := []           -- by index; an absent index has generation 0 and is free
  pool     : Nat := 1600000
  owed     : Nat := 0                    -- shares of the pool that recipients of freed groups have still to give up (R302)
  edges    : List Edge := []
  probes   : Tab Probe := []
  probeRecs : Tab ProbeRec := []
  wakes    : Tab WakeMsg := []
  cmds     : Tab Cmd := []
  cmsgs    : Tab CMsg := []
  kmsgs    : Tab KMsg := []
  tiles    : Tab RingTile := []
  credits  : Tab Nat := []               -- a ring credit on its way to a cluster
  nets     : Tab NetOut := []
  fetches  : Tab Prefetch := []
  tbinvs   : Tab TbInv := []
  engines  : List XEng := []             -- the timetable engines that run (R230)
  wires    : List Wire := []             -- and the flits on the links
  micro    : Tab Mem := []               -- microcode stores of the streamers (R199)
  robin    : Tab Nat := []               -- the command each streamer served last
  gw       : GwSt := {}
  deriving DecidableEq, Repr

/-- The machine right after device reset. (Log 4.) -/
def State.reset : State := {}

end Sys2Proof.Machine
end

