-- ==== Sys2Proof/Machine/Util.lean ====
section
/-!
DEFINITION. Keyed tables, byte memories and bit fields: the helpers that every other file of the machine uses.
-/
set_option Elab.async false
namespace Sys2Proof.Machine

/-! ### Keyed tables: keys strictly rising -/

/-- The value at a key. -/
def tget {α : Type} : Tab α → Nat → Option α
  | [], _ => none
  | (k, v) :: t, q => if k = q then some v else tget t q

/-- The table with a key set. -/
def tset {α : Type} : Tab α → Nat → α → Tab α
  | [], q, x => [(q, x)]
  | (k, v) :: t, q, x =>
    if q < k then (q, x) :: (k, v) :: t else if q = k then (q, x) :: t else (k, v) :: tset t q x

/-- The table without a key. -/
def tdel {α : Type} : Tab α → Nat → Tab α
  | [], _ => []
  | (k, v) :: t, q => if k = q then tdel t q else (k, v) :: tdel t q

/-- The table with an existing key's value changed. -/
def tmod {α : Type} (t : Tab α) (q : Nat) (f : α → α) : Tab α :=
  match tget t q with
  | some v => tset t q (f v)
  | none => t

/-- The least key that the table does not hold, from q up, looking at most n keys further. -/
def tfree {α : Type} (t : Tab α) (q : Nat) : Nat → Nat
  | 0 => q
  | n + 1 => if (tget t q).isNone then q else tfree t (q + 1) n

/-! ### Byte memories -/

/-- What an address that is not listed reads as: the spec gives memory no contents at power-on (DESIGN CHOICE, log 2). -/
def unlisted : Byte := 0

/-- One byte of a memory. -/
def rd : Mem → Nat → Byte
  | [], _ => unlisted
  | (a, b) :: m, q => if a = q then b else rd m q

/-- A memory with one byte written, in canonical form. -/
def wr : Mem → Nat → Byte → Mem
  | [], q, x => if x = unlisted then [] else [(q, x)]
  | (a, b) :: m, q, x =>
    if q < a then (if x = unlisted then (a, b) :: m else (q, x) :: (a, b) :: m)
    else if q = a then (if x = unlisted then m else (q, x) :: m)
    else (a, b) :: wr m q x

/-- Addresses strictly rising, above a bound. -/
def risingFrom : Nat → Mem → Bool
  | _, [] => true
  | lo, (a, b) :: m => decide (lo ≤ a) && b != unlisted && risingFrom (a + 1) m

/-- The canonical form: addresses strictly rising, and no byte equal to what an unlisted address reads as. -/
def Memory.wf (m : Mem) : Bool := risingFrom 0 m

/-- n bytes from an address up. -/
def rdBytes (m : Mem) (a : Nat) : Nat → List Byte
  | 0 => []
  | n + 1 => rd m a :: rdBytes m (a + 1) n

/-- Bytes written from an address up. -/
def wrBytes (m : Mem) (a : Nat) : List Byte → Mem
  | [] => m
  | b :: bs => wrBytes (wr m a b) (a + 1) bs

/-- The value of bytes, the lowest address least significant (R3). -/
def natOf : List Byte → Nat
  | [] => 0
  | b :: bs => b.toNat + 256 * natOf bs

/-- n bytes of a value, the least significant first (R3). -/
def bytesOf : Nat → Nat → List Byte
  | 0, _ => []
  | n + 1, v => BitVec.ofNat 8 v :: bytesOf n (v / 256)

def rdNat (m : Mem) (a n : Nat) : Nat := natOf (rdBytes m a n)

def wrNat (m : Mem) (a n v : Nat) : Mem := wrBytes m a (bytesOf n v)

/-! ### Bit fields of numbers and words -/

/-- Bits [hi:lo] of a number. -/
def bitsN (v hi lo : Nat) : Nat := v / 2 ^ lo % 2 ^ (hi + 1 - lo)

/-- One bit of a number. -/
def bitN (v i : Nat) : Bool := v / 2 ^ i % 2 = 1

/-- Bits [hi:lo] of a word. -/
def fld (w : Word) (hi lo : Nat) : Nat := bitsN w.toNat hi lo

/-- A number put at bit lo of a word. -/
def put (v lo : Nat) : Word := BitVec.ofNat 64 (v * 2 ^ lo)

def boolN (b : Bool) : Nat := if b then 1 else 0

/-- A number as two's complement of w bits. -/
def toSigned (w v : Nat) : Int := if v % 2 ^ w < 2 ^ (w - 1) then (v % 2 ^ w : Nat) else (v % 2 ^ w : Nat) - (2 ^ w : Nat)

/-- An integer reduced to w bits. -/
def ofInt (w : Nat) (i : Int) : Nat := (i % (2 ^ w : Nat)).toNat

/-- Addition that stops at a bound (the saturating counters). -/
def satAdd (bound v n : Nat) : Nat := Nat.min bound (v + n)

def satInc {w : Nat} (v : BitVec w) : BitVec w := BitVec.ofNat w (Nat.min (2 ^ w - 1) (v.toNat + 1))

/-- The numbers from a up, n of them. -/
def upFrom (a : Nat) : Nat → List Nat
  | 0 => []
  | n + 1 => a :: upFrom (a + 1) n

/-- The numbers below n. -/
def below (n : Nat) : List Nat := upFrom 0 n

/-- The first element of a list whose measure is least. -/
def leastBy {α : Type} (f : α → Nat) : List α → Option α
  | [] => none
  | x :: xs =>
    match leastBy f xs with
    | none => some x
    | some y => if f x ≤ f y then some x else some y

/-- Insertion by a measure, smallest first. -/
def insertBy {α : Type} (f : α → Nat) (x : α) : List α → List α
  | [] => [x]
  | y :: ys => if f x ≤ f y then x :: y :: ys else y :: insertBy f x ys

/-- A list sorted by a measure, smallest first. -/
def sortBy {α : Type} (f : α → Nat) : List α → List α
  | [] => []
  | x :: xs => insertBy f x (sortBy f xs)

/-- A list with element i changed. -/
def setAt {α : Type} : List α → Nat → α → List α
  | [], _, _ => []
  | _ :: xs, 0, v => v :: xs
  | x :: xs, n + 1, v => x :: setAt xs n v

/-- The number of one bits among the lowest n of v. -/
def popN (v : Nat) : Nat → Nat
  | 0 => 0
  | n + 1 => boolN (bitN v n) + popN v n

end Sys2Proof.Machine
end

