-- ==== Sys2Proof/Machine/Access.lean ====
section
/-!
DEFINITION. Access to the parts of the state: cores, slots, registers, coordinates, clusters.
-/
set_option Elab.async false
namespace Sys2Proof.Machine

/-- A fresh name. -/
def bump (s : State) : State := { s with seq := s.seq + 1 }

/-! ### Coordinates (R15 to R20) -/

def dieOf (c : Nat) : Nat := c / 4096
def rowOf (c : Nat) : Nat := c / 64 % 64
def colOf (c : Nat) : Nat := c % 64

/-- A coordinate packed as in R16. -/
def packCoord (die row col : Nat) : Nat := 4096 * die + 64 * row + col

/-- Streamers are harts too (R198). Their hart numbers lie above every coordinate. -/
def hartBase : Nat := 262144

def isHart (c : Nat) : Bool := hartBase ≤ c

/-- Whether a core belongs to no cluster and so has no near, read-only or instruction cache: control cores and streamers
(R17). -/
def uncached (c : Nat) : Bool := 56 ≤ dieOf c

def isControl (c : Nat) : Bool := 56 ≤ dieOf c && !isHart c

/-- The coordinates that the package has (R16). -/
def siteOk (c : Nat) : Bool :=
  let d := dieOf c
  let r := rowOf c
  let k := colOf c
  (d < 40 && (r < 62 || k < 16)) || (56 ≤ d && d < 64 && r = 0 && k < 16)

/-- The number of a die in the per-die tables: a gateway die g counts as 40 + g (R363). -/
def dieKey (c : Nat) : Nat :=
  if isHart c then (let e := c - hartBase; if e < 64 then 40 + e / 8 else e - 64)
  else if 56 ≤ dieOf c then dieOf c - 16 else dieOf c

def getDie (s : State) (d : Nat) : DieSt := (tget s.dies d).getD {}
def setDie (s : State) (d : Nat) (v : DieSt) : State := { s with dies := tset s.dies d v }

/-- A core right after reset: FEAT as R96 gives it; a control core always runs at OP3 (R290). (Log 4.) -/
def CoreSt.reset (c : Nat) : CoreSt :=
  if isHart c then { feat := 0x0001, op := 3, target := 3 }
  else if 56 ≤ dieOf c then { feat := 0x0069, op := 3, target := 3 } else {}

/-- A core that nothing has changed since boot: the root firmware has set its FWVEC, and a FWFRAME of its own (R319; log
29). -/
def CoreSt.booted (g : GwSt) (c : Nat) : CoreSt :=
  { CoreSt.reset c with fwvec := g.fwvec, fwframe := g.fwframe + (if g.fwvec = 0 then 0 else BitVec.ofNat 64 (2048 * c)) }

def getCore (s : State) (c : Nat) : CoreSt := (tget s.cores c).getD (CoreSt.booted s.gw c)
def setCore (s : State) (c : Nat) (v : CoreSt) : State := { s with cores := tset s.cores c v }
def modCore (s : State) (c : Nat) (f : CoreSt → CoreSt) : State := setCore s c (f (getCore s c))

/-- Whether a core's waiting-task table has fired in this router cycle, or the core has then started a trigger: what comes
before them in the cycle comes no more (R45, R226). -/
def tableFired (s : State) (c : Nat) : Bool := (getCore s c).firedAt = some s.now || (getCore s c).trigAt = some s.now

/-- Whether a coordinate names a core now (R16, R376, R377). -/
def coreOk (s : State) (c : Nat) : Bool := siteOk c && !(getDie s (dieKey c)).lost && !(getCore s c).unavail

/-- The physical cluster of a core (R19, R20). A control core or a streamer belongs to none: it bears a number of its own.
DESIGN CHOICE: a cluster remap entry whose valid bit is 0 resolves as its prow and pcol say, since the spec does not say
where its cluster lies (log 25). -/
def clusterOf (s : State) (c : Nat) : Nat :=
  if uncached c then 100000 + c
  else
    let d := getDie s (dieOf c)
    match d.coreMap.find? fun e => e.valid && e.lrow = rowOf c && e.lcol = colOf c with
    | some e => 1024 * dieOf c + 32 * (e.prow / 2) + e.pcol / 2
    | none =>
      let i := 32 * (rowOf c / 2) + colOf c / 2
      match tget d.clusterMap i with
      | some m => 1024 * dieOf c + (m.toNat % 1024)
      | none => 1024 * dieOf c + i

/-- The four cores of a logical cluster (R17). -/
def coresOfCluster (die i : Nat) : List Nat :=
  let r := 2 * (i / 32)
  let k := 2 * (i % 32)
  [packCoord die r k, packCoord die r (k + 1), packCoord die (r + 1) k, packCoord die (r + 1) (k + 1)]

/-- The logical cores that sit in a physical cluster (R20). -/
def coresAt (s : State) (cl : Nat) : List Nat :=
  if 100000 ≤ cl then [cl - 100000]
  else
    let die := cl / 1024
    let d := getDie s die
    let named := (d.clusterMap.filter fun e => e.2.toNat % 1024 = cl % 1024).map fun e => e.1
    let own := if (tget d.clusterMap (cl % 1024)).isNone then [cl % 1024] else []
    let cand := ((named ++ own).map (coresOfCluster die)).flatten ++
      (d.coreMap.filter fun e => e.valid).map fun e => packCoord die e.lrow e.lcol
    (cand.filter fun c => siteOk c && clusterOf s c = cl).eraseDups

def getCluster (s : State) (cl : Nat) : ClusterSt := (tget s.clusters cl).getD {}
def setCluster (s : State) (cl : Nat) (v : ClusterSt) : State := { s with clusters := tset s.clusters cl v }
def modCluster (s : State) (cl : Nat) (f : ClusterSt → ClusterSt) : State := setCluster s cl (f (getCluster s cl))
def getSlice (s : State) (k : Nat) : SliceSt := (tget s.slices k).getD {}
def setSlice (s : State) (k : Nat) (v : SliceSt) : State := { s with slices := tset s.slices k v }

/-- The cores of a box of coordinates in the order of their core indexes (R30). -/
def boxCores (die row col nd nr nc : Nat) : List Nat :=
  (below (nd * nr * nc)).map fun i => packCoord (die + i / (nr * nc)) (row + i / nc % nr) (col + i % nc)

def LaunchRec.cores (r : LaunchRec) : List Nat := boxCores r.orgdie r.orgrow r.orgcol r.ndie r.nrow r.ncol

/-! ### Slots -/

def slotAt (s : State) (c i : Nat) : Option SlotSt := tget (getCore s c).slots i
def setSlot (s : State) (c i : Nat) (v : SlotSt) : State :=
  modCore s c fun k => { k with slots := tset k.slots i v }
def delSlot (s : State) (c i : Nat) : State := modCore s c fun k => { k with slots := tdel k.slots i }
def modSlot (s : State) (c i : Nat) (f : SlotSt → SlotSt) : State :=
  match slotAt s c i with
  | some v => setSlot s c i (f v)
  | none => s

/-- The slots of a hart: four of a core (R29), eight of a streamer, one for each command that it can run (R198; log 7). -/
def slotsOf (c : Nat) : Nat := if isHart c then 8 else 4

def curSlot (s : State) : Option SlotSt := slotAt s s.core s.slot

/-- The slot whose instruction executes, changed. -/
def modCur (s : State) (f : SlotSt → SlotSt) : State := modSlot s s.core s.slot f

/-- The lowest-numbered empty slot (R42). -/
def freeSlot (k : CoreSt) : Option Nat := (below 4).find? fun i => (tget k.slots i).isNone

def getTask (s : State) (t : Nat) : Option TaskSt := tget s.tasks t
def setTask (s : State) (t : Nat) (v : TaskSt) : State := { s with tasks := tset s.tasks t v }
def modTask (s : State) (t : Nat) (f : TaskSt → TaskSt) : State := { s with tasks := tmod s.tasks t f }

/-- The core and slot where a task is resident. -/
def residence (s : State) (t : Nat) : Option (Nat × Nat) :=
  match getTask s t with
  | some k => (match k.place with
    | .resident c i => some (c, i)
    | _ => none)
  | none => none

/-! ### Registers (R62, R63, R369) -/

/-- The storage of x n: the shadow bank serves x24 to x31 while a user-level handler runs (R63). -/
def xphys (bank : Bool) (n : Nat) : Nat := if bank && 24 ≤ n then n + 8 else n

def SlotSt.px (sl : SlotSt) (n : Nat) : Nat := xphys sl.bank n

/-- The contents of storage cell n of the x file; x0 reads zero. -/
def SlotSt.rdP (sl : SlotSt) (n : Nat) : Word := if n = 0 then 0 else (sl.xs[n]?).getD 0

/-- x n as an instruction reads it. -/
def SlotSt.x (sl : SlotSt) (n : Nat) : Word := sl.rdP (sl.px n)
def SlotSt.v (sl : SlotSt) (n : Nat) : Vec := (sl.vs[n]?).getD 0
/-- p0 reads all ones (R62). -/
def SlotSt.p (sl : SlotSt) (n : Nat) : Pred := if n = 0 then 0xFF else (sl.ps[n]?).getD 0

/-- A write to a register clears its poison and makes a reuse latch of it stale (R67, R369). DESIGN CHOICE: where a masked
write leaves lanes of a poisoned v register alone, they keep the bits stored before the poison (log 32). -/
def SlotSt.wrote (sl : SlotSt) (r : Reg) : SlotSt :=
  let age (l : Option Latch) : Option Latch := l.map fun k => if k.reg = r then { k with fresh := false } else k
  { sl with
    poison := sl.poison.filter fun e => e.1 != r
    latA := age sl.latA
    latB := age sl.latB
    latC := age sl.latC }

/-- Storage cell n of the x file written; x0 discards (R62). -/
def SlotSt.setP (sl : SlotSt) (n : Nat) (v : Word) : SlotSt :=
  if n = 0 then sl else { sl.wrote (.x n) with xs := sl.xs.setIfInBounds n v }

def SlotSt.setX (sl : SlotSt) (n : Nat) (v : Word) : SlotSt := sl.setP (sl.px n) v
def SlotSt.setV (sl : SlotSt) (n : Nat) (v : Vec) : SlotSt :=
  { sl.wrote (.v n) with vs := sl.vs.setIfInBounds n v }
/-- Writes to p0 are discarded (R62). -/
def SlotSt.setPr (sl : SlotSt) (n : Nat) (v : Pred) : SlotSt :=
  if n = 0 then sl else { sl.wrote (.p n) with ps := sl.ps.setIfInBounds n v }

/-- A register poisoned by the access at an address (R369). -/
def SlotSt.setPoison (sl : SlotSt) (r : Reg) (addr : Nat) : SlotSt :=
  match r with
  | .x 0 => sl
  | .p 0 => sl
  | _ => let t := sl.wrote r; { t with poison := (r, addr) :: t.poison }

/-- The poison address of the first poisoned register of a list. -/
def SlotSt.poisoned (sl : SlotSt) : List Reg → Option Nat
  | [] => none
  | r :: rs =>
    match sl.poison.find? fun e => e.1 = r with
    | some e => some e.2
    | none => sl.poisoned rs

/-- The latches and the dependence history emptied, as every entry and return does (R67, R69). -/
def SlotSt.fresh (sl : SlotSt) : SlotSt := { sl with hist := [], latA := none, latB := none, latC := none }

/-! ### Results (R53, R124, R171, R369) -/

/-- Lane j of width w. -/
def lane (v : Vec) (w j : Nat) : Nat := v.toNat / 2 ^ (w * j) % 2 ^ w

/-- A vector with one lane replaced. -/
def putLane (v : Vec) (w j x : Nat) : Vec :=
  (v &&& ~~~ (BitVec.ofNat 256 ((2 ^ w - 1) * 2 ^ (w * j)))) ||| BitVec.ofNat 256 (x % 2 ^ w * 2 ^ (w * j))

/-- A value on its way to a register, stored form; mask: the words of a vector that it brings; bad: the address that
poisons it. -/
structure Put where
  reg  : Reg
  val  : Vec
  mask : Pred := 0xFF
  bad  : Option Nat := none
  deriving DecidableEq, Repr

/-- The words of v that the mask names, over old. -/
def mergeWords (m : Pred) (old v : Vec) : Vec :=
  (below 8).foldl (fun x i => if m.getLsbD i then putLane x 32 i (lane v 32 i) else x) old

def SlotSt.putReg (sl : SlotSt) (p : Put) : SlotSt :=
  match p.bad with
  | some a => sl.setPoison p.reg a
  | none => match p.reg with
    | .x n => sl.setP n (p.val.setWidth 64)
    | .v n => sl.setV n (mergeWords p.mask (sl.v n) p.val)
    | .p n => sl.setPr n (p.val.setWidth 8)
    | .tbl _ => sl

def putX (dst : Nat) (v : Word) (bad : Option Nat) : Put := { reg := .x dst, val := v.setWidth 256, bad }
def putP (dst : Nat) (v : Pred) : Put := { reg := .p dst, val := v.setWidth 256 }

/-- Whether an operation of a slot has passed the point at which it could trap: something younger, which nothing takes back,
has taken effect since (R159, R171; log 32). -/
def SlotSt.isPast (sl : SlotSt) (id : Nat) : Bool := !sl.undo.any fun u => u.id = id

/-- Results that reach the slot's state before a younger operation as well (R171). -/
def Undo.puts (u : Undo) (sl : SlotSt) (ps : List Put) : Undo :=
  let q := ps.foldl SlotSt.putReg { sl with xs := u.xs, vs := u.vs, ps := u.ps, poison := u.poison }
  { u with xs := q.xs, vs := q.vs, ps := q.ps, poison := q.poison }

/-- An operation, command or entry of a slot has completed with results. -/
def SlotSt.deliver (sl : SlotSt) (id : Nat) (ps : List Put) : SlotSt :=
  let undo := (sl.undo.filter fun u => u.id ≠ id).map fun u => if id < u.id then u.puts sl ps else u
  let sl := ps.foldl SlotSt.putReg sl
  { sl with
    inflight := sl.inflight.filter fun e => e.id ≠ id
    ops := sl.ops.filter fun o => o.id ≠ id
    undo
    hold := if sl.hold = .op id then .none else sl.hold }

/-- The guard mask (R124): negated lane by lane. -/
def SlotSt.mask (sl : SlotSt) (h : Hdr) : Pred := if h.neg then ~~~ sl.p h.guard.val else sl.p h.guard.val

/-! ### Names and words of registers -/

/-- The local window (R151). -/
def winBase : Nat := 0x00FFFFFFFFFF0000

def inWin (a : Nat) : Bool := winBase ≤ a && a < winBase + 65536

/-- HINTCTL (R72). -/
def SlotSt.hintctl (sl : SlotSt) : Word :=
  put sl.misses.toNat 32 ||| put sl.slips.toNat 16 ||| put sl.lastkind.toNat 4 ||| put (boolN sl.strict) 0

/-- TSTAT (R95). -/
def SlotSt.tstat (sl : SlotSt) : Word :=
  put (boolN sl.inh) 4 ||| put sl.level.toNat 2 ||| put (boolN sl.upcall) 1 ||| put (boolN sl.scopemiss) 0

/-- XFERID (R200). -/
def SlotSt.xferid (sl : SlotSt) : Word := put sl.xlast.toNat 32 ||| put sl.xid.toNat 0

/-- IDENT of the task in a slot (R31). -/
def identWord (c i : Nat) (t : TaskSt) : Word :=
  put t.launch 48 ||| put i 46 ||| put t.layer 44 ||| put t.group.toNat 20 ||| put (c % 262144) 0

/-- FEAT (R96). -/
def featWord (k : CoreSt) : Word := put Config.stepping.toNat 24 ||| put k.feat.toNat 0

end Sys2Proof.Machine
end

