-- ==== Sys2Proof/Machine/Memory.lean ====
section
/-!
DEFINITION. Memory: slices, translation, near and read-only caches, local memory, poison (R151 to R196, R342, R348,
R349).
-/
set_option Elab.async false
namespace Sys2Proof.Machine

/-! ### Which slice holds a line (R156, R157) -/

/-- Whether SLHASH leaves a slice out. -/
def sliceOut (h : Word) (i : Nat) : Bool :=
  let g := i / 32
  let k := i % 32
  let hg := fld h (5 * g + 12) (5 * g + 8)
  let var := fld h 1 0
  let hm := fld h 3 2
  let lv := fld h 51 51
  (var = 1 && k = hg) || (var = 2 && (k = hg || k = hg ^^^ 1)) || (var = 3 && lv = 1 && g = fld h 50 48)
    || (var = 3 && lv = 1 && hm = 1 && k = hg) || (var = 3 && lv = 1 && hm = 2 && (k = hg || k = hg ^^^ 1))
    || (var = 3 && lv = 1 && hm = 3 && k / 4 = hg / 4) || (var = 3 && lv = 0 && k / 4 = hg / 4)

def liveSlices (h : Word) : List Nat := (below 256).filter fun i => !sliceOut h i

/-- The slice of a line number (R157). -/
def sliceOf (h : Word) (line : Nat) : Nat :=
  let y := line
  let x := bitsN y 15 0 ^^^ bitsN y 31 16 ^^^ bitsN y 47 32 ^^^ bitsN y 48 48
  if fld h 1 0 = 0 then x % 256 else (let l := liveSlices h; l.getD (x % l.length) 0)

/-- The set of a line number (R157). -/
def setOf (line : Nat) : Nat := bitsN line 17 8 ^^^ bitsN line 27 18

/-! ### Table walks (R153, R154, R342) -/

/-- How a walk fails: the level whose entry had v = 0, or a guest physical address that stage two does not map, with the
level of stage two. -/
inductive XErr where
  | level (n : Nat)
  | stage2 (gpa n : Nat)
  deriving DecidableEq, Repr

/-- A four-level walk from a table, reading entries through rd. -/
def walkFrom (rd8 : Nat → Except XErr Nat) (va : Nat) : List (Nat × Nat) → Nat → Except XErr Nat
  | [], t => .ok t
  | (lv, sh) :: ls, t =>
    match rd8 (t + 8 * (va / 2 ^ sh % 1024)) with
    | .error e => .error e
    | .ok e =>
      if e % 2 = 0 then .error (.level lv)
      else if ls.isEmpty then .ok e else walkFrom rd8 va ls (bitsN e 47 13 * 8192)

def levels : List (Nat × Nat) := [(1, 46), (2, 36), (3, 26), (4, 16)]

/-- A leaf entry's fields (R153). -/
def Pte.ofNat (e : Nat) : Pte where
  pa := bitsN e 47 13 * 8192
  cmp := bitN e 8
  swm := bitN e 7
  cls := bitsN e 6 5
  x := bitN e 4
  w := bitN e 3
  big := bitN e 2

/-- The physical address of an address under a leaf entry (R153, R154). -/
def Pte.addr (p : Pte) (va : Nat) : Nat := if p.big then p.pa + va % 0x400000 else p.pa + va % 0x10000

/-- Stage two of a virtual function: its tables are in device physical memory (R342). -/
def stageTwo (s : State) (vf gpa : Nat) : Except XErr Pte :=
  match tget s.gw.vfroot vf with
  | none => .error (.stage2 gpa 1)
  | some t =>
    match walkFrom (fun a => .ok (rdNat s.mem a 8)) gpa levels t with
    | .error (.level n) => .error (.stage2 gpa n)
    | .error (.stage2 _ n) => .error (.stage2 gpa n)
    | .ok e => .ok (Pte.ofNat e)

/-- The leaf entry of an address. For a guest it is the combined result of the two stages, a 4 MiB translation where both
stages have one (R153, R154, R342; log 9). -/
def walk (s : State) (asid va : Nat) : Except XErr Pte :=
  match tget s.gw.root asid with
  | none => .error (.level 1)
  | some r =>
    if r.vf = 0 then
      match walkFrom (fun a => .ok (rdNat s.mem a 8)) va levels r.table with
      | .error e => .error e
      | .ok e => .ok (Pte.ofNat e)
    else
      let rd8 (a : Nat) : Except XErr Nat :=
        match stageTwo s r.vf a with
        | .error e => .error e
        | .ok q => .ok (rdNat s.mem (q.addr a) 8)
      match walkFrom rd8 va levels r.table with
      | .error e => .error e
      | .ok e =>
        let p := Pte.ofNat e
        match stageTwo s r.vf (p.addr va) with
        | .error e => .error e
        | .ok q =>
          let pa := q.addr (p.addr va)
          let big := p.big && q.big
          .ok { p with pa := if big then pa - va % 0x400000 else pa - va % 0x10000, big }

/-! ### Slices: tags, ways, translations, presence -/

/-- The fill mask of a class in a WAYMASK or SLDMASK (R192). -/
def maskOf (m : Word) (cls : Nat) : Nat := m.toNat / 2 ^ (16 * cls) % 65536

/-- The way that a fill of a class takes: the lowest invalid way the mask permits, else the least recently used of the
unlocked ones (R193). -/
def pickWay (set : Tab Way) (mask : Nat) : Option Nat :=
  let ok := (below 16).filter fun i => bitN mask i && !(match tget set i with | some w => w.locked | none => false)
  match ok.find? fun i => (tget set i).isNone with
  | some i => some i
  | none => leastBy (fun i => match tget set i with | some w => w.used | none => 0) ok

def findWay (set : Tab Way) (asid line : Nat) : Option Nat :=
  (below 16).find? fun i => match tget set i with | some w => w.asid = asid && w.line = line | none => false

/-- The mask carried by agents without a WAYMASK (R193): that of the slice. -/
def slMask (s : State) (line : Nat) : Word := (getSlice s (sliceOf s.gw.slhash line)).dmask

/-- The mask that a core's requests carry (R192); a streamer has none. -/
def coreMask (s : State) (c : Nat) : Option Word := if isHart c then none else some (getCore s c).waymask

/-- A slice touched by an access to a line under the mask that the request carries, none for the slice's own: a hit renews
the way, a miss fills it or counts a bypass (R193). -/
def touchSlice (s : State) (asid line cls : Nat) (mask : Option Word) : State :=
  let k := sliceOf s.gw.slhash line
  let sl := getSlice s k
  let set := (tget sl.sets (setOf line)).getD []
  let s' := bump s
  match findWay set asid line with
  | some i => setSlice s' k { sl with sets := tset sl.sets (setOf line) (tmod set i fun w => { w with used := s.seq }) }
  | none =>
    match pickWay set (maskOf (mask.getD sl.dmask) cls) with
    | some i =>
      setSlice s' k { sl with sets := tset sl.sets (setOf line) (tset set i ⟨asid, line, cls, false, s.seq⟩) }
    | none => setSlice s' k { sl with bypass := satInc sl.bypass }

/-- Whether a line is present at its slice. -/
def atSlice (s : State) (asid line : Nat) : Bool :=
  (findWay ((tget (getSlice s (sliceOf s.gw.slhash line)).sets (setOf line)).getD []) asid line).isSome

/-- The translations a slice holds at most (R155); which one gives way is not stated: the oldest here (log 9). -/
def tlbFind (s : State) (k asid va : Nat) : Option Pte :=
  (s.tlb.find? fun e => e.slice = k && e.asid = asid &&
    (if e.pte.big then e.page = va / 0x400000 else e.page = va / 0x10000)).map fun e => e.pte

def tlbAdd (s : State) (k asid va : Nat) (p : Pte) : State :=
  let e : TlbEntry := ⟨k, asid, if p.big then va / 0x400000 else va / 0x10000, p⟩
  let mine := s.tlb.filter fun e => e.slice = k
  let rest := if mine.length < 1024 then s.tlb else
    (match mine.getLast? with
     | some o => s.tlb.filter fun e => e != o
     | none => s.tlb)
  { s with tlb := e :: rest }

/-- The physical page of an address noted as compressed or as plain (R351). -/
def noteCmp (s : State) (p : Pte) (va : Nat) : State :=
  let page := p.addr va / 65536
  if p.cmp = s.cmps.contains page then s
  else { s with cmps := if p.cmp then page :: s.cmps else s.cmps.filter fun x => x ≠ page }

/-- The entry that translates an address: the one its slice holds, else that of a walk, which the slice then holds. -/
def translate (s : State) (asid va : Nat) : Except XErr (State × Pte) :=
  let k := sliceOf s.gw.slhash (va / 128)
  match tlbFind s k asid va with
  | some p => .ok (noteCmp s p va, p)
  | none =>
    match walk s asid va with
    | .error e => .error e
    | .ok p => .ok (noteCmp (tlbAdd s k asid va p) p va, p)

/-- Whether a fill under a tag would give a line a second distinct tag where one of the two is writable (R348). -/
def clashes (s : State) (pline asid line : Nat) (w : Bool) : Bool :=
  s.presence.any fun e => e.pline = pline && !(e.asid = asid && e.line = line) && (e.w || w)

/-- A tag recorded in the presence filter (R348). -/
def tagPresent (s : State) (pline asid line : Nat) (w : Bool) : State :=
  if s.presence.any fun e => e.pline = pline && e.asid = asid && e.line = line && (e.w || !w) then s
  else
    let old := s.presence.filter fun e => !(e.pline = pline && e.asid = asid && e.line = line)
    { s with presence := ⟨pline, asid, line, w⟩ :: old }

/-- The kind of an access, as a fault records it (R334). -/
inductive Acc4 where
  | read | fetch | write | rmw
  deriving DecidableEq, Repr

def Acc4.code : Acc4 → Nat
  | .read => 0
  | .fetch => 1
  | .write => 2
  | .rmw => 3

def Acc4.writes : Acc4 → Bool
  | .write => true
  | .rmw => true
  | .read => false
  | .fetch => false

/-- Pieces of a byte range that each lie on one line, as address and length; fuel bounds the number of lines. -/
def lineParts : Nat → Nat → Nat → List (Nat × Nat)
  | 0, _, _ => []
  | f + 1, a, n => if n = 0 then [] else
    let k := Nat.min n (128 - a % 128)
    (a, k) :: lineParts f (a + k) (n - k)

def partsOf (a n : Nat) : List (Nat × Nat) := lineParts (n / 128 + 2) a n

/-- The words that bytes [a, a + n) touch. -/
def wordsOf (a n : Nat) : List Nat := upFrom (a / 4) ((a + n + 3) / 4 - a / 4)

/-- Whether a byte range of physical memory holds poison. -/
def memBad (s : State) (pa n : Nat) : Bool := (wordsOf pa n).any fun w => s.mpoison.contains w

/-- How far into a byte range of physical memory its lowest poisoned byte lies. -/
def memBadAt (s : State) (pa n : Nat) : Option Nat :=
  ((wordsOf pa n).find? fun w => s.mpoison.contains w).map fun w => 4 * w - pa

/-- Words of physical memory poisoned (R349). -/
def memPoison (s : State) (pa n : Nat) : State := { s with mpoison := (wordsOf pa n ++ s.mpoison).eraseDups }

/-- The failure of an access: a trap, or a stage-two miss that suspends what caused it. -/
inductive Fail where
  | trap (t : Trap)
  | page (va : Nat) (t : Trap)             -- a PAGE that is to be posted (R335)
  | stage2 (va gpa : Nat) (t : Trap)       -- R344
  deriving DecidableEq, Repr

/-- Bits that join the detail of a PAGE; a fetch has detail 1 and no other bit (R325, R334). -/
def Trap.orDetail (t : Trap) (bits : Nat) : Trap :=
  if t.detail % 4 = 1 then t else { t with detail := t.detail ||| bits }

def failX (va : Nat) (k : Acc4) (addr : Nat) : XErr → Fail
  | .level n => .page va { cause := .page, detail := 16 * n + k.code, addr := BitVec.ofNat 64 addr }
  | .stage2 g n => .stage2 va g { cause := .page, detail := 128 + 16 * n + k.code, addr := BitVec.ofNat 64 addr }

/-- One part of an access, on one line: translated, its permission checked, its tag recorded (R153, R171, R348). refuses:
whether ALIAS is among the causes of the access. -/
def reachPart (s : State) (asid va n : Nat) (k : Acc4) (refuses : Bool) : Except Fail (State × Seg) :=
  match translate s asid va with
  | .error e => .error (failX va k va e)
  | .ok (s, p) =>
    if k.writes && !p.w || (k = .fetch && !p.x) then
      .error (.trap { cause := .permission, detail := k.code, addr := BitVec.ofNat 64 va })
    else
      let pa := p.addr va
      if refuses && clashes s (pa / 128) asid (va / 128) p.w then
        .error (.trap { cause := .aliased, detail := k.code, addr := BitVec.ofNat 64 va })
      else .ok (tagPresent s (pa / 128) asid (va / 128) p.w, ⟨va, pa, n, p.swm, p.cls, p.w⟩)

/-- Every part of an access, lowest first: all are translated before any effect (R185). -/
def reachParts (s : State) (asid : Nat) (k : Acc4) (refuses : Bool) : List (Nat × Nat) → Except Fail (State × List Seg)
  | [] => .ok (s, [])
  | (va, n) :: ps =>
    match reachPart s asid va n k refuses with
    | .error e => .error e
    | .ok (s, g) =>
      match reachParts s asid k refuses ps with
      | .error e => .error e
      | .ok (s, gs) => .ok (s, g :: gs)

def reach (s : State) (asid va n : Nat) (k : Acc4) (refuses : Bool) : Except Fail (State × List Seg) :=
  reachParts s asid k refuses (partsOf va n)

/-- The slices touched by an access to segments. -/
def touchSegs (s : State) (asid : Nat) (mask : Option Word) (gs : List Seg) : State :=
  gs.foldl (fun s g => touchSlice s asid (g.va / 128) g.cls mask) s

/-! ### The bytes at a slice (R26, R27) -/

/-- The bits [lo, hi) of a byte mask. -/
def maskRange (lo hi : Nat) : BitVec 128 := BitVec.ofNat 128 (2 ^ hi - 2 ^ lo)

/-- The key that an ASID's lines are encrypted under now. -/
def keyOf (s : State) (asid : Nat) : Nat := asid + 1024 * (tget s.epochs asid).getD 0

/-- The bytes of a physical line that an ASID's key does not read back. (Log 53.) -/
def sealedFrom (s : State) (asid line : Nat) : BitVec 128 :=
  match tget s.keys line with
  | none => 0
  | some k => if k.key = keyOf s asid then k.lost else k.lost ||| k.own

/-- The keys of a physical line after bytes [o, o + n) of it have been written by an ASID, or, for none, by the device at a
physical address. (Log 53.) -/
def sealWrite (s : State) (asid : Option Nat) (line o n : Nat) : Tab LineKey :=
  let w := maskRange o (o + n)
  match asid, tget s.keys line with
  | none, none => s.keys
  | none, some k => tset s.keys line { k with own := k.own &&& ~~~ w, lost := k.lost &&& ~~~ w }
  | some a, none => tset s.keys line ⟨keyOf s a, w, 0⟩
  | some a, some k =>
    if k.key = keyOf s a then tset s.keys line { k with own := k.own ||| w, lost := k.lost &&& ~~~ w }
    else tset s.keys line ⟨keyOf s a, w, (k.lost ||| k.own) &&& ~~~ w⟩

/-- Bytes of global memory as an ASID's accesses read them at the slices, or, for none, as the device reads them at a
physical address; an ASID's bytes lie on one line. DESIGN CHOICE: an address at or above the 1 TiB of the stacks, for which
the spec gives no outcome, reads and is written as ordinary memory (log 53). -/
def slRead (s : State) (asid : Option Nat) (pa n : Nat) : List Byte :=
  match asid with
  | none => rdBytes s.mem pa n
  | some a =>
    let m := sealedFrom s a (pa / 128)
    if m = 0 then rdBytes s.mem pa n
    else (upFrom pa n).map fun x =>
      if m.getLsbD (x % 128) then Config.deciphered (keyOf s a) x (rdNat s.mem (x / 16 * 16) 16) s.seq else rd s.mem x

/-- Bytes written at a slice, on one line. A word whose four bytes are all written loses its poison (R349). -/
def slWrite (s : State) (asid : Option Nat) (pa : Nat) (bs : List Byte) : State :=
  { s with
    mem := wrBytes s.mem pa bs
    mpoison := s.mpoison.filter fun w => !(pa ≤ 4 * w && 4 * w + 4 ≤ pa + bs.length)
    keys := sealWrite s asid (pa / 128) (pa % 128) bs.length
    rel := s.rel.filter fun t => !(t.loc.isNone && pa ≤ t.addr && t.addr < pa + bs.length) }

/-- The release tags of bytes of physical memory. -/
def memTags (s : State) (pa n : Nat) : List RelTag :=
  s.rel.filter fun t => t.loc.isNone && pa ≤ t.addr && t.addr < pa + n

/-! ### Near caches (R152, R167, R168, R179 to R183) -/

def nearFind (s : State) (cl asid line : Nat) : Option NearLine :=
  (getCluster s cl).near.find? fun l => l.asid = asid && l.line = line

/-- Bytes of a 1,024-bit line. -/
def lineByte (d : BitVec 1024) (k : Nat) : Byte := (d.extractLsb' (8 * k) 8)

def lineBytes (d : BitVec 1024) (k n : Nat) : List Byte := (upFrom k n).map fun i => lineByte d i

def lineSet (d : BitVec 1024) (k : Nat) (b : Byte) : BitVec 1024 :=
  (d &&& ~~~ ((0xFF : BitVec 1024) <<< (8 * k))) ||| (b.setWidth 1024 <<< (8 * k))

/-- A line's contents as an ASID reads them at its slice. -/
def lineOf (s : State) (asid pa : Nat) : BitVec 1024 := BitVec.ofNat 1024 (natOf (slRead s (some asid) (pa / 128 * 128) 128))

/-- The dirty bytes of word w of a line written to its slice: a word that is dirty throughout as one, else byte by byte. What
the near cache holds poisoned is poisoned at the slice too (R182, R349). -/
def writeBackWord (s : State) (l : NearLine) (d : BitVec 128) (w : Nat) : State :=
  let ks := (upFrom (4 * w) 4).filter fun k => d.getLsbD k
  let s := if ks.length = 4 then slWrite s (some l.asid) (l.pa + 4 * w) (lineBytes l.data (4 * w) 4)
    else ks.foldl (fun s k => slWrite s (some l.asid) (l.pa + k) [lineByte l.data k]) s
  if !ks.isEmpty && l.poison.getLsbD w then memPoison s (l.pa + 4 * w) 4 else s

/-- A line's dirty bytes within [lo, hi) of the line written back with the release tags that they bear (R166, R182); the
slice fills the line if it lacks it. -/
def writeBack (s : State) (l : NearLine) (lo hi : Nat) (mask : Option Word) : State :=
  let d := l.dirty &&& maskRange lo hi
  if d = 0 then s
  else
    let s := touchSlice s l.asid l.line l.cls mask
    let s := (below 32).foldl (fun s w => writeBackWord s l d w) s
    { s with rel := (l.rel.filter fun t => d.getLsbD (t.addr - l.pa)) ++ s.rel }

/-- The bits of the words that lie in bytes [lo, hi). -/
def wordRange (lo hi : Nat) : BitVec 32 := BitVec.ofNat 32 (2 ^ ((hi + 3) / 4) - 2 ^ (lo / 4))

def putNear (s : State) (cl : Nat) (l : NearLine) : State :=
  modCluster s cl fun c => { c with near := l :: c.near.filter fun k => !(k.asid = l.asid && k.line = l.line) }

def dropNear (s : State) (cl asid line : Nat) : State :=
  modCluster s cl fun c => { c with near := c.near.filter fun k => !(k.asid = asid && k.line = line) }

/-- Room for one more line in a set of eight: the least recently used leaves, its dirty bytes written back (R179, R183). -/
def evictFor (s : State) (cl line : Nat) (mask : Option Word) : State :=
  let set := (getCluster s cl).near.filter fun l => l.line % 32 = line % 32
  if set.length < 8 then s
  else match set.getLast? with
    | some l => dropNear (writeBack s l 0 128 mask) cl l.asid l.line
    | none => s

/-- The poison bits of the words of a line filled from the slice. -/
def fillPoison (s : State) (pa : Nat) : BitVec 32 :=
  let w0 := pa / 128 * 32
  BitVec.ofNat 32 ((below 32).foldl (fun n w => if s.mpoison.contains (w0 + w) then n + 2 ^ w else n) 0)

/-- A merging fill: invalid words take the slice's bytes except where the near cache's are dirty (R181). A word whose
bytes are all dirty loses its poison (R349). -/
def mergeLine (s : State) (l : NearLine) : NearLine :=
  let fresh := lineOf s l.asid l.pa
  let pz := fillPoison s l.pa
  let keep (k : Nat) : Bool := l.valid.getLsbD (k / 4) || l.dirty.getLsbD k
  let data := (below 128).foldl (fun d k => if keep k then d else lineSet d k (lineByte fresh k)) l.data
  let dirty (w : Nat) : Nat := ((upFrom (4 * w) 4).filter fun k => l.dirty.getLsbD k).length
  let poison := (below 32).foldl (fun (p : BitVec 32) w =>
    let bit := (1 : BitVec 32) <<< w
    if l.valid.getLsbD w then p
    else if dirty w = 4 then p &&& ~~~ bit
    else if dirty w = 0 then (p &&& ~~~ bit) ||| (pz &&& bit)
    else p ||| (pz &&& bit)) l.poison
  let rel := (l.rel.filter fun t => keep (t.addr - l.pa)) ++ ((memTags s l.pa 128).filter fun t => !keep (t.addr - l.pa))
  { l with data, poison, rel, valid := 0xFFFFFFFF }

/-- A line filled from its slice. -/
def nearFill (s : State) (asid : Nat) (g : Seg) : NearLine :=
  let pa := g.pa / 128 * 128
  { asid, line := g.va / 128, pa, swm := g.swm, cls := g.cls, valid := 0xFFFFFFFF, dirty := 0, data := lineOf s asid pa
    poison := fillPoison s pa, rel := memTags s pa 128 }

/-- A read through the near cache: the bytes, whether any is poisoned, and the state with the line filled (R152, R181). -/
def nearRead (s : State) (cl asid : Nat) (g : Seg) (mask : Option Word) : State × List Byte × Bool :=
  let line := g.va / 128
  let o := g.va % 128
  let need := wordRange o (o + g.len)
  let answer (s : State) (l : NearLine) : State × List Byte × Bool :=
    (putNear s cl l, lineBytes l.data o g.len, (l.poison &&& need) != 0)
  match nearFind s cl asid line with
  | some l =>
    if (l.valid &&& need) = need then answer s l
    else (let s := touchSlice s asid line g.cls mask; answer s (mergeLine s l))
  | none =>
    let s := touchSlice (evictFor s cl line mask) asid line g.cls mask
    answer s (nearFill s asid g)

/-- Bytes put into a line from offset o up. -/
def lineWrite (d : BitVec 1024) (o : Nat) : List Byte → BitVec 1024
  | [] => d
  | b :: bs => lineWrite (lineSet d o b) (o + 1) bs

/-- The words of bytes [o, o + n) that a write covers whole. -/
def fullWords (o n : Nat) : BitVec 32 :=
  BitVec.ofNat 32 (2 ^ ((o + n) / 4) - 2 ^ Nat.min ((o + 3) / 4) ((o + n) / 4))

/-- The tags of a line that lie outside its bytes [lo, hi). -/
def NearLine.tagsBut (l : NearLine) (lo hi : Nat) : List RelTag :=
  l.rel.filter fun t => !(l.pa + lo ≤ t.addr && t.addr < l.pa + hi)

/-- A store to a software-managed page: the near cache only (R180). -/
def nearStore (s : State) (cl asid : Nat) (g : Seg) (bs : List Byte) (mask : Option Word) : State :=
  let line := g.va / 128
  let o := g.va % 128
  let (s, l) : State × NearLine := match nearFind s cl asid line with
    | some l => (s, l)
    | none => (evictFor s cl line mask,
        { asid, line, pa := g.pa / 128 * 128, swm := true, cls := g.cls, valid := 0, dirty := 0, data := 0, poison := 0 })
  let full := fullWords o bs.length
  putNear s cl { l with
    data := lineWrite l.data o bs
    dirty := l.dirty ||| maskRange o (o + bs.length)
    valid := l.valid ||| full
    poison := l.poison &&& ~~~ full
    rel := l.tagsBut o (o + bs.length) }

/-- The bytes of a store to a coherent page, its slice touched: a line that is present is updated, and they go through to the
slice (R152, R167). DESIGN CHOICE: they reach the slice in the step that performs the store; the spec leaves open when they do
(log 39). -/
def throughPut (s : State) (cl asid : Nat) (g : Seg) (bs : List Byte) : State :=
  let o := g.va % 128
  let s := slWrite s (some asid) g.pa bs
  match nearFind s cl asid (g.va / 128) with
  | some l => putNear s cl { l with
      data := lineWrite l.data o bs, poison := l.poison &&& ~~~ fullWords o bs.length, rel := l.tagsBut o (o + bs.length) }
  | none => s

/-- Words [lo, hi) of a line invalid and clean, and their poison gone with them (R175, R187). -/
def NearLine.invalidate (l : NearLine) (lo hi : Nat) : NearLine :=
  { l with
    dirty := l.dirty &&& ~~~ maskRange lo hi
    valid := l.valid &&& ~~~ wordRange lo hi
    poison := l.poison &&& ~~~ wordRange lo hi
    rel := l.tagsBut lo hi }

/-- Before an AMO, CAS or wait-object step: the near cache gives up the accessed words (R175, R293). -/
def yieldWords (s : State) (cl asid : Nat) (g : Seg) (mask : Option Word) : State :=
  let o := g.va % 128
  match nearFind s cl asid (g.va / 128) with
  | none => s
  | some l =>
    let s := if l.swm then writeBack s l o (o + g.len) mask else s
    putNear s cl (l.invalidate o (o + g.len))

/-- The cluster's lines of coherent pages dropped, of one ASID or of all (R167, R206). -/
def flashCoherent (s : State) (cl : Nat) (asid : Option Nat) : State :=
  modCluster s cl fun c => { c with near := c.near.filter fun l => l.swm || (match asid with | some a => l.asid ≠ a | none => false) }

/-- Every dirty byte of an ASID in a cluster's near cache written back (R162). -/
def writeBackAll (s : State) (cl asid : Nat) (mask : Option Word) : State :=
  let ls := (getCluster s cl).near.filter fun l => l.asid = asid
  let s := ls.foldl (fun s l => writeBack s l 0 128 mask) s
  modCluster s cl fun c => { c with near := c.near.map fun l => if l.asid = asid then { l with dirty := 0 } else l }

/-- The invalidation of a resumption in another cluster (R162): coherent lines, and the clean valid words of
software-managed ones. -/
def resumeInvalidate (s : State) (cl asid : Nat) : State :=
  let clean (l : NearLine) : BitVec 32 :=
    BitVec.ofNat 32 ((below 32).foldl (fun n w =>
      if l.valid.getLsbD w && (upFrom (4 * w) 4).any (fun k => l.dirty.getLsbD k) then n + 2 ^ w else n) 0)
  modCluster s cl fun c => { c with near := (c.near.filter fun l => l.asid ≠ asid || l.swm).map fun l =>
    if l.asid = asid then { l with valid := clean l } else l }

/-! ### Read-only cache (R169): 128 lines, the least recently used leaving (log 10) -/

def roRead (s : State) (cl asid : Nat) (g : Seg) (mask : Option Word) : State × List Byte × Bool :=
  let line := g.va / 128
  let o := g.va % 128
  let hit := (getCluster s cl).ro.find? fun l => l.asid = asid && l.line = line
  let s := if hit.isSome then s else touchSlice s asid line g.cls mask
  let l : RoLine := hit.getD ⟨asid, line, lineOf s asid g.pa, fillPoison s g.pa⟩
  let s := modCluster s cl fun c =>
    { c with ro := l :: (c.ro.filter fun k => !(k.asid = asid && k.line = line)).take 127 }
  (s, lineBytes l.data o g.len, (l.poison &&& wordRange o (o + g.len)) != 0)

def roDrop (s : State) (cl asid lo hi : Nat) : State :=
  modCluster s cl fun c => { c with ro := c.ro.filter fun l => !(l.asid = asid && lo ≤ l.line && l.line ≤ hi) }

/-! ### Local memory (R151, R349) -/

def lmRead (s : State) (c off n : Nat) : List Byte × Bool :=
  let k := getCore s c
  (rdBytes k.lmem off n, (upFrom (off / 4) ((off + n + 3) / 4 - off / 4)).any fun w => k.lpoison.contains w)

def lmWrite (s : State) (c off : Nat) (bs : List Byte) : State :=
  let hi := off + bs.length
  let s := modCore s c fun k => { k with
    lmem := wrBytes k.lmem off bs
    lpoison := k.lpoison.filter fun w => !(off ≤ 4 * w && 4 * w + 4 ≤ hi) }
  { s with rel := s.rel.filter fun t => !(t.loc = some c && off ≤ t.addr && t.addr < hi) }

/-- Words of local memory poisoned (R349). -/
def lmPoison (s : State) (c off n : Nat) : State :=
  modCore s c fun k => { k with
    lpoison := ((upFrom (off / 4) ((off + n + 3) / 4 - off / 4)) ++ k.lpoison).eraseDups }

/-! ### Accesses of a core -/

/-- A read of plain loads by a core, under the mask that its request carries (R152, R192). A core that belongs to no cluster
has no near and no read-only cache and reads at the slice (R17). -/
def coreRead (s : State) (c : Nat) (ro : Bool) (l : Loc) (n : Nat) (mask : Option Word) : State × List Byte × Bool :=
  match l with
  | .loc k off => let (bs, bad) := lmRead s k off n; (s, bs, bad)
  | .glob asid g =>
    let g := { g with len := n }
    if uncached c then (touchSlice s asid (g.va / 128) g.cls mask, slRead s (some asid) g.pa n, memBad s g.pa n)
    else if ro then roRead s (clusterOf s c) asid g mask
    else nearRead s (clusterOf s c) asid g mask

/-- The slice touched by a read of a core that belongs to no cluster, which every such read reaches (R17, R193). -/
def readTouch (s : State) (c : Nat) (l : Loc) (mask : Option Word) : State :=
  match l with
  | .loc _ _ => s
  | .glob asid g => if uncached c then touchSlice s asid (g.va / 128) g.cls mask else s

/-- A part of a read whose slice readTouch has touched. -/
def corePart (s : State) (c : Nat) (ro : Bool) (l : Loc) (n : Nat) (mask : Option Word) : State × List Byte × Bool :=
  match l with
  | .loc _ _ => coreRead s c ro l n mask
  | .glob asid g =>
    if uncached c then (s, slRead s (some asid) g.pa n, memBad s g.pa n) else coreRead s c ro l n mask

/-- The slice touched by a store of a core, which a store to a software-managed page does not reach (R152, R180, R193). -/
def storeTouch (s : State) (c : Nat) (l : Loc) (mask : Option Word) : State :=
  match l with
  | .loc _ _ => s
  | .glob asid g => if uncached c || !g.swm then touchSlice s asid (g.va / 128) g.cls mask else s

/-- The bytes of a store by a core, or of a part of it, its slice touched (R152). -/
def storePart (s : State) (c : Nat) (l : Loc) (bs : List Byte) (mask : Option Word) : State :=
  match l with
  | .loc k off => lmWrite s k off bs
  | .glob asid g =>
    if uncached c then slWrite s (some asid) g.pa bs
    else if g.swm then nearStore s (clusterOf s c) asid g bs mask
    else throughPut s (clusterOf s c) asid g bs

/-- A store by a core (R152). -/
def coreWrite (s : State) (c : Nat) (l : Loc) (bs : List Byte) (mask : Option Word) : State :=
  storePart (storeTouch s c l mask) c l bs mask

/-- A read at the slice or at local memory, as AMO, CAS and the wait objects make it (R175, R293). -/
def pointRead (s : State) (c : Nat) (l : Loc) (n : Nat) (mask : Option Word) : State × List Byte × Bool :=
  match l with
  | .loc k off => let (bs, bad) := lmRead s k off n; (s, bs, bad)
  | .glob asid g =>
    let s := if uncached c then s else yieldWords s (clusterOf s c) asid { g with len := n } mask
    let s := touchSlice s asid (g.va / 128) g.cls mask
    (s, slRead s (some asid) g.pa n, memBad s g.pa n)

def pointWrite (s : State) (l : Loc) (bs : List Byte) : State :=
  match l with
  | .loc k off => lmWrite s k off bs
  | .glob asid g => slWrite s (some asid) g.pa bs

/-! ### Releases and acquires (R164, R166) -/

/-- A location as its release tags name it. -/
def Loc.tagKey : Loc → Option Nat × Nat
  | .loc c off => (some c, off)
  | .glob _ g => (none, g.pa)

/-- The tags of the bytes of a location after a release by a core; none when the write is no release. -/
def newTags (l : Loc) (n : Nat) (rel : Option (Nat × Scope)) : List RelTag :=
  match rel with
  | none => []
  | some (agent, sc) => (upFrom l.tagKey.2 n).map fun x => ⟨l.tagKey.1, x, agent, sc⟩

/-- The status, as a release or not, of the bytes that a location holds at its slice or in local memory. (Log 36.) -/
def tagHere (s : State) (l : Loc) (n : Nat) (rel : Option (Nat × Scope)) : State :=
  { s with rel := newTags l n rel ++
      s.rel.filter fun t => !(t.loc = l.tagKey.1 && l.tagKey.2 ≤ t.addr && t.addr < l.tagKey.2 + n) }

/-- The status of the bytes of a location that a near cache holds. -/
def tagNear (s : State) (cl : Nat) (l : Loc) (n : Nat) (rel : Option (Nat × Scope)) : State :=
  match l with
  | .loc _ _ => s
  | .glob asid g =>
    match nearFind s cl asid (g.va / 128) with
    | none => s
    | some k => putNear s cl { k with rel := newTags l n rel ++ k.tagsBut (g.va % 128) (g.va % 128 + n) }

/-- The status of a store by a core: a store to a software-managed page leaves the slice's bytes alone (R166, R180). -/
def tagStore (s : State) (c : Nat) (l : Loc) (n : Nat) (rel : Option (Nat × Scope)) : State :=
  match l with
  | .loc _ _ => tagHere s l n rel
  | .glob _ g =>
    if uncached c then tagHere s l n rel
    else
      let s := tagNear s (clusterOf s c) l n rel
      if g.swm then s else tagHere s l n rel

/-- The releases that wrote the bytes of a location, as a read through the near cache of a core finds them, or, with near
off, as a read at the slice or at local memory does (R166). -/
def tagsRead (s : State) (c : Nat) (near : Bool) (l : Loc) (n : Nat) : List RelTag :=
  let here := s.rel.filter fun t => t.loc = l.tagKey.1 && l.tagKey.2 ≤ t.addr && t.addr < l.tagKey.2 + n
  match l with
  | .loc _ _ => here
  | .glob asid g =>
    if !near || uncached c then here
    else match nearFind s (clusterOf s c) asid (g.va / 128) with
      | none => here
      | some k => k.rel.filter fun t => g.pa ≤ t.addr && t.addr < g.pa + n

/-- Whether a core lies in the scope of a synchronising access of another (R163). -/
def inScope (s : State) (sc : Scope) (k q : Nat) : Bool :=
  match sc with
  | .core => k = q
  | .cluster => clusterOf s k = clusterOf s q
  | .die => dieKey k = dieKey q
  | .device => true
  | .system => true

/-- Whether an acquire of a scope by a core meets, among the releases that it reads, one that does not include it (R166). -/
def scopeMiss (s : State) (tags : List RelTag) (q : Nat) (sc : Scope) : Bool :=
  tags.any fun t => !(inScope s t.scope t.agent q && inScope s sc q t.agent)

/-- The cache action of an acquire at die scope or wider (R167). -/
def acquireFlash (s : State) (c : Nat) (sc : Scope) : State :=
  match sc with
  | .core => s
  | .cluster => s
  | _ => if uncached c then s else flashCoherent s (clusterOf s c) none

/-! ### What an operation reaches, and the poison that it would read (R159, R171, R349) -/

/-- The places that an operation reaches. -/
def OpKind.locs : OpKind → List Loc
  | .load _ l _ _ _ => [l]
  | .loadV _ l _ _ => [l]
  | .store l _ _ => [l]
  | .storeV l _ _ => [l]
  | .amo l _ _ _ _ _ => [l]
  | .cas l _ _ _ _ _ => [l]
  | .tblld src _ => src
  | .wbr ls _ _ => ls
  | .invr _ ls _ _ => ls
  | .wbinvr ls _ _ => ls
  | .zeror ls _ _ => ls
  | .lockl _ ls _ _ _ => ls
  | .arm l _ => [l]
  | .launch l _ => [l]
  | .nsend l => [l]
  | .kstage ls _ => ls
  | .trylk l _ _ => [l]
  | .unlk l _ _ => [l]
  | .qpusht l _ _ => [l]
  | .qpopt l _ _ => [l]
  | .bararr l _ _ => [l]
  | .bartry l _ _ => [l]
  | .park _ l _ => [l]
  | .gatherL core _ ls _ => ls.map fun p => .loc core p.2
  | .scatterL core _ ls => ls.map fun p => .loc core p.2.1
  | .cpyq _ _ => []
  | .send _ _ _ _ _ => []
  | .cntrd _ _ => []
  | .cntadd _ _ _ => []
  | .cntset _ _ => []
  | .matrix _ => []
  | .kstageU _ _ _ => []

def Loc.isGlobal : Loc → Bool
  | .loc _ _ => false
  | .glob _ _ => true

/-- Whether poison lies on a place of n bytes, or for translated memory on its segment: in local memory, at the slice, or in a
cache of the core's cluster. whole: on any byte of the line that it is a part of. -/
def placeBad (s : State) (c n : Nat) (whole : Bool) : Loc → Bool
  | .loc k off => (lmRead s k off n).2
  | .glob asid g =>
    let o := if whole then 0 else g.va % 128
    let hi := if whole then 128 else g.va % 128 + g.len
    let cl := getCluster s (clusterOf s c)
    memBad s (g.pa / 128 * 128 + o) (hi - o) || (!uncached c &&
      ((cl.near.any fun l => l.asid = asid && l.line = g.va / 128 && (l.poison &&& wordRange o hi) ≠ 0) ||
       (cl.ro.any fun l => l.asid = asid && l.line = g.va / 128 && (l.poison &&& wordRange o hi) ≠ 0)))

/-- Whether an operation reads whole lines: those that write back, fill or lock lines at the slice (R197). -/
def OpKind.wholeLines : OpKind → Bool
  | .wbr _ _ _ => true
  | .wbinvr _ _ _ => true
  | .zeror _ _ _ => true
  | .lockl _ _ _ _ _ => true
  | _ => false

/-- The places of a decode table that an entry of a core's matrix queue has still to read (R247). -/
def tablePlaces (s : State) (c id : Nat) : List Loc :=
  match (getCore s c).mq.find? fun q => q.id = id with
  | some q => (match q.kind with
    | .mtbl src _ => src
    | _ => [])
  | none => []

/-- Whether an operation or a command of a slot would meet poison if it were performed now: it may then still trap, and what
is younger has no effect (R171, R349; log 32). -/
def poisonAhead (s : State) (c : Nat) (sl : SlotSt) (id : Nat) : Bool :=
  match sl.ops.find? fun m => m.id = id with
  | some m => (match m.kind with
    | .matrix e => (tablePlaces s c e).any (placeBad s c 64 false)
    | .kstage ls _ => ls.any (placeBad s c 64 false)
    | .gatherL _ e _ _ => m.kind.locs.any (placeBad s c e false)
    | k => k.locs.any (placeBad s c (match m.spans with | (_, n) :: _ => n | [] => 0) k.wholeLines))
  | none => match tget s.cmds id with
    | some m => (match m.kind, m.state with
      | .ksend ls _ _, .issued => ls.any (placeBad s c 32 false)
      | _, _ => false)
    | none => false

/-- Whether some operation of a slot that is older than an instruction may still trap: one that has not passed the point at
which it could, and that would meet poison now (R171; log 32). -/
def trapsAhead (s : State) (c : Nat) (sl : SlotSt) (id : Nat) : Bool :=
  sl.undo.any fun u => u.id < id && poisonAhead s c sl u.id

end Sys2Proof.Machine
end

