-- ==== Sys2Proof/Machine/Device.lean ====
section
/-!
DEFINITION. What the device does on its own account: accesses of engines and records at the slices, the error log, counter
messages, fault rings (R152, R218, R337 to R343, R366, R367).
-/
set_option Elab.async false
namespace Sys2Proof.Machine

/-- A global read at device scope: the bytes and the address of the lowest poisoned byte (R152). -/
def devRead (s : State) (asid va n : Nat) : Except Fail (State × List Byte × Option Nat) :=
  match reach s asid va n .read true with
  | .error e => .error e
  | .ok (s, gs) =>
    let s := touchSegs s asid none gs
    let bs := (gs.map fun g => slRead s (some asid) g.pa g.len).flatten
    let bad := gs.findSome? fun g => (memBadAt s g.pa g.len).map fun o => g.va + o
    .ok (s, bs, bad)

/-- Bytes spread over translated segments. -/
def spread (s : State) (asid : Nat) : List Seg → List Byte → State
  | [], _ => s
  | g :: gs, bs =>
    spread (slWrite (touchSlice s asid (g.va / 128) g.cls none) (some asid) g.pa (bs.take g.len)) asid gs (bs.drop g.len)

/-- A global write at device scope. -/
def devWrite (s : State) (asid va : Nat) (bs : List Byte) : Except Fail State :=
  match reach s asid va bs.length .write true with
  | .error e => .error e
  | .ok (s, gs) => .ok (spread s asid gs bs)

/-- Words of a written range poisoned: register poison saved (R369). -/
def devPoison (s : State) (asid va n : Nat) : State :=
  match reach s asid va n .write true with
  | .error _ => s
  | .ok (s, gs) => gs.foldl (fun s g => memPoison s g.pa g.len) s

/-! ### Counter messages (R217, R218, R370) -/

/-- A counter message put on its way. -/
def sendMsg (s : State) (m : CMsg) : State := { bump s with cmsgs := tset s.cmsgs s.seq m }

/-- An increment of one by the device itself for an ASID, which the core's owner need not be (R217; log 35). -/
def sendInc (s : State) (asid : Nat) (coord ctr : Nat) : State :=
  sendMsg s { coord, ctr, add := 1, asid := some asid, judged := false }

/-- A done increment of one, which is judged against the core's owner (R217, R370). -/
def sendDone (s : State) (asid : Nat) (coord ctr : Nat) : State :=
  sendMsg s { coord, ctr, add := 1, asid := some asid }

/-! ### The error log (R366, R367) -/

def errEntry (time addr aux coord asid dup code : Nat) : List Byte :=
  bytesOf 8 (1 + 256 * code + 2 ^ 48 * dup) ++
  bytesOf 8 (2 ^ 4 * asid + 2 ^ 14 * coord + 2 ^ 32 * aux) ++ bytesOf 8 addr ++ bytesOf 8 time

def errLost (s : State) : State := { s with gw := { s.gw with errlost := satInc s.gw.errlost } }

/-- The increment that follows a post (R366). -/
def errSignal (s : State) (asid : Nat) : State :=
  if fld s.gw.errsig 18 18 = 1 then
    sendInc s asid (fld s.gw.errsig 17 0) (fld s.gw.errcfg 51 48)
  else s

/-- The most recent entry of the error ring that is still valid (R366). -/
def errNewest (s : State) : Option ErrLast :=
  s.gw.errlast.find? fun l => bitN (rdNat s.mem (fld s.gw.errcfg 47 12 * 4096 + 32 * l.idx) 1) 0

/-- A failure posted, folded into the most recent valid entry, or counted as lost (R366). -/
def errPost (s : State) (code coord asid addr aux : Nat) : State :=
  let cfg := s.gw.errcfg
  let base := fld cfg 47 12 * 4096
  let nlog := fld cfg 4 0
  if fld cfg 63 63 = 0 || nlog > 12 then errLost s
  else
    match (errNewest s).filter fun l =>
        l.code = code && l.coord = coord && l.asid = asid && s.now ≤ l.time + 1600 with
    | some l =>
      let a := base + 32 * l.idx + 6
      slWrite s none a (bytesOf 2 (Nat.min 65535 (rdNat s.mem a 2 + 1)))
    | none =>
      let a := base + 32 * s.gw.errnext
      if bitN (rdNat s.mem a 1) 0 then errLost s
      else
        let t := slWrite s none a (errEntry s.now (addr % 2 ^ 56) aux (coord % 2 ^ 18) asid 0 code)
        errSignal { t with gw := { t.gw with
          errlast := ⟨s.gw.errnext, code, coord, asid, s.now⟩ :: t.gw.errlast.filter fun l => l.idx ≠ s.gw.errnext
          errnext := (s.gw.errnext + 1) % 2 ^ nlog } } asid

/-! ### Fault rings (R337 to R341) -/

def getRing (s : State) (asid : Nat) : RingSt := (tget s.gw.rings asid).getD {}
def setRing (s : State) (asid : Nat) (r : RingSt) : State := { s with gw := { s.gw with rings := tset s.gw.rings asid r } }

def recAddr (r : RingSt) (i : Nat) : Nat := fld r.cfg 47 12 * 4096 + 64 * i

/-- A fault record's fields that posting reads (R338). -/
def recFlags (s : State) (a : Nat) : Nat := rdNat s.mem a 1
def recAsid (s : State) (a : Nat) : Nat := bitsN (rdNat s.mem (a + 32) 8) 9 0
def recBlock (s : State) (a : Nat) : Nat := bitsN (rdNat s.mem (a + 32) 8) 55 22

/-- The open record of a block, if any: valid, not consumed, not done (R339). -/
def openRec (s : State) (r : RingSt) (asid blk : Nat) : Option Nat :=
  (below (2 ^ fld r.cfg 4 0)).find? fun i =>
    let a := recAddr r i
    recFlags s a % 8 = 1 && recAsid s a = asid && recBlock s a = blk

/-- Bits of kinds that a fault sets (R338). -/
def kindBits (k : Acc4) (engine : Bool) : Nat :=
  (if engine then 8 else 0) |||
  (match k with
   | .read => 1
   | .write => 2
   | .fetch => 4
   | .rmw => 3)

/-- A field of a fault record written: the ring lies in physical memory, under the ASID's key (R337). -/
def ringPut (s : State) (asid a n v : Nat) : State := slWrite s (some asid) a (bytesOf n v)

/-- A record's bitmap, kinds and attached count brought up to date (R339). (Log 48.) -/
def recAdd (s : State) (asid a page kinds : Nat) : State :=
  let bm := rdNat s.mem (a + 56) 8 ||| 2 ^ page
  let at_ := Nat.min (2 ^ 32 - 1) (rdNat s.mem (a + 44) 4 + 1)
  let kd := rdNat s.mem (a + 43) 1 % 16 ||| kinds
  ringPut (ringPut (ringPut s asid (a + 56) 8 bm) asid (a + 44) 4 at_) asid (a + 43) 1 kd

/-- A fault posted at a virtual address: the record's index, or none for a noring fault (R339, R341). -/
def faultPost (s : State) (asid va kinds : Nat) : State × Option Nat :=
  let r := getRing s asid
  let nlog := fld r.cfg 4 0
  let lost : State × Option Nat := (setRing s asid { r with noring := satInc r.noring }, none)
  if fld r.cfg 63 63 = 0 || nlog > 12 then lost
  else
    let blk := bitsN va 55 22
    let page := bitsN va 21 16
    match openRec s r asid blk with
    | some i => (recAdd s asid (recAddr r i) page kinds, some i)
    | none =>
      let i := r.next
      let a := recAddr r i
      if bitN (recFlags s a) 0 then lost
      else
        let t := ringPut s asid a 64 0
        let t := ringPut t asid (a + 32) 8 (asid + 2 ^ 22 * blk)
        let t := ringPut t asid (a + 48) 8 s.now
        let t := ringPut t asid a 1 1
        (recAdd (setRing t asid { r with next := (i + 1) % 2 ^ nlog }) asid a page kinds, some i)

/-- A task attached to a fault record (R339). -/
def attachTask (s : State) (asid : Nat) (f : Faulter) : State :=
  let r := getRing s asid
  setRing s asid { r with tasks := r.tasks ++ [f] }

/-! ### Page requests (R343) -/

def getPrq (s : State) (vf : Nat) : PrqSt := (tget s.gw.prq vf).getD {}
def setPrq (s : State) (vf : Nat) (q : PrqSt) : State := { s with gw := { s.gw with prq := tset s.gw.prq vf q } }

/-- A miss posted in a virtual function's queue: the tag of its entry, or none while the queue is full or off (R343). -/
def pagePost (s : State) (vf asid gpa kinds : Nat) : State × Option Nat :=
  let q := getPrq s vf
  let plog := fld q.cfg 4 0
  let gp := bitsN gpa 47 16
  match q.open_.find? fun e => e.2 = gp with
  | some e => (s, some e.1)
  | none =>
    let a := fld q.cfg 47 12 * 4096 + 32 * q.next
    if fld q.cfg 63 63 = 0 || plog > 12 || bitN (rdNat s.mem a 1) 0 then (s, none)
    else
      let t := slWrite s none a (bytesOf 4 0 ++ bytesOf 4 (vf + 2 ^ 6 * asid + 2 ^ 16 * kinds) ++ bytesOf 8 gp ++ bytesOf 16 0)
      (setPrq (slWrite t none a (bytesOf 1 1)) vf
        { q with next := (q.next + 1) % 2 ^ plog, open_ := q.open_ ++ [(q.next, gp)] }, some q.next)

/-- A miss that found its queue full or off waits at the slice, to be posted again (R343). -/
def retryLater (s : State) (vf asid gpa kinds : Nat) (who : Missed) : State :=
  let q := getPrq s vf
  setPrq (bump s) vf { q with retry := q.retry ++ [⟨s.seq, asid, gpa, who, kinds, s.now⟩] }

/-- Tags from here up name a miss that has not been posted yet. -/
def unposted : Nat := 2 ^ 40

def vfOf (s : State) (asid : Nat) : Nat :=
  match tget s.gw.root asid with
  | some r => r.vf
  | none => 0

end Sys2Proof.Machine
end

