-- ==== Sys2Proof/Machine/Share.lean ====
section
/-!
DEFINITION. Groups, the pool of shares, the wait-for graph and lending (R32, R33, R286 to R303, R355 to R363).
-/
set_option Elab.async false
namespace Sys2Proof.Machine

def gidOf (idx : Nat) (gen : BitVec 6) : GroupId := BitVec.ofNat 24 (64 * idx + gen.toNat)
def gidIdx (g : GroupId) : Nat := g.toNat / 64

/-- The live group that an ID names: index and generation match (R32). -/
def getGroup (s : State) (g : GroupId) : Option GroupSt :=
  match tget s.groups (gidIdx g) with
  | some r => if r.live && r.gen.toNat = g.toNat % 64 then some r else none
  | none => none

def setGroup (s : State) (g : GroupId) (r : GroupSt) : State := { s with groups := tset s.groups (gidIdx g) r }
def modGroup (s : State) (g : GroupId) (f : GroupSt → GroupSt) : State :=
  match getGroup s g with
  | some r => setGroup s g (f r)
  | none => s

def Place.isEnded : Place → Bool
  | .ended => true
  | _ => false

/-- The tasks of a group (R32). -/
def membersOf (s : State) (g : GroupId) : List (Nat × TaskSt) :=
  s.tasks.filter fun e => e.2.group = g && !e.2.place.isEnded

/-- Whether a bound stage names a group: its contexts and Husks then count as members (R33, R265). -/
def stageNames (s : State) (g : GroupId) : Bool :=
  s.cores.any fun e => e.2.stages.any fun b => b.2.group = g

/-- 0 runnable, 1 waiting, 2 saved, 3 empty (R287). -/
def groupState (s : State) (g : GroupId) : Nat :=
  let ms := membersOf s g
  if ms.any fun e => (match e.2.place with | .resident _ _ => true | .queued _ => true | _ => false) then 0
  else if ms.any fun e => (match e.2.place with | .parked _ _ => true | _ => false) then 1
  else if ms.any fun e => (match e.2.place with | .saved _ _ => true | _ => false) then 2
  else 3

/-- n(g): the cores that hold a resident member (R288). -/
def coresOfGroup (s : State) (g : GroupId) : List Nat :=
  ((membersOf s g).filterMap fun e => (match e.2.place with | .resident c _ => some c | _ => none)).eraseDups

def nCores (s : State) (g : GroupId) : Nat := (coresOfGroup s g).length

def nthD (l : List Nat) (i : Nat) : Nat := l.getD i 0

def sumOf (l : List Nat) : Nat := l.foldl (· + ·) 0

def inSum (r : GroupSt) : Nat := sumOf r.inn

/-- What a group still holds of the shares that it received, by depth class (R303). -/
def heldIn (inn lent : List Nat) : List Nat := (below 8).map fun i => nthD inn i - nthD lent i

/-- eff(g) (R288). Shares that other groups still hold, its own or passed on, do not count (R302, R303). -/
def effOf (r : GroupSt) : Nat :=
  let i := sumOf (heldIn r.inn r.lent)
  (r.own - r.away) + (if r.cap = 0 then i else Nat.min i r.cap)

def densityOf (s : State) (g : GroupId) : Nat :=
  match getGroup s g with
  | some r => if nCores s g = 0 then 0 else effOf r / nCores s g
  | none => 0

/-- The density that sets a core: the highest of its residents' groups (R288). -/
def coreDensity (s : State) (c : Nat) : Nat :=
  (getCore s c).slots.foldl (fun m e => match getTask s e.2.task with
    | some t => Nat.max m (densityOf s t.group)
    | none => m) 0

/-- The operating point of a density (R288). -/
def opOfDensity (d : Nat) : Nat :=
  if d = 0 then 0 else if d < 6 then 1 else if d < 10 then 2 else if d < 15 then 3 else if d < 22 then 4
  else if d < 30 then 5 else if d < 40 then 6 else 7

def mhzOf : Nat → Nat
  | 1 => 500
  | 2 => 650
  | 3 => 800
  | 4 => 950
  | 5 => 1050
  | 6 => 1150
  | 7 => 1250
  | _ => 0

/-- The operating point called for on a core; control cores run at OP3 always (R290). -/
def wantedOp (s : State) (c : Nat) : Nat :=
  if isControl c || isHart c then 3 else opOfDensity (coreDensity s c)

/-- OPNOW of a core (R305); a control core reads op 3 and density 0 (R290). (Log 15.) -/
def opnowWord (s : State) (c : Nat) : Word :=
  let k := getCore s c
  let d := getDie s (dieKey c)
  if isControl c || isHart c then put d.slewholds.toNat 48 ||| put (mhzOf 3) 16 ||| put 3 0
  else
    put d.slewholds.toNat 48 ||| put (boolN k.stepping) 35 ||| put (if k.stepping then k.target else 0) 32 ||| put (mhzOf k.op) 16 |||
    put (Nat.min 255 (coreDensity s c)) 8 ||| put k.op 0

/-! ### Lending (R300, R301, R358) -/

/-- Edges out of a group. -/
def edgesOf (s : State) (g : GroupId) : List Edge := s.edges.filter fun e => e.src = g

/-- Whether dst is reached from a group over edges registered before a time whose sources wait. -/
def reaches (s : State) (before : Nat) (dst : GroupId) : Nat → List GroupId → Bool
  | 0, _ => false
  | n + 1, fr =>
    if fr.contains dst then true
    else
      let nx := (s.edges.filter fun e => e.time < before && fr.contains e.src && groupState s e.src = 1).map fun e => e.dst
      let new := nx.filter fun g => !fr.contains g
      if new.isEmpty then false else reaches s before dst n (fr ++ new)

/-- The edge of a standing cycle that was registered last carries nothing (R358). -/
def edgeCut (s : State) (e : Edge) : Bool :=
  groupState s e.src = 1 && groupState s e.dst = 1 && reaches s e.time e.src (s.edges.length + 1) [e.dst]

/-- Whether a group's shares are being recalled: its last runnable member is being saved by pre-emption, and no member is
parked (R52, R360). -/
def recalled (s : State) (g : GroupId) : Bool :=
  let ms := membersOf s g
  let rs := ms.filter fun e => (match e.2.place with | .resident _ _ => true | .queued _ => true | _ => false)
  !rs.isEmpty && !(ms.any fun e => (match e.2.place with | .parked _ _ => true | _ => false)) &&
  rs.all fun e => match e.2.place with
    | .resident c i => (match slotAt s c i with | some sl => sl.recalling | none => false)
    | _ => false

/-- The recipients of a waiting group, in ascending order of ID (R301). -/
def recipients (s : State) (h : GroupId) : List GroupId :=
  let rs := (edgesOf s h).filterMap fun e =>
    if e.dst ≠ h && (getGroup s e.dst).isSome && groupState s e.dst ≤ 1 && !recalled s e.dst && !edgeCut s e then some e.dst
    else none
  sortBy (fun g => g.toNat) rs.eraseDups

/-- The waiting groups that pass shares on, with their recipients. -/
def lenders (s : State) : List (GroupId × List GroupId) :=
  s.groups.filterMap fun e =>
    let g := gidOf e.1 e.2.gen
    if e.2.live && groupState s g = 1 then
      (let r := recipients s g; if r.isEmpty then none else some (g, r))
    else none

/-- What one lender's amount gives to a recipient (R301). -/
def shareTo (amount : Nat) (rs : List GroupId) (g : GroupId) : Nat :=
  match rs.idxOf? g with
  | some i => amount / rs.length + (if i < amount % rs.length then 1 else 0)
  | none => 0

/-- One depth class from the one before it: what every group receives (R301). -/
def passLayer (ls : List (GroupId × List GroupId)) (amount : GroupId → Nat) (g : GroupId) : Nat :=
  ls.foldl (fun n l => n + shareTo (amount l.1) l.2 g) 0

/-- Shares received in depth classes 1 to 8, as the graph now fixes them (R301). -/
def targetIn (s : State) (ls : List (GroupId × List GroupId)) : Nat → (GroupId → Nat) → GroupId → List Nat
  | 0, _, _ => []
  | n + 1, amount, g =>
    let next := passLayer ls amount
    next g :: targetIn s ls n next g

/-- What a lender passes in class 0. -/
def lendable (s : State) (g : GroupId) : Nat :=
  match getGroup s g with
  | some r => r.own - r.resv
  | none => 0

/-- A group's account of lent shares: received by class, passed on by class, and own shares away. -/
structure Account where
  inn  : List Nat
  lent : List Nat
  away : Nat
  deriving DecidableEq, Repr

/-- A group's account as the graph fixes it (R301): a lender passes on its own shares but for the reserve, and what it
received in classes 1 to 7. -/
def targetOf (s : State) (g : GroupId) : Account :=
  let ls := lenders s
  let inn := targetIn s ls 8 (lendable s) g
  if ls.any fun l => l.1 = g then { inn, lent := inn.take 7, away := lendable s g } else { inn, lent := [], away := 0 }

/-- Whether a group still holds shares that it is to give up (R302). -/
def holdsMore (r : GroupSt) (t : Account) : Bool :=
  r.away < t.away || (below 8).any fun i => nthD (heldIn r.inn r.lent) i > nthD (heldIn t.inn t.lent) i

/-- Whether some other group still holds shares that it is to give up (R302). -/
def removalPending (s : State) (but : GroupId) : Bool :=
  s.groups.any fun e =>
    let g := gidOf e.1 e.2.gen
    e.2.live && g ≠ but && holdsMore e.2 (targetOf s g)

/-- An account while other groups have still to give up shares: a group gives up its own part and receives nothing. -/
def giveUp (r : GroupSt) (t : Account) : GroupSt :=
  let inn := (below 8).map fun i => Nat.min (nthD r.inn i) (nthD t.inn i)
  let held (i : Nat) : Nat := Nat.min (Nat.min (nthD (heldIn r.inn r.lent) i) (nthD (heldIn t.inn t.lent) i)) (nthD inn i)
  { r with inn, lent := (below 8).map fun i => nthD inn i - held i, away := Nat.max r.away t.away }

/-- A message dropped because its group is not live (R362). -/
def dropStale (s : State) (g : GroupId) : State :=
  match tget s.groups (gidIdx g) with
  | some r => setDie s r.home { getDie s r.home with stale := satInc (getDie s r.home).stale }
  | none => s

/-- A share message at a group: shares leave the group that holds them before another receives them (R302). (Log 45.) -/
def settleShares (s : State) (g : GroupId) : State :=
  match getGroup s g with
  | none => s
  | some r =>
    let t := targetOf s g
    if removalPending s g then setGroup s g (giveUp r t)
    else setGroup { s with owed := 0 } g { r with inn := t.inn, lent := t.lent, away := t.away }

/-- SHARES (R304). -/
def sharesWord (s : State) (g : GroupId) : Word :=
  match getGroup s g with
  | some r => put (boolN (groupState s g = 1)) 63 ||| put (inSum r) 42 ||| put r.resv 21 ||| put r.own 0
  | none => 0

/-- The lending view (R304). -/
def lendWord (s : State) (g : GroupId) : Word :=
  let out := match getGroup s g with
    | some r => if (lenders s).any fun l => l.1 = g then
        (r.own - r.resv) + sumOf (r.inn.take 7) else 0
    | none => 0
  put (groupState s g) 62 ||| put (Nat.min 255 (densityOf s g)) 54 ||| put (nCores s g) 36 ||| put out 0

/-! ### Waking (R299, R355, R357, R359) -/

def modDie (s : State) (d : Nat) (f : DieSt → DieSt) : State := setDie s d (f (getDie s d))

/-- Whether the scheduler firmware has to find another core (R104, R376). -/
def outOfService (s : State) (c : Nat) : Bool := (getCore s c).halted || (getCore s c).unavail

/-- Where a continuation of a task is queued: on its own coordinate, or, when that is out of service, where the firmware
moves it: the first core of its launch in service (R39, R104; which one is a DESIGN CHOICE, log 17). -/
def homeFor (s : State) (k : TaskSt) : Nat :=
  if !outOfService s k.home then k.home
  else match tget s.launches k.launch with
    | some l => (l.r.cores.find? fun c => coreOk s c && !outOfService s c).getD k.home
    | none => k.home

/-- The priority with which a task is queued: that of its record, when it starts from one that can be read (R36, R46). -/
def startPrio (s : State) (k : TaskSt) : Start → Nat
  | .record r => (match devRead s r.asid (r.va + 8) 8 with
    | .ok (_, bs, _) => bitsN (natOf bs) 57 56
    | .error _ => k.prio)
  | .fresh => k.prio
  | .coro _ _ => k.prio

/-- A task queued on a core, at the rank that its launch gives it (R42, R46). acq: something on the way acquired for it. -/
def enqueueAt (s : State) (t c : Nat) (st : Start) (acq : Bool) : State :=
  match getTask s t with
  | none => s
  | some k =>
    let q : QItem := { task := t, prio := startPrio s k st, launch := k.launch, layer := k.layer, start := st, acq }
    modCore (setTask s t { k with place := .queued c }) c fun m => { m with queue := m.queue ++ [q] }

/-- Whether a task's record is pinned: its own pin bit, which software too may write, where it can be read (R36, R38). -/
def recordPin (s : State) (k : TaskSt) (r : RecAt) : Bool :=
  match devRead s r.asid (r.va + 15) 1 with
  | .ok (_, bs, _) => bitN (natOf bs) 5
  | .error _ => k.pin

/-- Whether the core where a queued item starts is left open to it: a record that is pinned to another core is not (R36,
R38). DESIGN CHOICE: a record with a SAVED copy or a pending CPYI interrupt that its halted core holds stays pinned to that
core, and is resumed nowhere until the next device reset: R207 and R208 pin it, and R104 does not say what becomes of it (log
55). -/
def pinAllows (s : State) (c : Nat) (k : TaskSt) : Start → Bool
  | .record r => (match k.kept with
    | some (q, _) => q = c || !recordPin s k r
    | none => true)
  | .fresh => true
  | .coro _ _ => true

/-- Where a task is while its record waits to be passed on: parked, for one that PARK, WTSET.s or a refused KSEND wrote, else
saved (R36, R287). -/
def recordPlace (s : State) (c : Nat) (r : RecAt) : Place :=
  match devRead s r.asid (r.va + 15) 1 with
  | .ok (_, bs, _) => if bitsN (natOf bs) 4 2 = 0 then .parked c r else .saved c r
  | .error _ => .saved c r

/-- A continuation left with the scheduler firmware, which passes it on once its record is pinned no longer (R104). -/
def holdPinned (s : State) (t : Nat) : Start → State
  | .record r => modTask s t fun k => match k.kept with
    | some (q, _) => { k with place := recordPlace s q r, fw := true }
    | none => k
  | .fresh => s
  | .coro _ _ => s

/-- A task queued on a core, or, where the core that it belongs to is out of service and its record is pinned there, left with
the firmware (R39, R104). -/
def enqueueTo (s : State) (t c : Nat) (st : Start) (acq : Bool) : State :=
  match getTask s t with
  | none => s
  | some k => if outOfService s k.home && !pinAllows s c k st then holdPinned s t st else enqueueAt s t c st acq

/-- A task queued on its own coordinate (R39). -/
def enqueue (s : State) (t : Nat) (st : Start) (acq : Bool) : State :=
  match getTask s t with
  | none => s
  | some k => enqueueTo s t (homeFor s k) st acq

/-- A continuation queued by an entry that fired on a core, on that core, or, when that is out of service, where the firmware
moves it (R46, R104). The firing acquires for it (R218). -/
def queueFired (s : State) (t c : Nat) (r : RecAt) : State :=
  match getTask s t with
  | none => s
  | some k => enqueueTo s t (if outOfService s c then homeFor s k else c) (.record r) true

/-- The task's edges removed; an edge whose contributors have all left goes (R300). -/
def dropEdges (s : State) (t : Nat) : State :=
  { s with edges := (s.edges.map fun e => { e with tasks := e.tasks.filter fun x => x ≠ t }).filter fun e =>
      !e.tasks.isEmpty }

/-- A task's edges registered: one to every group that it awaits (R300). Returns the names of new edges' probes' origins
through the probes table (R356). -/
def addEdges (s : State) (t : Nat) (src : GroupId) : List GroupId → State
  | [] => s
  | g :: gs =>
    let s := if s.edges.any fun e => e.src = src && e.dst = g then
        { s with edges := s.edges.map fun e => if e.src = src && e.dst = g then { e with tasks := e.tasks ++ [t] } else e }
      else { s with edges := s.edges ++ [⟨src, g, s.seq, [t]⟩] }
    let s := { bump s with probes := tset s.probes s.seq ⟨src, s.seq, g, [src]⟩ }
    addEdges s t src gs

/-- The bytes of the waiters field of an object (R294, R295); barriers and replies have none. -/
def waitersAt : ParkKind → Option Nat
  | .lk => some 4
  | .qn => some 28
  | .qs => some 28
  | .bar => none
  | .rp => none

/-- An object's count of waiters changed by the device, which is no release (R299, R312, R393). A poisoned count stays so. -/
def countWaiters (s : State) (asid a : Nat) (f : Nat → Nat) : State :=
  let t := slWrite s (some asid) a (bytesOf 4 (f (rdNat s.mem a 4) % 2 ^ 32))
  if memBad s a 4 then memPoison t a 4 else t

/-- The task counted out of its object's waiters (R299). -/
def unwait (s : State) (w : Wait) : State :=
  match w.stage, waitersAt w.kind with
  | none, some o => countWaiters s w.asid (w.obj + o) fun n => n - 1
  | _, _ => s

/-- The record that a parked or saved task resumes from. -/
def recOf (k : TaskSt) : Option RecAt :=
  match k.place with
  | .parked _ r => some r
  | .saved _ r => some r
  | _ => none

/-- A parked task woken with a status (R299, R355): the first wake only. A wake that finds the save not yet complete leaves
its status; the continuation is queued when the save is. -/
def wakeTask (s : State) (t : Nat) (status : Pred) : State :=
  match getTask s t with
  | none => s
  | some k =>
    match k.wait with
    | none => s
    | some w =>
      let s := unwait s w
      let s := dropEdges s t
      let s := match w.stage with
        | some (c, _) => modCore s c fun m => { m with
            waiters := m.waiters.filter fun x => x.task ≠ t
            resvd := if status = 0 then m.resvd else m.resvd.filter fun x => x.1.task ≠ t }
        | none => s
      let s := setTask s t { k with wait := none, wake := some status }
      match recOf k with
      | some r => enqueue s t (.record r) false
      | none => s

/-- Every task parked on an object with a kind is woken (R299). -/
def wakeAll (s : State) (k : ParkKind) (obj : Nat) (status : Pred) : State :=
  (s.tasks.filter fun e => match e.2.wait with
    | some w => w.stage.isNone && w.kind = k && w.obj = obj
    | none => false).foldl (fun s e => wakeTask s e.1 status) s

/-- Whether a task is parked on the reply of a counter that has reached its threshold (R298). -/
def replyDue (s : State) (c n : Nat) (v : BitVec 32) (t : Nat) : Bool :=
  match getTask s t with
  | some k => (match k.wait with
    | some w => w.kind = .rp && w.stage.isNone && w.coord = c && w.ctr = n && w.thresh ≤ v
    | none => false)
  | none => false

/-- A parked reply's counter looked at again: it wakes at or above its threshold (R298). -/
def wakeReplies (s : State) (c n : Nat) : State :=
  let v := ((getCore s c).ctrs[n]?).getD 0
  s.tasks.foldl (fun r e => if replyDue r c n v e.1 then wakeTask r e.1 0 else r) s

/-! ### Freeing (R33, R286, R307, R359) -/

/-- A group freed: its generation advances, and every task with an edge to it is woken with ORPHAN (R32, R359). -/
def freeGroup (s : State) (g : GroupId) : State :=
  match getGroup s g with
  | none => s
  | some r =>
    let s := setGroup s g { r with live := false, gen := r.gen + 1, own := 0, resv := 0, inn := [], lent := [], away := 0 }
    let hit := (s.edges.filter fun e => e.dst = g).map fun e => e.tasks
    hit.flatten.eraseDups.foldl (fun s t =>
      let s := match getTask s t with
        | some k => (match getGroup s k.group with
          | some q => modDie s q.home fun d => { d with orphans := satInc d.orphans }
          | none => s)
        | none => s
      wakeTask s t 2) s

/-- Shares drawn from the pool: how many of them recipients of freed groups still hold (R286, R302). -/
def drawShares (s : State) (n : Nat) : State × Nat :=
  let late := n - (s.pool - s.owed)
  ({ s with pool := s.pool - n, owed := s.owed - late }, late)

/-- The own shares of a group to the pool, and the group freed. Those that its recipients still hold stay owed (R302). -/
def retireGroup (s : State) (g : GroupId) : State :=
  match getGroup s g with
  | none => s
  | some r => freeGroup { s with pool := s.pool + r.own, owed := s.owed + Nat.min r.away r.own } g

/-- Whether nothing keeps a group: no member, and no bound stage that names it (R33, R265). -/
def groupIdle (s : State) (g : GroupId) : Bool := (membersOf s g).isEmpty && !stageNames s g

/-- A group looked at after it may have lost its last member (R33, R286, R307). -/
def groupCheck (s : State) (g : GroupId) : State :=
  match getGroup s g with
  | none => s
  | some r =>
    if !groupIdle s g then s
    else match r.origin with
      | .gnew _ => if r.settled && !(s.edges.any fun e => e.dst = g) then retireGroup s g else s
      | _ => retireGroup s g

/-- The lowest free index from 1 up (R32). -/
def freeIndex (s : State) : Option Nat :=
  let i := (s.groups.foldl (fun i e => if e.1 = i && e.2.live then i + 1 else i) 1)
  if i < 262144 then some i else none

/-- A new group at the lowest free index (R32, R286); away: those of its shares that others have still to give up. DESIGN
CHOICE: an index that has never been used has generation 0; R32 gives no first generation (log 4). -/
def newGroup (s : State) (asid own away cap home : Nat) (o : Origin) : Option (State × GroupId) :=
  match freeIndex s with
  | none => none
  | some i =>
    let gen := match tget s.groups i with
      | some r => r.gen
      | none => 0
    let r : GroupSt := { gen, asid, own, away, cap, home, origin := o }
    some ({ s with groups := tset s.groups i r }, gidOf i gen)

/-- Probes for every edge of a group that has just become waiting (R356). -/
def probeEdges (s : State) (g : GroupId) : List Edge → State
  | [] => s
  | e :: es => probeEdges { bump s with probes := tset s.probes s.seq ⟨g, s.seq, e.dst, [g]⟩ } g es

/-- A group looked at after a member left its slot: if it now waits, it sends its probes (R356). -/
def becameWaiting (s : State) (g : GroupId) : State :=
  if groupState s g = 1 then probeEdges s g (edgesOf s g) else s

end Sys2Proof.Machine
end

