-- ==== Sys2Proof/Machine/Task.lean ====
section
/-!
DEFINITION. Tasks: stream counts, continuation records, ends, pre-emption, placement and owners (R29 to R39, R42, R46,
R51 to R54, R91, R160 to R162, R274, R326, R333).
-/
set_option Elab.async false
namespace Sys2Proof.Machine

/-! ### Outstanding work (R97, R160, R161) -/

def CmdState.isDone : CmdState → Bool
  | .done _ _ => true
  | _ => false

/-- The outstanding inherited commands of a task, in issue order. -/
def outstanding (s : State) (t : Nat) : List (Nat × Cmd) :=
  s.cmds.filter fun e => e.2.task = some t && !e.2.state.isDone

/-- The outstanding direct operations of a task. -/
def opsOf (s : State) (t : Nat) : List MemOp :=
  match residence s t with
  | some (c, i) => (match slotAt s c i with
    | some sl => sl.ops
    | none => [])
  | none => (match getTask s t with
    | some k => k.detached
    | none => [])

/-- The operations and commands of a stream that are outstanding. -/
def liveCount (s : State) (t k : Nat) : Nat :=
  ((opsOf s t).filter fun o => o.stream = k).length + ((outstanding s t).filter fun e => e.2.stream = k).length

/-- The outstanding count of a stream (R160): a resumed task started with the counts of its record, which those operations
lower when they complete (R37, R161). -/
def streamCount (s : State) (t k : Nat) : Nat :=
  match getTask s t with
  | some q => ((liveCount s t k : Int) + q.skew.getD k 0).toNat
  | none => liveCount s t k

def snap48 (s : State) (t : Nat) : Nat := (below 8).foldl (fun n k => n + streamCount s t k * 64 ^ k) 0

/-- STRMSNAP (R97). -/
def strmsnap (s : State) (t : Nat) : Word := put (outstanding s t).length 48 ||| put (snap48 s t) 0

/-- The handles field: 16 words in 8 dwords (R37, R317). -/
def handleWords (s : State) (t : Nat) : List Word :=
  let hs := (outstanding s t).map fun e => e.2.handle
  (below 8).map fun i => put (hs.getD (2 * i) 0) 0 ||| put (hs.getD (2 * i + 1) 0) 32

/-! ### Continuation records (R36, R37) -/

/-- The registers that a live mask names, ascending; bit 0 is ignored. -/
def maskRegs (mask : Nat) : List Nat := (upFrom 1 31).filter fun k => bitN mask k

/-- What a record is written from. -/
structure Save where
  sl     : SlotSt
  pc     : Word
  origin : Nat
  ext    : Bool
  mask   : Nat := 0
  key    : Word := 0
  group  : GroupId
  prio   : Nat
  feat   : BitVec 16
  pin    : Bool
  snap   : Nat
  handles : List Word := []
  deriving DecidableEq, Repr

def Save.head (v : Save) : List Word :=
  let st := v.origin ≠ 2
  [ put (v.pc.toNat % 2 ^ 56) 0 ||| put (boolN (st && v.sl.strict)) 56 ||| put (if st then v.sl.fpstat.toNat else 0) 57,
    put (v.mask % 2 ^ 32) 0 ||| put v.group.toNat 32 ||| put v.prio 56 ||| put v.origin 58 ||| put (boolN v.pin) 61 |||
      put (boolN v.sl.scopemiss) 62 ||| put (boolN v.ext) 63,
    put v.snap 0 ||| put v.feat.toNat 48,
    v.key ]

def dwordsOf (v : Vec) : List Word := (below 4).map fun i => v.extractLsb' (64 * i) 64

def predWord (sl : SlotSt) : Word := (below 8).foldl (fun w k => w ||| put (sl.p k).toNat (8 * k)) 0

/-- The extension's 108 dwords (R37). -/
def Save.tail (v : Save) : List Word :=
  if !v.ext then []
  else
    ((below 32).map fun k => v.sl.rdP k) ++ ((below 16).map fun k => dwordsOf (v.sl.v k)).flatten ++
    [predWord v.sl, v.sl.fpstat.setWidth 64] ++ v.handles ++ [v.sl.hintctl, v.sl.xferid]

def padTo (n : Nat) (l : List Word) : List Word := l.take n ++ List.replicate (n - l.length) 0

def Save.dwords (v : Save) : List Word :=
  v.head ++ padTo 16 ((maskRegs v.mask).map fun k => v.sl.rdP k) ++ v.tail

def bytesOfWords (ws : List Word) : List Byte := (ws.map fun w => bytesOf 8 w.toNat).flatten

/-- Where a poisoned register lies in a record: byte offsets and lengths (R369). -/
def Save.poisonAt (v : Save) (r : Reg) : List (Nat × Nat) :=
  match r with
  | .x n =>
    (match (maskRegs v.mask).idxOf? n with
     | some j => if j < 16 then [(32 + 8 * j, 8)] else []
     | none => []) ++ (if v.ext && n < 32 then [(160 + 8 * n, 8)] else [])
  | .v n => if v.ext then [(416 + 32 * n, 32)] else []
  | .p n => if v.ext then [(928 + n / 4 * 4, 4)] else []
  | .tbl _ => []

/-- A record written at the slices by a core, after the write-back of R162. -/
def writeRecord (s : State) (c : Nat) (v : Save) (r : RecAt) : Except Fail State :=
  let s := if v.origin = 2 || uncached c then s else writeBackAll s (clusterOf s c) r.asid none
  match devWrite s r.asid r.va (bytesOfWords v.dwords) with
  | .error f => .error f
  | .ok s =>
    let ps := (v.sl.poison.map fun e => v.poisonAt e.1).flatten
    .ok (ps.foldl (fun s p => devPoison s r.asid (r.va + p.1) p.2) s)

def wordAt (bs : List Byte) (i : Nat) : Nat := natOf ((bs.drop (8 * i)).take 8)

/-- The slot state that a record gives back (R37). Words of registers that were poisoned poison them again (R369). The PC is
aligned whatever the record holds in its bits [3:0] (R57). DESIGN CHOICE: UEPC and the shadow registers x24 to x31, for which a
record has no field, are 0, though R212 says that those registers hold what the last handler left (log 55). -/
def slotOfRecord (t : Nat) (level : BitVec 2) (bs : List Byte) (bad : Nat → Bool) (va : Nat) : SlotSt :=
  let w (i : Nat) : Nat := wordAt bs i
  let ext := bitN (w 1) 63
  let base : SlotSt :=
    { task := t, pc := put (bitsN (w 0) 55 4) 4, level
      strict := bitN (w 0) 56, fpstat := BitVec.ofNat 5 (bitsN (w 0) 61 57), scopemiss := bitN (w 1) 62 }
  let setx (sl : SlotSt) (n i : Nat) : SlotSt :=
    let sl := sl.setP n (BitVec.ofNat 64 (w i))
    if bad (2 * i) || bad (2 * i + 1) then sl.setPoison (.x n) (va + 8 * i) else sl
  if !ext then
    ((maskRegs (w 1 % 2 ^ 32)).zip (upFrom 4 16)).foldl (fun sl e => setx sl e.1 e.2) base
  else
    let sl := (upFrom 1 31).foldl (fun sl n => setx sl n (20 + n)) base
    let sl := (below 16).foldl (fun (sl : SlotSt) n =>
      let sl := sl.setV n (BitVec.ofNat 256 (natOf ((bs.drop (416 + 32 * n)).take 32)))
      if (upFrom (104 + 8 * n) 8).any bad then sl.setPoison (.v n) (va + 416 + 32 * n) else sl) sl
    let sl := (upFrom 1 7).foldl (fun (sl : SlotSt) n =>
      let sl := sl.setPr n (BitVec.ofNat 8 (w 116 / 2 ^ (8 * n)))
      if bad (232 + n / 4) then sl.setPoison (.p n) (va + 928 + n) else sl) sl
    { sl with
      fpstat := BitVec.ofNat 5 (w 117)
      strict := bitN (w 126) 0
      misses := BitVec.ofNat 32 (w 126 / 2 ^ 32)
      slips := BitVec.ofNat 16 (w 126 / 2 ^ 16)
      lastkind := BitVec.ofNat 3 (w 126 / 16)
      xlast := BitVec.ofNat 32 (w 127 / 2 ^ 32)
      xid := BitVec.ofNat 32 (w 127) }

/-- The poisoned 4-byte words of a record, by number. -/
def recPoison (s : State) (r : RecAt) (n : Nat) : List Nat :=
  (below n).filter fun i => match devRead s r.asid (r.va + 4 * i) 4 with
    | .ok (_, _, some _) => true
    | _ => false

/-- A record read back: its bytes and its poisoned words; none when it cannot be read, which poison in its status fields
makes so (R333). -/
def readRecord (s : State) (r : RecAt) : Option (State × List Byte × List Nat) :=
  match devRead s r.asid r.va 160 with
  | .error _ => none
  | .ok (s, bs, _) =>
    if !bitN (wordAt bs 1) 63 then
      (let ps := recPoison s r 40; if ps.any fun i => i < 8 then none else some (s, bs, ps))
    else
      match devRead s r.asid r.va 1024 with
      | .error _ => none
      | .ok (s, bs, _) =>
        let ps := recPoison s r 256
        if ps.any fun i => i < 8 || 234 ≤ i then none else some (s, bs, ps)

/-! ### Where a task is saved -/

/-- Member m's Husk area begins here (R275). -/
def huskArea (b : StageSt) : Nat := b.husk + b.index * (2 ^ b.nblog + 4) * 1024

/-- A task's save slot (R40), or the save entry of a coroutine's run token (R275). -/
def saveSlot (s : State) (k : TaskSt) : RecAt :=
  match k.coro with
  | some q =>
    (match tget (getCore s q.core).stages q.stage, tget (getCore s q.core).pod q.ctx with
     | some b, some p => ⟨k.asid, huskArea b + 2 ^ b.nblog * 1024 + p.token * 1024⟩
     | _, _ => ⟨k.asid, 0⟩)
  | none =>
    (match tget s.launches k.launch with
     | some l => ⟨k.asid, l.r.save + 1024 * k.tile⟩
     | none => ⟨k.asid, 0⟩)

/-- Whether something keeps a record of the task pinned (R38, R208, R275). -/
def pinNow (s : State) (t : Nat) (k : TaskSt) : Bool :=
  !(outstanding s t).isEmpty || !(opsOf s t).isEmpty || !k.ints.isEmpty || k.coro.isSome

/-- The pin bit of a record cleared, where it can be read (R36). -/
def clearPin (s : State) (r : RecAt) : State :=
  match devRead s r.asid (r.va + 15) 1 with
  | .error _ => s
  | .ok (s, bs, _) =>
    let b := natOf bs
    if !bitN b 5 then s
    else match devWrite s r.asid (r.va + 15) [BitVec.ofNat 8 (b - 32)] with
      | .error _ => s
      | .ok s => s

/-- Whether a KSENDT of a task has been sent and its answer has not arrived: its predicate comes as the result of a direct
access does (R53, R281). -/
def awaitsAnswer (s : State) (t : Nat) : Bool := s.kmsgs.any fun e => e.2.task = t && e.2.pred.isSome

/-- The KSENDTs of a task that have still to be sent, as producers of their predicates (R68, R281). -/
def unsentPreds (s : State) (t : Nat) : List Inflight :=
  s.cmds.filterMap fun e => match e.2.kind, e.2.state with
    | .ksend _ _ (some p), .issued =>
      if e.2.task = some t && p ≠ 0 then some ⟨e.1, [.p p], [], .none, none, true⟩ else none
    | _, _ => none

/-- Something of a stream of a saved task has completed: the record's count of that stream falls, and its pin is cleared
when nothing keeps it (R38, R161). -/
def refreshRecord (s : State) (t stream : Nat) : State :=
  match getTask s t with
  | none => s
  | some k =>
    match k.kept with
    | none => s
    | some (_, r) =>
      let pin := k.pin && pinNow s t k
      let s := setTask s t { k with pin := pin }
      match devRead s r.asid (r.va + 15) 7 with
      | .error _ => s
      | .ok (s, bs, _) =>
        let b := natOf (bs.take 1)
        let b := if k.pin && !pin then b % 32 + b / 64 * 64 else b
        let n := natOf (bs.drop 1)
        let n := if n / 64 ^ stream % 64 = 0 then n else n - 64 ^ stream
        match devWrite s r.asid (r.va + 15) (BitVec.ofNat 8 b :: bytesOf 6 n) with
        | .error _ => s
        | .ok s => s

/-! ### The end of a task (R91, R282) -/

/-- A command that ended PARTIAL, FAULTED or REFUSED is logged (R345, R367). -/
def logEnd (s : State) (m : Cmd) (status addr : Nat) : State :=
  if 5 ≤ status && status ≤ 7 then errPost s 0x0F m.core m.asid addr m.handle else s

/-- A KSEND's command finished: its completion release is on its way (R277, R345). -/
def cmdFinish (s : State) (id status : Nat) : State :=
  match tget s.cmds id with
  | none => s
  | some m =>
    if m.state.isDone then s
    else logEnd { s with cmds := tset s.cmds id { m with state := .releasing status } } m status 0

/-- The members of a stage: the cores with a binding of its handle (R257). -/
def membersOfStage (s : State) (asid : Nat) (h : Word) : List (Nat × Nat) :=
  (s.cores.map fun e => (e.2.stages.filter fun b => b.2.handle = h && b.2.asid = asid).map fun b => (e.1, b.1)).flatten

/-- An x register of a saved record written: only an extension has a place for every register (R37). -/
def putSavedX (s : State) (r : RecAt) (n : Nat) (v : Word) : State :=
  match devRead s r.asid (r.va + 15) 1 with
  | .ok (s, bs, _) =>
    if bitN (natOf bs) 7 && n ≠ 0 && n < 32 then
      (match devWrite s r.asid (r.va + 160 + 8 * n) (bytesOf 8 v.toNat) with
       | .ok s => s
       | .error _ => s)
    else s
  | .error _ => s

/-- The result of a KFLUSH: to its register, or to the record of its task (R284). -/
def flushResult (s : State) (f : FlushSt) (total : Nat) : State :=
  match residence s f.task with
  | some (c, i) => modSlot s c i fun sl => sl.deliver f.id [putX f.dst (BitVec.ofNat 64 total) none]
  | none =>
    match getTask s f.task with
    | some k => (match k.kept with
      | some (_, r) => putSavedX s r f.dst (BitVec.ofNat 64 total)
      | none => s)
    | none => s

/-- The KFLUSHes of a stage that no member has anything left to retire for complete: their counts go to their registers
(R284). -/
def flushCheck (s : State) (asid : Nat) (h : Word) : State :=
  let ms := membersOfStage s asid h
  let bs := ms.filterMap fun m => tget (getCore s m.1).stages m.2
  let parts (id : Nat) : List FlushSt := (bs.map fun b => b.flush.filter fun f => f.id = id).flatten
  let first : List FlushSt := match bs with
    | b :: _ => b.flush
    | [] => []
  let ended := first.filter fun f => (parts f.id).all fun p => p.keys.isEmpty
  let s := ms.foldl (fun s m => modCore s m.1 fun k => { k with
    stages := tmod k.stages m.2 fun b => { b with flush := b.flush.filter fun f => !(ended.any fun o => o.id = f.id) } }) s
  ended.foldl (fun s f => flushResult s f ((parts f.id).foldl (fun (n : Nat) p => n + p.done) 0)) s

/-- A key that a stage has no longer to retire; retired: a retire resumption of it has ended (R284). -/
def StageSt.settleKey (b : StageSt) (key : Word) (retired : Bool) : StageSt :=
  { b with
    retiring := b.retiring.filter fun w => w ≠ key
    flush := b.flush.map fun f => { f with
      keys := f.keys.filter fun w => w ≠ key
      done := if retired && f.keys.contains key then f.done + 1 else f.done } }

/-- A context freed: a retire resumption that ends counts for the KFLUSHes that asked for it (R273, R276, R284). -/
def freeCtx (s : State) (q : Coro) : State :=
  let k := getCore s q.core
  match tget k.pod q.ctx, tget k.stages q.stage with
  | some p, some b =>
    let b := { b.settleKey p.key p.retire with
      looked := b.looked.filter fun w => w ≠ p.key
      victimNo := b.victimNo.filter fun i => i ≠ q.ctx }
    let s := setCore s q.core { k with pod := tdel k.pod q.ctx, stages := tset k.stages q.stage b }
    flushCheck s b.asid b.handle
  | _, _ => s

/-- What the end of a coroutine does beside the end of its task (R282). -/
def coroEnd (s : State) (k : TaskSt) (status : Nat) : State :=
  match k.coro with
  | none => s
  | some q => freeCtx (match q.cmd with | some id => cmdFinish s id status | none => s) q

/-- An expert routine that ends without a status completes DONE with offset 0 (R199). The task that runs a routine has the
number of its command. -/
def endRoutine (s : State) (t : Nat) : State :=
  { s with cmds := tmod s.cmds t fun m => match m.state with
      | .running => { m with state := .releasing 3, offset := 0 }
      | _ => m }

/-- Entries that WTSET.s took for a record that will not be written are free again (R44, R223). -/
def dropReserved (s : State) (c t : Nat) : State :=
  modCore s c fun k => { k with wt := k.wt.filter fun e => e.2.valid || e.2.task ≠ some t }

/-- A task ends: it leaves its slot, its group and every queue (R91). -/
def endTask (s : State) (t status : Nat) : State :=
  match getTask s t with
  | none => s
  | some k =>
    let s := endRoutine s t
    let s := coroEnd s k status
    let s := dropEdges s t
    let s := match k.place with
      | .resident c i => dropReserved (delSlot s c i) c t
      | .queued c => modCore s c fun q => { q with queue := q.queue.filter fun e => e.task ≠ t }
      | _ => s
    let s := setTask s t { k with place := .ended, ints := [], wait := none, coro := none, detached := [], kept := none }
    groupCheck (becameWaiting s k.group) k.group

/-! ### Saving (R38, R52, R333) -/

/-- What a cut makes of a state that the slot can go back to: the handler is cut there too, or has not been entered (R171,
R331). -/
def Undo.cut (u : Undo) : Undo :=
  if u.inh && u.taken.isEmpty then { u with inh := false, bank := false, upcall := false, pc := u.uepc, handlers := [] }
  else { u with taken := u.taken.dropLast }

/-- The user-level handler of a slot cut (R331): the interrupt is held pending again, ahead of the later ones. An upcall is
not held pending (R336). -/
def cutHandler (s : State) (c i : Nat) : State :=
  match slotAt s c i with
  | none => s
  | some sl =>
    if !sl.inh then s
    else
      let s := match sl.upcall, sl.handlers with
        | false, (h, x) :: _ => modTask s sl.task fun k => { k with ints := ⟨h, x⟩ :: k.ints }
        | _, _ => s
      setSlot s c i { sl with inh := false, bank := false, upcall := false, pc := sl.uepc, handlers := [], undo := sl.undo.map Undo.cut }

/-- Whether a pre-emption stops a command at its chunk boundary: those of routine 0 (R207). -/
def CmdKind.stops : CmdKind → Bool
  | .cpy _ _ _ rtn _ => rtn = 0
  | .lanes _ _ => true
  | .halo _ _ _ => true
  | _ => false

/-- The requests that commands wait on forgotten: an answer that comes later is none of theirs (R347). -/
def dropPageWaits (s : State) (ids : List Nat) : State :=
  { s with gw := { s.gw with prq := s.gw.prq.map fun e => (e.1, { e.2 with
      cmds := e.2.cmds.filter fun x => !ids.contains x.2
      retry := e.2.retry.filter fun x => match x.who with
        | .cmd id => !ids.contains id
        | _ => true }) } }

/-- Whether a command's work is over. -/
def CmdState.over : CmdState → Bool
  | .releasing _ => true
  | .done _ _ => true
  | _ => false

/-- Commands of routine 0 stop at their chunk boundary and report SAVED; one whose kick has not reached its engine stops at
its first (R52, R207, R347). -/
def saveCmds (s : State) (t : Nat) : State :=
  let mine := s.cmds.filter fun e => e.2.task = some t && e.2.kind.stops
  let s := dropPageWaits s (mine.map fun e => e.1)
  { s with cmds := s.cmds.map fun e =>
      if e.2.task ≠ some t || !e.2.kind.stops || e.2.state.over then e
      else (e.1, { e.2 with state := .saved, buf := [], idx := [] }) }

/-- SAVED commands are kicked again (R207). -/
def rekickCmds (s : State) (t : Nat) : State :=
  { s with cmds := s.cmds.map fun e => match e.2.state with
      | .saved => if e.2.task = some t then (e.1, { e.2 with state := .issued }) else e
      | _ => e }

/-- What a save comes to. -/
inductive Saved where
  | done (s : State)
  | waits (s : State)          -- on the page of a save entry (R354)
  | failed (s : State)
  deriving DecidableEq, Repr

/-- A record that could not be written: only a save entry waits for its page (R333, R354). -/
def saveFault (s : State) (c i : Nat) (k : TaskSt) : Fail → Saved
  | .trap _ => .failed s
  | .page va _ =>
    if k.coro.isNone then .failed s
    else (match faultPost s k.asid va (8 ||| kindBits .write false) with
      | (s, none) => .failed s
      | (s, some r) => .waits (modSlot s c i fun sl => { sl with saveWait := some (false, r) }))
  | .stage2 _ gpa _ =>
    if k.coro.isNone then .failed s
    else match pagePost s (vfOf s k.asid) k.asid gpa (8 ||| kindBits .write false) with
      | (s, some tag) => .waits (modSlot s c i fun sl => { sl with saveWait := some (true, tag) })
      | (s, none) =>
        let q := retryLater s (vfOf s k.asid) k.asid gpa (8 ||| kindBits .write false) (.save c i)
        .waits (modSlot q c i fun sl => { sl with saveWait := some (true, unposted + s.seq) })

/-- A task whose record cannot be saved ends, and the loss is logged (R333, R354). -/
def saveLost (s : State) (c t : Nat) (k : TaskSt) (va : Nat) : State :=
  match k.coro with
  | none => errPost (endTask s t 3) 0x10 c k.asid va k.tile
  | some q =>
    let key := match tget (getCore s q.core).pod q.ctx with
      | some p => p.key
      | none => 0
    errPost (endTask s t 6) 0x11 c k.asid va (key.toNat % 2 ^ 32)

/-- The key of a coroutine; zero for any other task (R36). -/
def coroKey (s : State) (k : TaskSt) : Word :=
  match k.coro with
  | some q => (match tget (getCore s q.core).pod q.ctx with | some p => p.key | none => 0)
  | none => 0

/-- The resident task of a slot saved with its whole state, and its slot freed: steps 3 to 6 of R52. Operations still
outstanding are detached (R53). A trap handler's signal follows the record (R320). An entry that fired for the record
meanwhile queues it now (R46). -/
def saveWhole (s : State) (c i : Nat) (origin : Nat) (pc : Word) (feat : Option (BitVec 16)) (fw : Bool)
    (signal : Option (Nat × Nat)) : State :=
  let sent (s : State) (asid : Nat) : State := match signal with
    | some (coord, ctr) => sendInc s asid coord ctr
    | none => s
  match slotAt s c i with
  | none => s
  | some sl =>
    match getTask s sl.task with
    | none => s
    | some k =>
      let t := sl.task
      let s := saveCmds s t
      let r := saveSlot s k
      let pin := pinNow s t k
      let v : Save :=
        { sl, pc, origin, ext := true, key := coroKey s k, group := k.group, prio := k.prio, feat := feat.getD k.feat, pin
          snap := snap48 s t, handles := handleWords s t }
      match writeRecord s c v r with
      | .error f =>
        (match saveFault s c i k f with
         | .waits s => modSlot s c i fun q => { q with pc, hold := .saving origin feat fw signal, recalling := true }
         | .failed s => sent (saveLost s c t k r.va) k.asid
         | .done s => s)
      | .ok s =>
        let s := setTask (delSlot s c i) t
          { k with
            place := .saved c r, kept := some (c, r), keptAt := clusterOf s c, pin, detached := sl.ops
            flow := sl.flow, turned := sl.turned, fw := fw && k.fired.isNone, fired := none, feat := feat.getD k.feat }
        let s := sent (groupCheck (becameWaiting s k.group) k.group) k.asid
        match k.fired with
        | some q => queueFired s t q r
        | none => s

/-- A task saved as PARK saves it: the registers of a mask, ext 0 (R37). -/
def savePark (s : State) (c i : Nat) (pc : Word) (r : RecAt) : Saved :=
  match slotAt s c i with
  | none => .failed s
  | some sl =>
    match getTask s sl.task with
    | none => .failed s
    | some k =>
      let mask := match tget s.launches k.launch with
        | some l => l.r.parkmask.toNat
        | none => 0
      let pin := pinNow s sl.task k
      let v : Save :=
        { sl, pc, origin := 0, ext := false, mask, group := k.group, prio := k.prio, feat := k.feat, pin
          snap := snap48 s sl.task, key := coroKey s k }
      match writeRecord s c v r with
      | .error f => if r = saveSlot s k then saveFault s c i k f else .failed s
      | .ok s =>
        let kept (r : Reg) : Bool := (maskRegs mask).any fun n => r = .x n
        .done (setTask (delSlot s c i) sl.task
          { k with
            place := .parked c r, kept := some (c, r), keptAt := clusterOf s c, pin
            flow := sl.flow.filter fun e => kept e.1, turned := sl.turned })

/-! ### Owners (R34, R54, R217, R258) -/

/-- Whether something of an ASID is pinned to a core: a record saved there, until it is resumed, an armed entry or trigger,
a bound stage (R34, R217). -/
def pinnedAt (s : State) (c asid : Nat) : Bool :=
  let k := getCore s c
  (s.tasks.any fun e => e.2.asid = asid && (match e.2.kept with
    | some (q, r) => q = c && recordPin s e.2 r
    | none => false))
  || (k.wt.any fun e => e.2.valid && e.2.asid = asid) || (k.trig.any fun e => e.2.asid = asid)
  || (k.stages.any fun e => e.2.asid = asid)

/-- Whether another core of the cluster has the same owner. -/
def peerOwned (s : State) (c asid : Nat) : Bool :=
  (coresAt s (clusterOf s c)).any fun q => q ≠ c && (getCore s q).owner = some asid

/-- Whether the unit's front holds a command of an ASID (R236). -/
def frontHolds (s : State) (c asid : Nat) : Bool :=
  (getCluster s (clusterOf s c)).unit.front.any fun f => match tget s.cmds f.cmd with
    | some m => m.asid = asid
    | none => false

/-- Whether a task of an ASID may be placed on a core now (R34, R236). -/
def mayTake (s : State) (c asid : Nat) : Bool :=
  let k := getCore s c
  match k.owner with
  | none => true
  | some o =>
    o = asid || (k.slots.isEmpty && !pinnedAt s c o && k.mq.isEmpty && (peerOwned s c o || !frontHolds s c o))

/-- A coordinate's core index in a launch's grid (R30). -/
def coreIndex (r : LaunchRec) (c : Nat) : Option Nat :=
  let d := dieOf c - r.orgdie
  let w := rowOf c - r.orgrow
  let k := colOf c - r.orgcol
  if r.orgdie ≤ dieOf c && d < r.ndie && r.orgrow ≤ rowOf c && w < r.nrow && r.orgcol ≤ colOf c && k < r.ncol then
    some ((d * r.nrow + w) * r.ncol + k)
  else none

def lmFrom (r : LaunchRec) : Nat := 4096 * r.lmoff
def lmLen (r : LaunchRec) : Nat := 4096 * r.lmsize

/-- A departing launch's reservation saved to its image area (R54). DESIGN CHOICE: a poisoned byte of local memory met on the
way fails the image as a fault of a write does, and nothing of it is written (log 55). -/
def saveImage (s : State) (c n : Nat) (r : LaunchRec) : State :=
  match coreIndex r c with
  | none => s
  | some i =>
    let (bs, bad) := lmRead s c (lmFrom r) (lmLen r)
    let mark (s : State) : State := modCore s c fun k => { k with images := n :: k.images }
    if bad then errPost (modCore (mark s) c fun k => { k with badImage := n :: k.badImage }) 0x14 c r.asid r.image i
    else match devWrite s r.asid (r.image + 65536 * i + lmFrom r) bs with
      | .ok s => mark s
      | .error _ => errPost (modCore (mark s) c fun k => { k with badImage := n :: k.badImage }) 0x14 c r.asid r.image i

/-- One part of an image read back: bytes that cannot be read become poison, and the first failing address is kept (R54). -/
def restorePart (c asid off at_ : Nat) (s : State × Option Nat) (p : Nat × Nat) : State × Option Nat :=
  match devRead s.1 asid p.1 p.2 with
  | .error _ => (lmPoison s.1 c (off + (p.1 - at_)) p.2, s.2.orElse fun _ => some p.1)
  | .ok (t, bs, none) => (lmWrite t c (off + (p.1 - at_)) bs, s.2)
  | .ok (t, bs, some a) =>
    let t := lmWrite t c (off + (p.1 - at_)) bs
    let bad := (wordsOf p.1 p.2).filter fun w => match devRead s.1 asid (4 * w) 4 with
      | .ok (_, _, none) => false
      | _ => true
    (bad.foldl (fun t w => lmPoison t c (off + (4 * w - at_)) 4) t, s.2.orElse fun _ => some a)

/-- A launch's image restored before its first task issues again on the core (R54). -/
def restoreImage (s : State) (c n : Nat) (r : LaunchRec) : State :=
  let k := getCore s c
  if !k.images.contains n then s
  else
    let failed := k.badImage.contains n
    let s := setCore s c { k with
      images := k.images.filter fun m => m ≠ n, badImage := k.badImage.filter fun m => m ≠ n }
    match coreIndex r c with
    | none => s
    | some i =>
      if failed then lmPoison s c (lmFrom r) (lmLen r)
      else
        let at_ := r.image + 65536 * i + lmFrom r
        match (partsOf at_ (lmLen r)).foldl (restorePart c r.asid (lmFrom r) at_) (s, none) with
        | (s, none) => s
        | (s, some a) => errPost s 0x14 c r.asid a i

/-- The core cleared for a new owner (R27, R117, R217, R236). -/
def clearCore (k : CoreSt) : CoreSt :=
  { k with
    lmem := [], lpoison := [], pod := [], inbox := [], ctrs := Vector.replicate 16 0, wt := [], trig := []
    tblA := .q43, tblB := .q43, fmtA := .bf16, fmtB := .bf16, mint := false, mTA := .q43, mTB := .q43, latA := {}
    skOn := false, skPtr := 0, skLeft := 0, skZero := false, a0 := {}, a1 := {} }

/-- A core taken by an ASID (R34). A first owner needs no clearing. DESIGN CHOICE: the departing launches are the live ones of
the old ASID whose grid holds the core, whether or not a task of theirs has been placed there or is still to end; R54 does not
say which launches depart (log 55). -/
def takeOwner (s : State) (c asid : Nat) : State :=
  match (getCore s c).owner with
  | none => modCore s c fun k => { k with owner := some asid }
  | some o =>
    if o = asid then s
    else
      let s := s.launches.foldl (fun s e =>
        if e.2.r.asid = o && !e.2.done && !(getCore s c).images.contains e.1 then saveImage s c e.1 e.2.r else s) s
      let s := modCore s c fun k => { clearCore k with owner := some asid }
      if peerOwned s c o then s
      else modCluster s (clusterOf s c) fun u => { u with
        ro := []
        unit := { u.unit with lease := none, gen := 0, draw := u.unit.draw + 1 } }

/-! ### Placement (R42, R46, R274, R326) -/

/-- The lowest required feature bit that a core lacks (R315, R326). -/
def lacking (s : State) (c : Nat) (feat : BitVec 16) : Option Nat :=
  (below 16).find? fun i => feat.getLsbD i && !(getCore s c).feat.getLsbD i

/-- The word at a PC as the slices hold it; zero when its fetch would fault (R317). -/
def wordAtPc (s : State) (asid : Nat) (pc : Word) : BitVec 128 :=
  match reachPart s asid pc.toNat 16 .fetch false with
  | .ok (s, g) => BitVec.ofNat 128 (natOf (slRead s (some asid) g.pa 16))
  | .error _ => 0

/-- A task put into the lowest empty slot of a core that its ASID owns. One that requires a feature the core lacks takes
FEATURE-ABSENT before its first instruction (R315, R317, R326). -/
def seat (s : State) (c t : Nat) (k : TaskSt) (sl : SlotSt) : State :=
  match freeSlot (getCore s c) with
  | none => s
  | some i =>
    let sl := match lacking s c k.feat with
      | some b =>
        let t : Trap := { cause := .featureAbsent, detail := b, word := wordAtPc s k.asid sl.pc }
        { sl with hold := .trapping t }
      | none => sl
    setTask (setSlot s c i sl) t { k with place := .resident c i }

/-- The state of a newly launched task (R42). -/
def freshSlot (t : Nat) (l : LaunchSt) : SlotSt :=
  let base : SlotSt := { task := t, pc := l.r.entry, level := l.level }
  let sl := (l.argv.zip (upFrom 1 8)).foldl (fun (sl : SlotSt) e => sl.setP e.2 e.1) base
  sl.setP 30 (BitVec.ofNat 64 (winBase + 4096 * (l.r.lmoff + l.r.lmsize)))

/-- The state of a coroutine that starts: a record of ext 0, then the delivered record (R274). -/
def coroSlot (s : State) (t : Nat) (k : TaskSt) (rec : List Byte) (retire : Bool) : SlotSt :=
  match k.coro with
  | none => { task := t }
  | some q =>
    match tget (getCore s q.core).pod q.ctx, tget (getCore s q.core).stages q.stage with
    | some p, some b =>
      let base : SlotSt :=
        { task := t, pc := p.pc, level := k.level0, scopemiss := p.scopemiss, poison := p.poison
          flow := k.flow.filter fun e => !(upFrom 16 4).any fun n => e.1 = .x n, turned := k.turned }
      let sl := ((maskRegs b.livemask.toNat).zip p.regs).foldl (fun (sl : SlotSt) e => { sl with xs := sl.xs.setIfInBounds e.1 e.2 }) base
      let w (i : Nat) : Word := if retire then (if i = 0 then p.key else 0) else BitVec.ofNat 64 (wordAt rec i)
      let sl := (below 4).foldl (fun (sl : SlotSt) i => sl.setP (16 + i) (w i)) sl
      sl.setPr 7 (if retire then 0xFF else 0)
    | _, _ => { task := t }

/-- By stream, how far a record's snap lies from what is outstanding for its task. -/
def skewOf (s : State) (t snap : Nat) : List Int :=
  (below 8).map fun j => (snap / 64 ^ j % 64 : Nat) - (liveCount s t j : Int)

/-- A record resumed on a core (R37, R161, R162, R333, R355, R356). DESIGN CHOICE: a record whose group field names no live
group leaves the task in the group that it had (log 55). (Log 32.) -/
def resumeRecord (s : State) (c t : Nat) (k : TaskSt) (r : RecAt) : State :=
  match readRecord s r with
  | none => errPost (endTask s t 3) 0x10 c k.asid r.va k.tile
  | some (s, bs, ps) =>
    let sl := slotOfRecord t k.level0 bs (fun i => ps.contains i) r.va
    let sl := match k.wake with
      | some p => sl.setPr 7 p
      | none => sl
    let w1 := wordAt bs 1
    let g := BitVec.ofNat 24 (bitsN w1 55 32)
    let group := if (getGroup s g).isSome then g else k.group
    let there := k.kept.isSome && k.keptAt = clusterOf s c
    let s := if uncached c || there then s else resumeInvalidate s (clusterOf s c) k.asid
    let k' := { k with
      group, prio := bitsN w1 57 56, feat := BitVec.ofNat 16 (bitsN (wordAt bs 2) 63 48), wake := none, pin := false,
      fw := false, wait := none, kept := none, detached := [], skew := skewOf s t (wordAt bs 2)
      flow := [], turned := [] }
    let sl := { sl with flow := k.flow, turned := k.turned, inflight := unsentPreds s t }
    let sl := match k.missFail, k.miss, k.missAt with
      | true, some t, none => { sl with hold := .trapping (t.orDetail 8) }
      | _, _, _ => sl
    let marks := match k.missFail, k.miss, k.missAt with
      | true, some t, some pc => k.marks ++ [(pc, t.orDetail 8)]
      | _, _, _ => k.marks
    let s := seat s c t { k' with miss := none, missFail := false, missAt := none, marks } sl
    let s := rekickCmds s t
    if group = k.group then s else groupCheck (becameWaiting s k.group) k.group

/-- One queued item placed. -/
def placeItem (s : State) (c : Nat) (q : QItem) : State :=
  match getTask s q.task with
  | none => modCore s c fun k => { k with queue := k.queue.filter fun e => e != q }
  | some k =>
    let s := modCore s c fun k => { k with queue := k.queue.filter fun e => e != q }
    let s := takeOwner s c k.asid
    let s := match tget s.launches k.launch with
      | some l => restoreImage s c k.launch l.r
      | none => s
    let s := if q.acq then acquireFlash s c .device else s
    match q.start with
    | .record r => resumeRecord s c q.task k r
    | .coro rec retire => rekickCmds (seat s c q.task k (coroSlot s q.task k rec retire)) q.task
    | .fresh =>
      (match tget s.launches k.launch with
       | some l => seat s c q.task k (freshSlot q.task l)
       | none => s)

/-- The feature bits that a queued item requires: those of its record, when it starts from one that can be read (R36). -/
def startFeat (s : State) (k : TaskSt) : Start → BitVec 16
  | .record r => (match devRead s r.asid (r.va + 22) 2 with
    | .ok (_, bs, _) => BitVec.ofNat 16 (natOf bs)
    | .error _ => k.feat)
  | .fresh => k.feat
  | .coro _ _ => k.feat

def Start.isRecord : Start → Bool
  | .record _ => true
  | _ => false

/-- Whether a queued item has but to wait for a slot: its core is in service and does not freeze, its record may resume there,
no access of it is detached and no answer to it on its way (R36, R38, R53, R104, R375, R376). One that requires a reserved
feature bit is never placed (R96, R326). -/
def admissible (s : State) (c : Nat) (q : QItem) : Bool :=
  match getTask s q.task with
  | none => true
  | some k =>
    !outOfService s c && !(getCore s c).freezing && !((getCore s c).slots.any fun e => e.2.hold = .halting) && k.detached.isEmpty
      && !(q.start.isRecord && awaitsAnswer s q.task) && pinAllows s c k q.start && (startFeat s k q.start).toNat < 128

/-- Whether a queued item could take a slot now (R34, R38). -/
def placeable (s : State) (c : Nat) (q : QItem) : Bool :=
  match getTask s q.task with
  | none => true
  | some k => admissible s c q && (freeSlot (getCore s c)).isSome && mayTake s c k.asid

/-- The order of the placement queue (R42): waiting items first, then by priority, launch and layer. DESIGN CHOICE: new
placements of different launches, none of which has waited yet, are taken in the same order of priority, launch and layer,
which R42 gives for the queue alone (log 55). -/
def queueRank (q : QItem) : Nat :=
  (if q.waiting then 0 else 2 ^ 40) + (3 - q.prio) * 2 ^ 36 + q.launch * 4 + q.layer

/-- A pre-emption asked of a slot (R51). -/
def askPreempt (s : State) (c i : Nat) : State :=
  modSlot s c i fun sl => if sl.preReq.isSome then sl else { sl with preReq := some s.now }

/-- The resident tasks of a core, the first to be pre-empted first: lowest priority, then highest slot (R51). -/
def victims (s : State) (c : Nat) : List (Nat × Nat) :=
  sortBy (fun e => e.2 * 4 + (3 - e.1)) ((getCore s c).slots.filterMap fun e =>
    (getTask s e.2.task).map fun k => (e.1, k.prio))

/-- Whether a slot has been asked to give way. -/
def givesWay (s : State) (c i : Nat) : Bool :=
  match slotAt s c i with
  | some sl => sl.preReq.isSome
  | none => false

/-- The pre-emptions that an item which finds no slot asks for (R34, R51). -/
def contend (s : State) (c : Nat) (q : QItem) : State :=
  match getTask s q.task with
  | none => s
  | some k =>
    let core := getCore s c
    match core.owner with
    | none => s
    | some o =>
      let vs := victims s c
      if o = k.asid then
        (match vs.filter fun v => !givesWay s c v.1 with
         | (i, p) :: _ => if (freeSlot core).isNone && p < q.prio then askPreempt s c i else s
         | [] => s)
      else if !pinnedAt s c o && vs.all fun v => v.2 < q.prio then vs.foldl (fun s v => askPreempt s c v.1) s
      else s

/-- A core's placement queue served once: the best item that can be placed now, else the arrival of the best new one.
Only items of the named kind take their turn. DESIGN CHOICE: an item asks for pre-emption once, when it first finds no slot;
the spec does not say whether it asks again when the owner's last pin goes later (log 55). -/
def serveQueue (s : State) (c : Nat) (rec : Bool) : State :=
  let qs := (getCore s c).queue
  match leastBy queueRank (qs.filter fun q => placeable s c q) with
  | some q => if q.start.isRecord = rec then placeItem s c q else s
  | none =>
    match leastBy queueRank (qs.filter fun q => !q.waiting && q.start.isRecord = rec && admissible s c q) with
    | none => s
    | some q =>
      let s := modCore s c fun k => { k with queue := k.queue.map fun e => if e = q then { e with waiting := true } else e }
      contend s c q

end Sys2Proof.Machine
end

