-- ==== Sys2Proof/Machine/Launch.lean ====
section
/-!
DEFINITION. Launches and stage bindings: records, checks, firing, done increments (R30, R31, R33, R40 to R43, R257 to R265,
R328, R329).
-/
set_option Elab.async false
namespace Sys2Proof.Machine

/-! ### Launch records (R40) -/

def LaunchRec.ofBytes (bs : List Byte) : LaunchRec :=
  let f (i hi lo : Nat) : Nat := bitsN (wordAt bs i) hi lo
  { code := BitVec.ofNat 64 (f 0 55 0), limit := BitVec.ofNat 64 (f 1 55 0), entry := BitVec.ofNat 64 (f 2 55 0)
    args := f 3 55 0
    orgdie := f 4 5 0, orgrow := f 4 11 6, orgcol := f 4 17 12, ndie := f 4 23 18, nrow := f 4 30 24, ncol := f 4 37 31
    layers := f 4 40 38
    gmode := f 5 2 0, group := BitVec.ofNat 24 (f 5 31 8)
    shares := f 6 31 0, cap := f 6 63 32
    prio := f 7 1 0, asid := f 7 17 8, feat := BitVec.ofNat 16 (f 7 47 32)
    parkmask := BitVec.ofNat 32 (f 8 31 0), lmoff := f 8 35 32, lmsize := f 8 40 36
    save := f 9 55 0, image := f 10 55 0
    doneCoord := f 11 17 0, doneCtr := f 11 21 18, doneEn := f 11 22 22 = 1
    kbind := f 12 55 0 }

/-- Whether a box of coordinates names cores only (R16). -/
def boxOk (s : State) (die row col nd nr nc : Nat) : Bool :=
  die + nd ≤ 64 && row + nr ≤ 64 && col + nc ≤ 64 && (boxCores die row col nd nr nc).all fun c => coreOk s c

/-- The fields of R40 in their ranges and alignments (status 2). -/
def LaunchRec.ok (r : LaunchRec) : Bool :=
  r.gmode ≤ 4 && 1 ≤ r.layers && r.layers ≤ 4 && 1 ≤ r.lmsize && r.lmoff + r.lmsize ≤ 16
    && 1 ≤ r.ndie && r.ndie ≤ 40 && 1 ≤ r.nrow && r.nrow ≤ 64 && 1 ≤ r.ncol && r.ncol ≤ 64
    && (r.orgdie < 40 || 56 ≤ r.orgdie)
    && r.code.toNat % 16 = 0 && r.limit.toNat % 16 = 0 && r.entry.toNat % 16 = 0
    && r.code ≤ r.entry && r.entry < r.limit && r.save % 1024 = 0 && r.args % 64 = 0
    && popN (r.parkmask.toNat / 2) 31 ≤ 16

/-- How many groups a launch creates (R33). -/
def LaunchRec.newGroups (r : LaunchRec) : Nat :=
  let n := r.ndie * r.nrow * r.ncol
  match r.gmode with
  | 0 => n * r.layers
  | 2 => r.ndie
  | 3 => n
  | 4 => 1
  | _ => 0

def liveGroups (s : State) : Nat := (s.groups.filter fun e => e.2.live).length

/-- The argument block: eight dwords, or none when it cannot be read (R42). -/
def readArgs (s : State) (r : LaunchRec) : Option (List Word) :=
  if r.args = 0 then some (List.replicate 8 0)
  else match devRead s r.asid r.args 64 with
    | .ok (_, bs, none) => some ((below 8).map fun i => BitVec.ofNat 64 (wordAt bs i))
    | _ => none

/-- The refusal status of a launch, 0 when it is accepted, before its binding is tried (R41, R328). (Log 33.) -/
def launchStatus (s : State) (r : LaunchRec) (level : BitVec 2) (asid : Nat) : Nat :=
  let ranges := r.ok
  let bad1 := r.ndie ≠ 0 && r.nrow ≠ 0 && r.ncol ≠ 0 &&
    (!boxOk s r.orgdie r.orgrow r.orgcol r.ndie r.nrow r.ncol || r.cores.any fun c => (getCore s c).halted)
  if bad1 then 1
  else if !ranges then 2
  else if s.pool < r.shares * r.newGroups then 3
  else if 56 ≤ r.orgdie && (level = 0 || r.ndie ≠ 1 || r.nrow ≠ 1) then 4
  else if level = 0 && r.asid ≠ asid then 5
  else if r.gmode = 1 && !(match getGroup s r.group with | some g => g.asid = r.asid | none => false) then 6
  else if 128 ≤ r.feat.toNat then 8
  else if 65536 ≤ s.launches.length then 10
  else if 262143 < liveGroups s + r.newGroups then 11
  else if (readArgs s r).isNone then 12
  else if s.gw.bootstat.toNat / 2 ^ 61 = 2 then 1
  else 0

/-! ### Stage descriptors (R257 to R259) -/

structure StageDesc where
  entry : Word
  husk : Nat
  livemask : BitVec 32
  share : Nat
  slot : Nat
  run : Nat
  nblog : Nat
  retire : Nat
  group : GroupId
  orgdie : Nat
  orgrow : Nat
  orgcol : Nat
  ndie : Nat
  nrow : Nat
  ncol : Nat
  seeded : Bool
  image : List Word
  deriving DecidableEq, Repr

def StageDesc.ofBytes (bs : List Byte) : StageDesc :=
  let f (i hi lo : Nat) : Nat := bitsN (wordAt bs i) hi lo
  { entry := BitVec.ofNat 64 (f 0 55 0), husk := f 1 55 0, livemask := BitVec.ofNat 32 (f 2 31 0), share := f 2 37 32
    slot := f 2 39 38, run := f 2 42 40 + 1, nblog := f 2 47 43, retire := f 2 63 48
    group := BitVec.ofNat 24 (f 3 23 0), orgdie := f 3 37 32, orgrow := f 3 43 38, orgcol := f 3 49 44
    ndie := f 3 55 50, nrow := f 3 62 56, ncol := f 3 63 63 + 2 * f 4 5 0, seeded := f 4 6 6 = 1
    image := (upFrom 8 16).map fun i => BitVec.ofNat 64 (wordAt bs i) }

def StageDesc.cores (d : StageDesc) : List Nat := boxCores d.orgdie d.orgrow d.orgcol d.ndie d.nrow d.ncol

/-- The members in the order of their indexes; none where the box leaves the range of coordinates (R16, R257). -/
def StageDesc.sites (d : StageDesc) : List (Option Nat) :=
  (below (d.ndie * d.nrow * d.ncol)).map fun i =>
    let die := d.orgdie + i / (d.nrow * d.ncol)
    let row := d.orgrow + i / d.ncol % d.nrow
    let col := d.orgcol + i % d.ncol
    if die < 64 && row < 64 && col < 64 then some (packCoord die row col) else none

/-- A stage handle (R259). -/
def StageDesc.handle (d : StageDesc) : Word :=
  put d.slot 38 ||| put d.ncol 31 ||| put d.nrow 24 ||| put d.ndie 18 ||| put (packCoord d.orgdie d.orgrow d.orgcol) 0

/-- The fields in the ranges of R257, the entry in the binding launch's code. -/
def StageDesc.ok (d : StageDesc) (code limit : Word) : Bool :=
  1 ≤ d.share && d.share ≤ 32 && d.run ≤ 4 && d.nblog ≤ 16 && d.husk % 1024 = 0 && popN (d.livemask.toNat / 2) 31 ≤ 16
    && 1 ≤ d.ndie && d.ndie ≤ 40 && 1 ≤ d.nrow && d.nrow ≤ 64 && 1 ≤ d.ncol && d.ncol ≤ 64
    && (d.orgdie < 40 || (56 ≤ d.orgdie && d.ndie = 1 && d.nrow = 1))
    && d.entry.toNat % 16 = 0 && code ≤ d.entry && d.entry < limit

/-- Whether a task of another ASID is resident on a core or queued there (R261). -/
def heldByOther (s : State) (c asid : Nat) : Bool :=
  s.tasks.any fun e => e.2.asid ≠ asid && (match e.2.place with
    | .resident q _ => q = c
    | .queued q => q = c
    | _ => false)

/-- Why a member cannot be bound: 0 when it can (R261). -/
def memberStatus (s : State) (asid : Nat) (d : StageDesc) (c : Nat) : Nat :=
  let k := getCore s c
  if !coreOk s c || !k.feat.getLsbD 3 then 1
  else if heldByOther s c asid || (match k.owner with | some o => o ≠ asid && pinnedAt s c o | none => false) then 2
  else if (tget k.stages d.slot).isSome then 3
  else if 32 < (k.stages.foldl (fun n b => n + b.2.share) 0) + d.share then 4
  else 0

/-- The status of a binding: 0 when every member can be bound. -/
def bindStatus (s : State) (asid : Nat) (d : StageDesc) (code limit : Word) (g : GroupId) : Nat :=
  let gok := match getGroup s g with
    | some r => r.asid = asid
    | none => false
  if !d.ok code limit || !gok then 5
  else ((d.sites.map fun c => match c with
    | some c => memberStatus s asid d c
    | none => 1).find? fun n => n ≠ 0).getD 0

/-- Whether the matrix queues of members that change owner have drained (R236). -/
def bindReady (s : State) (asid : Nat) (d : StageDesc) : Bool :=
  d.cores.all fun c => !coreOk s c || heldByOther s c asid || mayTake s c asid ||
    (match (getCore s c).owner with | some o => pinnedAt s c o | none => false)

/-- A stage bound on every member (R258, R261). -/
def bindStage (s : State) (asid launch : Nat) (d : StageDesc) (g : GroupId) : State :=
  (d.cores.zip (below d.cores.length)).foldl (fun s e =>
    let s := takeOwner s e.1 asid
    let b : StageSt :=
      { asid, launch, handle := d.handle, index := e.2, entry := d.entry, husk := d.husk, livemask := d.livemask
        share := d.share, run := d.run, nblog := d.nblog, retire := d.retire, seeded := d.seeded, group := g
        image := d.image }
    modCore s e.1 fun k => { k with stages := tset k.stages d.slot b }) s

/-- A binding removed from every member (R263 to R265). -/
def unbindStage (s : State) (asid : Nat) (h : Word) : State :=
  let ms := membersOfStage s asid h
  let g := ms.findSome? fun m => (tget (getCore s m.1).stages m.2).map fun b => b.group
  let s := ms.foldl (fun s m => modCore s m.1 fun k => { k with stages := tdel k.stages m.2 }) s
  match g with
  | some g => groupCheck s g
  | none => s

/-! ### Firing (R42) -/

/-- The lowest launch number that no live launch holds (R31). -/
def freeLaunch (s : State) : Nat := s.launches.foldl (fun n e => if e.1 = n then n + 1 else n) 0

/-- The key that tells which group of its launch a task joins (R33). -/
def groupKey (r : LaunchRec) (core layer : Nat) : Nat :=
  match r.gmode with
  | 0 => core * r.layers + layer
  | 2 => core / (r.nrow * r.ncol)
  | 3 => core
  | _ => 0

/-- One task of a launch created and sent to its core. -/
def makeTask (s : State) (n : Nat) (l : LaunchSt) (groups : Tab GroupId) (core coord layer : Nat) :
    State × Tab GroupId :=
  let r := l.r
  let key := groupKey r core layer
  let (s, groups, g) := match r.gmode, tget groups key with
    | 1, _ => (s, groups, r.group)
    | _, some g => (s, groups, g)
    | _, none =>
      (let (s, late) := drawShares s r.shares
       match newGroup s r.asid r.shares late r.cap (dieKey coord) (.launch n) with
       | some (s, g) => (s, tset groups key g, g)
       | none => (s, groups, 0))
  let k : TaskSt :=
    { launch := n, asid := r.asid, tile := core * r.layers + layer, home := coord, layer, group := g, prio := r.prio
      feat := r.feat, level0 := l.level }
  let t := s.seq
  (enqueue { bump s with tasks := tset s.tasks t k } t .fresh true, groups)

/-- Every task of a launch created, in ascending tile index. -/
def makeTasks (s : State) (n : Nat) (l : LaunchSt) : State × Tab GroupId :=
  let r := l.r
  (r.cores.zip (below r.cores.length)).foldl (fun st e =>
    (below r.layers).foldl (fun st layer => makeTask st.1 n l st.2 e.2 e.1 layer) st) (s, [])

/-- The state of a core that receives a placement of a new launch: its cluster's read-only cache is invalidated (R169) and
its selection map is the identity (R232). -/
def meetLaunch (s : State) (c : Nat) : State :=
  let s := modCore s c fun k => { k with exch := { k.exch with map := 0xFAC688 } }
  if uncached c then s else modCluster s (clusterOf s c) fun u => { u with ro := [] }

/-- A launch fired, or the status that refuses it: a number, or a status from 1 up. A binding that the record names is
made before any task is placed (R262). -/
def fireLaunch (s : State) (r : LaunchRec) (level : BitVec 2) (asid : Nat) : Except Nat (State × Nat) :=
  let st := launchStatus s r level asid
  if st ≠ 0 then .error st
  else
    let n := freeLaunch s
    let argv := (readArgs s r).getD []
    let topo := ((r.cores.map dieKey).eraseDups).map fun d => (d, (getDie s d).topo)
    let l : LaunchSt := { r, level, argv, topo }
    let s1 := { s with launches := tset s.launches n l }
    let (s1, groups) := makeTasks s1 n l
    let s1 := r.cores.foldl meetLaunch s1
    if r.kbind = 0 then .ok (s1, n)
    else if r.kbind % 64 ≠ 0 then .error 0x807
    else match devRead s r.asid r.kbind 192 with
      | .ok (_, bs, none) =>
        let d := StageDesc.ofBytes bs
        let single := r.gmode = 1 || r.gmode = 4
        let g := if d.group ≠ 0 then d.group
          else if r.gmode = 1 then r.group
          else match groups with
            | (_, g) :: _ => g
            | [] => 0
        let st := if d.group = 0 && !single then 5 else bindStatus s1 r.asid d r.code r.limit g
        -- tasks of this very launch, queued on a member, do not hold it against the launch's own ASID
        if st ≠ 0 then .error (256 * st + 7) else .ok (bindStage s1 r.asid n d g, n)
      | _ => .error 0x807

/-- Whether a launch has to wait for the matrix queues of the members that it binds (R236, R262). -/
def launchWaits (s : State) (r : LaunchRec) : Bool :=
  r.kbind ≠ 0 && r.kbind % 64 = 0 && (match devRead s r.asid r.kbind 192 with
    | .ok (_, bs, none) => !bindReady s r.asid (StageDesc.ofBytes bs)
    | _ => false)

/-- A launch that a table entry fires: a refused one performs its done increment at once and reports nothing else, a status
of its binding (R262) like any other; one that passes every check, but whose binding has to wait, is tried again as router
cycles pass (R46, R236, R329). -/
def launchRecord (s : State) (r : LaunchRec) (level : BitVec 2) (asid : Nat) : State :=
  match fireLaunch s r level asid with
  | .error _ => if r.doneEn then sendDone s r.asid r.doneCoord r.doneCtr else s
  | .ok (u, _) => if launchWaits s r then { s with late := s.late ++ [⟨r, level, asid⟩] } else u

/-- A fired entry of kind 1: its record is read once, when it fires (R46, R329). -/
def launchFromEntry (s : State) (asid va : Nat) (level : BitVec 2) : State :=
  match devRead s asid va 128 with
  | .ok (s, bs, none) => launchRecord s (LaunchRec.ofBytes bs) level asid
  | _ => s

/-- The launches that wait tried again. -/
def lateLaunches (s : State) : State :=
  s.late.foldl (fun s l => launchRecord s l.r l.level l.asid) { s with late := [] }

/-! ### The done increment (R31, R43, R264, R286) -/

def tasksOfLaunch (s : State) (n : Nat) : List (Nat × TaskSt) := s.tasks.filter fun e => e.2.launch = n

/-- Whether every task has ended, every operation has been performed, and no stage of the launch is bound. -/
def launchDone (s : State) (n : Nat) : Bool :=
  (tasksOfLaunch s n).all (fun e => e.2.place.isEnded && (outstanding s e.1).isEmpty)
    && !(s.cores.any fun k => k.2.stages.any fun b => b.2.launch = n)

/-- The launch's GNEW groups settled: an empty one that nobody awaits is freed (R286). -/
def settleGroups (s : State) (n : Nat) : State :=
  s.groups.foldl (fun s e =>
    if e.2.live && e.2.origin = .gnew n && !e.2.settled then
      let g := gidOf e.1 e.2.gen
      groupCheck (modGroup s g fun r => { r with settled := true }) g
    else s) s

/-- The point at which the done increment has been performed, or would have been: GNEW groups settle and the launch number is
free (R31, R43, R286). -/
def releaseLaunch (s : State) (n : Nat) : State :=
  let s := settleGroups s n
  { s with
    launches := tdel s.launches n
    cores := s.cores.map fun e => (e.1, { e.2 with
      images := e.2.images.filter fun m => m ≠ n, badImage := e.2.badImage.filter fun m => m ≠ n }) }

/-- The end of a launch: its done increment is sent, if it has one (R43). -/
def finishLaunch (s : State) (n : Nat) : State :=
  match tget s.launches n with
  | none => s
  | some l =>
    if l.done || !launchDone s n then s
    else
      let s := { s with tasks := s.tasks.filter fun e => e.2.launch ≠ n }
      if l.r.doneEn then
        sendMsg { s with launches := tset s.launches n { l with done := true } }
          { coord := l.r.doneCoord, ctr := l.r.doneCtr, add := 1, asid := some l.r.asid, launch := some n }
      else releaseLaunch s n

end Sys2Proof.Machine
end

