-- ==== Sys2Proof/Machine/Ops.lean ====
section
/-!
DEFINITION. Taking a trap, an upcall and a stage-two suspension; returning from them; and what a slot does once its direct
accesses are performed (R91, R101 to R104, R282, R317 to R320, R330 to R336, R340, R344).
-/
set_option Elab.async false
namespace Sys2Proof.Machine

/-- What an instruction does at issue: its effect, a trap, or a memory access that failed. -/
inductive Eff where
  | ok (s : State)
  | trap (t : Trap)
  | fail (f : Fail)
  deriving DecidableEq, Repr

/-! ### Frames (R317 to R319) -/

/-- The cause codes of R315. -/
def Cause.code : Cause → Nat
  | .illegal => 1
  | .featureAbsent => 2
  | .hintMiss => 3
  | .brk => 4
  | .trap => 5
  | .privileged => 6
  | .noHandler => 7
  | .fetchBounds => 8
  | .noContext => 9
  | .frame => 10
  | .align => 0x10
  | .address => 0x11
  | .window => 0x12
  | .page => 0x13
  | .permission => 0x14
  | .aliased => 0x15
  | .poison => 0x16

/-- The cause word (R317). -/
def Trap.causeWord (t : Trap) : Word := put t.detail 48 ||| put t.code 32 ||| put t.cause.code 0

/-- The pc that the trap saves (R100, R315). -/
def Trap.pcOf (t : Trap) (sl : SlotSt) : Word := if t.nextPc then sl.pc + 16 else sl.pc

/-- The missing feature's bit joins the required features (R318). -/
def Trap.needs (t : Trap) (k : TaskSt) : Nat :=
  if t.cause = .featureAbsent then (k.feat ||| BitVec.ofNat 16 (2 ^ t.detail)).toNat else k.feat.toNat

/-- The first 32 dwords of a frame (R317, R318). -/
def frameWords (s : State) (c : Nat) (sl : SlotSt) (k : TaskSt) (t : Trap) : List Word :=
  [ BitVec.ofNat 64 ((t.pcOf sl).toNat % 2 ^ 56), t.causeWord, t.addr, sl.tstat,
    t.word.setWidth 64, (t.word >>> 64).setWidth 64, strmsnap s sl.task, put (t.needs k) 48 ] ++
  handleWords s sl.task ++ ((upFrom 24 8).map fun n => sl.x n) ++
  [ sharesWord s k.group, k.group.setWidth 64, opnowWord s c, sl.hintctl, 0, 0, 0, 0 ]

/-- Words of a location poisoned, in memory and in the near cache (R349, R369). -/
def locPoison (s : State) (c : Nat) (l : Loc) (n : Nat) : State :=
  match l with
  | .loc k off => lmPoison s k off n
  | .glob asid g =>
    let s := memPoison s g.pa n
    if uncached c then s
    else match nearFind s (clusterOf s c) asid (g.va / 128) with
      | some l =>
        let o := g.va % 128
        putNear s (clusterOf s c) { l with poison := l.poison ||| (wordRange o (o + n) &&& l.valid) }
      | none => s

/-- The places of an access of a core to bytes that lie on any number of lines: in its local memory or translated. refuses:
whether ALIAS is among the causes of the access. -/
def locate (s : State) (c asid va n : Nat) (k : Acc4) (refuses : Bool := true) : Except Fail (State × List (Loc × Nat)) :=
  if inWin va then .ok (s, [(.loc c (va - winBase), n)])
  else match reach s asid va n k refuses with
    | .error e => .error e
    | .ok (s, gs) => .ok (s, gs.map fun g => (.glob asid g, g.len))

def writeLocs (s : State) (c : Nat) : List (Loc × Nat) → List Byte → State
  | [], _ => s
  | (l, n) :: ls, bs => writeLocs (coreWrite s c l (bs.take n) (coreMask s c)) c ls (bs.drop n)

/-- Bytes read by a core over places under a way mask, and whether each place held poison. -/
def readLocs (s : State) (c : Nat) (ro : Bool) (mask : Option Word) : List (Loc × Nat) → State × List Byte × List Bool
  | [] => (s, [], [])
  | (l, n) :: ls =>
    let (s, bs, bad) := coreRead s c ro l n mask
    let (s, bt, bads) := readLocs s c ro mask ls
    (s, bs ++ bt, bad :: bads)

/-- A core's write of bytes at a virtual address: none when the access fails. -/
def storeAt (s : State) (c asid va : Nat) (bs : List Byte) : Option State :=
  match locate s c asid va bs.length .write with
  | .error _ => none
  | .ok (s, ls) => some (writeLocs s c ls bs)

/-- Poisoned registers of x24 to x31 poison their words of the frame (R369). -/
def framePoison (s : State) (c asid va : Nat) (fw : Bool) (sl : SlotSt) : State :=
  (upFrom 24 8).foldl (fun s n =>
    if (sl.poisoned [.x (sl.px n)]).isNone then s
    else
      let a := va + 128 + 8 * (n - 24)
      if fw then memPoison s a 8
      else match locate s c asid a 8 .write with
        | .ok (s, ls) => ls.foldl (fun s l => locPoison s c l.1 l.2) s
        | .error _ => s) s

/-- The frame base of a level (R97, R101). -/
def frameAt (k : CoreSt) (level : BitVec 2) (i : Nat) : Nat :=
  (if level = 1 then fld k.tframe 55 11 else fld k.fwframe 55 11) * 2048 + 512 * i

/-- The slot enters a handler (R101 steps 3 and 4). The handler keeps the bank that the trapped code uses. -/
def intoHandler (s : State) (c i : Nat) (level : BitVec 2) (vec : Word) : State :=
  modSlot s c i fun sl =>
    { sl.fresh with level, inh := false, pc := put (fld vec 55 4) 4, hold := .none }

/-- A trap taken at firmware level: its frame lies in memory that is never translated (R319). -/
def trapFirmware (s : State) (c i : Nat) (sl : SlotSt) (k : TaskSt) (t : Trap) : State :=
  let core := getCore s c
  let a := frameAt core 2 i
  let s' := slWrite s none a (bytesOfWords (frameWords s c sl k t))
  intoHandler (framePoison s' c 0 a true sl) c i 2 core.fwvec

/-- A trap taken by the task in a slot, its direct accesses performed: the one entry of R101, R317 to R319. (Log 32.) -/
def enterTrap (s : State) (c i : Nat) (t : Trap) : State :=
  match slotAt s c i with
  | none => s
  | some sl =>
    match getTask s sl.task with
    | none => s
    | some k =>
      let core := getCore s c
      if sl.level ≠ 0 || fld core.tvec 55 4 = 0 then trapFirmware s c i sl k t
      else
        let a := frameAt core 1 i
        match storeAt s c k.asid a (bytesOfWords (frameWords s c sl k t)) with
        | some s => intoHandler (framePoison s c k.asid a false sl) c i 1 core.tvec
        | none => trapFirmware s c i sl k { t with cause := .frame, detail := t.cause.code, addr := BitVec.ofNat 64 a, code := 0 }

/-- An upcall of the task in a slot (R336). -/
def enterUpcall (s : State) (c i : Nat) (t : Trap) (index : Nat) : State :=
  match slotAt s c i with
  | none => s
  | some sl =>
    match getTask s sl.task with
    | none => s
    | some k =>
      let sl := { sl.fresh with uepc := put (fld sl.pc 55 4) 4, inh := true, upcall := true, bank := true, hold := .none }
      let sl := (((sl.setX 24 (BitVec.ofNat 64 index)).setX 25 t.addr).setX 26 (BitVec.ofNat 64 t.detail)).setX 27
        (BitVec.ofNat 64 k.asid)
      setSlot s c i { sl with pc := put (fld (getCore s c).uvec 55 4) 4 }

/-! ### User-level interrupts (R103, R212) -/

/-- Whether a pending user-level interrupt can be taken by a slot now. -/
def userIntReady (s : State) (sl : SlotSt) : Bool :=
  !sl.inh && sl.hold = .none && (match getTask s sl.task with
    | some k => sl.level = k.level0 && !k.ints.isEmpty
    | none => false)

/-- The oldest pending user-level interrupt taken (R212). -/
def takeUserInt (s : State) (c i : Nat) : State :=
  match slotAt s c i with
  | none => s
  | some sl =>
    match getTask s sl.task with
    | none => s
    | some k =>
      match k.ints with
      | [] => s
      | u :: us =>
        let s := setTask s sl.task { k with ints := us }
        setSlot s c i { sl.fresh with
          uepc := put (fld sl.pc 55 4) 4, xid := u.xid, inh := true, upcall := false, bank := true, pc := u.handler
          handlers := [(u.handler, u.xid)]
          undo := sl.undo.map fun r => { r with taken := r.taken ++ [(u.handler, u.xid)] } }

/-! ### The frame read back (R102, R320) -/

structure Frame where
  at_  : Nat                         -- its address
  pc   : Word
  tstat : Word
  cause : Nat
  ret  : Word
  xs   : List Word
  bad  : List Bool
  deriving DecidableEq, Repr

/-- The lowest poisoned word of the status part of a frame (R334). -/
def frameBad (s : State) (c asid a : Nat) : Nat :=
  let bad (j : Nat) : Bool := match locate s c asid (a + 4 * j) 4 .read with
    | .ok (s, l) => (readLocs s c false (coreMask s c) l).2.2.any id
    | .error _ => false
  a + 4 * ((below 32).find? bad).getD 0

/-- The frame of a slot at a level: 24 dwords, its x fields apart so that their poison goes to the registers. -/
def readFrame (s : State) (c i : Nat) (asid : Nat) (level : BitVec 2) : Except Fail (State × Frame) :=
  let core := getCore s c
  let a := frameAt core level i
  let make (bs : List Byte) (bad : List Bool) : Frame :=
    let w (j : Nat) : Word := BitVec.ofNat 64 (wordAt bs j)
    ⟨a, w 0, w 3, (w 1).toNat % 65536, w 7, (upFrom 16 8).map w, bad⟩
  if level ≠ 1 then
    .ok (s, make (slRead s none a 192) ((below 8).map fun j => memBad s (a + 128 + 8 * j) 8))
  else match locate s c asid a 128 .read with
    | .error e => .error e
    | .ok (s, ls) =>
      let (s, bs, bads) := readLocs s c false (coreMask s c) ls
      if bads.any id then .error (.trap { cause := .poison, addr := BitVec.ofNat 64 (frameBad s c asid a) })
      else match locate s c asid (a + 128) 64 .read with
        | .error e => .error e
        | .ok (s, ls) =>
          let (s, bt, _) := readLocs s c false (coreMask s c) ls
          let bad (j : Nat) : Bool := match locate s c asid (a + 128 + 8 * j) 8 .read with
            | .ok (s, l) => (readLocs s c false (coreMask s c) l).2.2.any id
            | .error _ => false
          .ok (s, make (bs ++ bt) ((below 8).map bad))

/-- x24 to x31 restored from a frame: poisoned words poison the registers again (R369). -/
def restoreXs (sl : SlotSt) (f : Frame) : SlotSt :=
  (below 8).foldl (fun (sl : SlotSt) j =>
    let sl := sl.setX (24 + j) (f.xs.getD j 0)
    if f.bad.getD j false then sl.setPoison (.x (sl.px (24 + j))) (f.at_ + 128 + 8 * j) else sl) sl

def Frame.level (f : Frame) : Nat := fld f.tstat 3 2
def Frame.inh (f : Frame) : Bool := fld f.tstat 4 4 = 1
def Frame.disp (f : Frame) : Nat := fld f.ret 1 0

/-- The increment that a disposition word asks for (R320). -/
def Frame.signal (f : Frame) : Option (Nat × Nat) :=
  if fld f.ret 25 25 = 1 then some (fld f.ret 20 3, fld f.ret 24 21) else none

/-- TRAPRET with disp 0 (R102). The shadow bank goes on to a user-level handler, and to a handler that was entered from one
(R63; log 32). -/
def frameResume (s : State) (c i : Nat) (f : Frame) : State :=
  modSlot s c i fun sl =>
    let level0 := match getTask s sl.task with
      | some k => k.level0
      | none => 0
    let lv := BitVec.ofNat 2 (Nat.min f.level sl.level.toNat)
    let bank := f.inh || (sl.bank && level0 < lv)
    let sl := { sl.fresh with level := lv, inh := f.inh, bank, pc := put (fld f.pc 55 4) 4, hold := .none }
    restoreXs sl f

/-- The slot made the trapped code's again, a user-level handler cut, before it is saved (R320, R332). -/
def frameUnwind (s : State) (c i : Nat) (f : Frame) (pc : Word) : State :=
  match slotAt s c i with
  | none => s
  | some sl =>
    if f.inh then cutHandler (setSlot s c i { sl with inh := true, bank := true }) c i
    else setSlot s c i { restoreXs { sl with bank := false } f with pc }

/-! ### Memory failures (R335 to R341, R344) -/

/-- A slot that waits for its direct accesses before it does something, and does it at once when none is outstanding: the
hold. -/
def setHold (s : State) (c i : Nat) (h : Hold) : State := modSlot s c i fun sl => { sl with hold := h }

/-- A trap of the instruction at a slot's pc: taken when its direct accesses have been performed (R101 step 1). -/
def raiseTrap (s : State) (c i : Nat) (t : Trap) : State :=
  match slotAt s c i with
  | none => s
  | some sl => if sl.ops.isEmpty then enterTrap s c i t else setSlot s c i { sl with hold := .trapping t }

/-- The kinds bits of a fault with a detail's kind (R338). -/
def kindsOfDetail (d : Nat) : Nat :=
  match d % 4 with
  | 0 => 1
  | 1 => 4
  | 2 => 2
  | _ => 3

/-- The bit of a PAGE's detail that says that the runtime declared it unresolvable: a notice left its mark (R334, R340). -/
def SlotSt.unresolved (sl : SlotSt) : Nat := if sl.mark.isSome then 8 else 0

/-- A PAGE of the instruction at a slot's pc, its earlier direct accesses performed: posted, the task attached, then the
upcall or the trap (R335, R336, R339 to R341). -/
def takePage (s : State) (c i : Nat) (va : Nat) (t : Trap) : State :=
  match slotAt s c i with
  | none => s
  | some sl =>
    match getTask s sl.task with
    | none => s
    | some k =>
      let p := faultPost s k.asid va (kindsOfDetail t.detail)
      match p.2 with
      | none => enterTrap p.1 c i (t.orDetail (sl.unresolved ||| 4))
      | some r =>
        let s := attachTask p.1 k.asid ⟨r, sl.task, c, sl.pc, t⟩
        if sl.mark.isNone && sl.level = k.level0 && sl.level = 0 && !sl.inh && fld (getCore s c).uvec 55 4 ≠ 0 then
          enterUpcall s c i t r
        else enterTrap s c i (t.orDetail sl.unresolved)

/-- A PAGE of a direct operation or of a fetch: it waits for the earlier direct accesses (R101, R336). -/
def raisePage (s : State) (c i : Nat) (va : Nat) (t : Trap) : State :=
  match slotAt s c i with
  | none => s
  | some sl => if sl.ops.isEmpty then takePage s c i va t else setSlot s c i { sl with hold := .paging t va }

/-- The PAGE that a notice, or a failed answer, left for the instruction at a slot's pc: posted like every PAGE, but for that
of a stage-two miss (R335, R340, R344). -/
def raiseMarked (s : State) (c i : Nat) (t : Trap) : State :=
  if bitN t.detail 7 then raiseTrap s c i t else raisePage s c i t.addr.toNat t

/-- The frame of the trap that took a task from its placement level: the one of the handler's own level, where the trap
was taken there, else the one of the level above placement (R319, R332). -/
def placementFrame (s : State) (c i : Nat) (sl : SlotSt) (k : TaskSt) : Except Fail (State × Frame) :=
  let above := readFrame s c i k.asid (k.level0 + 1)
  if sl.level = k.level0 + 1 then above
  else match readFrame s c i k.asid sl.level with
    | .ok (u, f) => if f.level = k.level0.toNat then .ok (u, f) else above
    | .error _ => above

/-- The slot brought back to its placement level, every handler cut or abandoned (R331, R332). A frame that cannot be read
leaves no state to save: the task ends (log 27). -/
def toPlacement (s : State) (c i : Nat) : State :=
  match slotAt s c i with
  | none => s
  | some sl =>
    match getTask s sl.task with
    | none => s
    | some k =>
      if sl.level = k.level0 then cutHandler s c i
      else match placementFrame s c i sl k with
        | .error _ => errPost (endTask s sl.task 3) 0x10 c k.asid (frameAt (getCore s c) (k.level0 + 1) i) k.tile
        | .ok (s, f) =>
          let pc := put (fld f.pc 55 4) 4
          let s := frameUnwind s c i f (if f.cause = Cause.trap.code then pc - 16 else pc)
          modSlot s c i fun q => { q with level := k.level0 }

/-- A stage-two miss suspends the task: saved with origin 3, and its page requested (R343, R344). DESIGN CHOICE: a miss in a
handler finds no place in a record for the handler's state, so the handler is cut or abandoned as R331 and R332 do it; the
record stands at the interrupted code, and a failed answer leaves its PAGE for the handler's instruction (log 27). -/
def suspendTask (s : State) (c i gpa kinds : Nat) (t : Trap) : State :=
  match slotAt s c i with
  | none => s
  | some sl =>
    match getTask s sl.task with
    | none => s
    | some k =>
      let missAt := if sl.level = k.level0 && !sl.inh then none else some sl.pc
      let s := toPlacement (setHold s c i .none) c i
      match slotAt s c i with
      | none => s
      | some q =>
        let s := modTask s sl.task fun k => { k with miss := some t, missAt }
        let s := saveWhole s c i 3 q.pc none false none
        let vf := vfOf s k.asid
        match pagePost s vf k.asid gpa kinds with
        | (s, some tag) => let q := getPrq s vf; setPrq s vf { q with tasks := q.tasks ++ [(tag, sl.task)] }
        | (s, none) => retryLater s vf k.asid gpa kinds (.task sl.task)

/-- What a failed access of the instruction at a slot's pc leads to. -/
def raiseFail (s : State) (c i : Nat) (f : Fail) (word : BitVec 128) : State :=
  match f with
  | .trap t => raiseTrap s c i { t with word }
  | .page va t => raisePage s c i va { t with word }
  | .stage2 _ gpa t =>
    match slotAt s c i with
    | none => s
    | some sl =>
      let t : Trap := { t with word }
      if sl.mark.isSome then raiseTrap s c i (t.orDetail 8)
      else if sl.ops.isEmpty then suspendTask s c i gpa (kindsOfDetail t.detail) t
      else setSlot s c i { sl with hold := .suspend gpa (kindsOfDetail t.detail) t }

/-! ### Operations that trap when they are performed (R171, R330) -/

/-- The slot as it stood before it issued an operation: what was issued since has had no effect. -/
def Undo.restore (u : Undo) (sl : SlotSt) : SlotSt :=
  { sl.fresh with
    pc := u.pc, xs := u.xs, vs := u.vs, ps := u.ps, poison := u.poison, fpstat := u.fpstat, misses := u.misses
    lastkind := u.lastkind, scopemiss := u.scopemiss, xlast := u.xlast, xid := u.xid, uepc := u.uepc, inh := u.inh
    upcall := u.upcall, bank := u.bank, handlers := u.handlers, frozen := none, fmask := none
    flow := u.flow, turned := u.turned
    ops := sl.ops.filter fun o => o.id < u.id
    undo := sl.undo.filter fun v => v.id < u.id
    inflight := sl.inflight.filter fun e => e.id < u.id
    hold := match sl.hold with
      | .preempt _ => .preempt none
      | .abandon _ => .abandon none
      | _ => .none }

/-- The failure of an operation found when it is performed, where the slot can still go back to it: a trap of its
instruction, unless a pre-emption or a freeze drains the slot or is about to, which then saves the task with that instruction's
pc (R171, R330, R375).
None: it cannot go back, or the operation is detached. -/
def failPerformed (s : State) (t id : Nat) (f : Fail) : Option State :=
  match residence s t with
  | none => none
  | some (c, i) =>
    match slotAt s c i with
    | none => none
    | some sl =>
      match sl.undo.find? fun u => u.id = id with
      | none => none
      | some u =>
        let sl := u.restore sl
        let s := modTask (setSlot s c i sl) t fun k => { k with ints := (u.taken.map fun e => ⟨e.1, e.2⟩) ++ k.ints }
        let drains := (getCore s c).freezing || (match getTask s t with
          | some k => sl.preReq.isSome && sl.level = k.level0 && !sl.inh
          | none => false)
        some (if sl.hold = .none && !drains then raiseFail s c i f u.word else s)

/-! ### What waits for a slot's direct accesses -/

/-- TRAPRET, once every earlier access of the slot is performed (R102, R320). DESIGN CHOICE: a frame that cannot be read
(unmapped, not permitted or poisoned) is a failed access of the TRAPRET itself, which raises PAGE, PERMISSION or POISON; R102
and R320 give it no outcome (log 27). -/
def returnFromTrap (s : State) (c i : Nat) (word : BitVec 128) : State :=
  match slotAt s c i with
  | none => s
  | some sl =>
    match getTask s sl.task with
    | none => s
    | some k =>
      match readFrame s c i k.asid sl.level with
      | .error e => raiseFail (setSlot s c i { sl with pc := sl.pc - 16, hold := .none }) c i e word
      | .ok (s, f) =>
        if f.disp = 0 then frameResume s c i f
        else
          let s := frameUnwind (setHold s c i .none) c i f (put (fld f.pc 55 4) 4)
          if f.disp = 1 then
            let pc := match slotAt s c i with
              | some q => q.pc
              | none => 0
            saveWhole s c i 3 pc (some (BitVec.ofNat 16 (fld f.ret 63 48))) false f.signal
          else
            let s := endTask s sl.task 3
            match f.signal with
            | some (coord, ctr) => sendInc s k.asid coord ctr
            | none => s

/-- The registers of a coroutine kept in its context, poison with them, and its slot freed (R273, R282, R369). -/
def yieldCtx (s : State) (c i : Nat) (k : TaskSt) (q : Coro) : State :=
  match slotAt s c i, tget (getCore s q.core).pod q.ctx, tget (getCore s q.core).stages q.stage with
  | some sl, some p, some b =>
    if p.retire then endTask s sl.task 3
    else
      let s := match q.cmd with
        | some id => cmdFinish s id 3
        | none => s
      let regs := (maskRegs b.livemask.toNat).map fun n => sl.rdP n
      let live (r : Reg) : Bool := (maskRegs b.livemask.toNat).any fun n => r = .x n
      let p := { p with state := .idle, regs, pc := sl.pc, scopemiss := sl.scopemiss, idle := s.now
                        poison := sl.poison.filter fun e => live e.1 }
      let s := modCore (delSlot s c i) q.core fun m => { m with
        pod := tset m.pod q.ctx p
        stages := tmod m.stages q.stage fun b => { b with looked := b.looked.filter fun w => w ≠ p.key } }
      let s := setTask s sl.task { k with
        place := .idle, group := b.group, coro := some { q with cmd := none }
        flow := sl.flow.filter fun e => live e.1, turned := sl.turned }
      let s := becameWaiting s k.group
      if k.group = b.group then s else groupCheck s k.group
  | _, _, _ => s

/-- KYIELD and KEND, once the task's direct accesses are performed (R282). -/
def yieldTask (s : State) (c i : Nat) (kend : Bool) : State :=
  match slotAt s c i with
  | none => s
  | some sl =>
    match getTask s sl.task with
    | none => s
    | some k =>
      match k.coro with
      | none => s
      | some q => if kend then endTask s sl.task 3 else yieldCtx s c i k q

/-- HALT takes its core out of service once the pre-emptions of the other residents are complete (R104): the task ends, and
what is queued passes to the firmware, which queues it elsewhere. -/
def haltCore (s : State) (c i : Nat) : State :=
  match slotAt s c i with
  | none => s
  | some sl =>
    if (getCore s c).slots.any fun e => e.1 ≠ i then s
    else
      let s := endTask s sl.task 3
      let qs := (getCore s c).queue
      let s := modCore s c fun k => { k with halted := true, queue := [] }
      qs.foldl (fun s q => enqueue s q.task q.start q.acq) s

/-- WTSET.s: the record written, then the entry armed (R223); an entry armed after the table has fired in this router cycle is
armed for the next one (R45). -/
def saveForEntry (s : State) (c i e : Nat) (at_ : Word) : State :=
  match slotAt s c i with
  | none => s
  | some sl =>
    match getTask s sl.task with
    | none => s
    | some k =>
      match savePark (setHold s c i .none) c i sl.pc ⟨k.asid, at_.toNat % 2 ^ 56⟩ with
      | .failed s => saveLost s c sl.task k (at_.toNat % 2 ^ 56)
      | .waits s => setHold s c i (.wtSave e at_)
      | .done s =>
        let s := modCore s c fun m => { m with
          wt := tmod m.wt e fun w => { w with
            valid := true
            ready := if w.thresh ≤ (m.ctrs[w.ctr]?).getD 0 then some (s.now + boolN (tableFired s c)) else none } }
        becameWaiting s k.group

/-- A task whose wait is registered is saved as PARK saves it, and a wake that came meanwhile is served (R299, R312,
R354). -/
def finishPark (s : State) (c i : Nat) : State :=
  match slotAt s c i with
  | none => s
  | some sl =>
    match getTask s sl.task with
    | none => s
    | some k =>
      let r := saveSlot s k
      match savePark (setHold s c i .none) c i sl.pc r with
      | .failed s =>
        let s := match k.wait with
          | some w => unwait s w
          | none => s
        saveLost s c sl.task k r.va
      | .waits s => setHold s c i (.saving 0 none false none)
      | .done s =>
        let s := becameWaiting s k.group
        if k.wait.isNone && k.wake.isSome then enqueue s sl.task (.record r) false else s

/-- A sleep ended, the slot's own or one that a pre-emption broke off: the counter's value goes to the register (R105). -/
def wakeSleep (s : State) (c i : Nat) : State :=
  match slotAt s c i with
  | none => s
  | some sl =>
    let ends (ctr dst : Nat) : State :=
      setSlot s c i { sl.setP dst (zext64 (((getCore s c).ctrs[ctr]?).getD 0)) with hold := .none }
    match sl.hold with
    | .sleep ctr _ _ _ dst => ends ctr dst
    | .preempt (some (ctr, dst)) => ends ctr dst
    | .abandon (some (ctr, dst)) => ends ctr dst
    | _ => s

/-- A KSEND that holds its slot undone: it counts in no stream and its handle is retired (R268). -/
def undoKsend (s : State) (c i : Nat) : State :=
  match slotAt s c i with
  | none => s
  | some sl => match sl.hold with
    | .ksendFull id => setSlot { s with cmds := tdel s.cmds id } c i { sl with hold := .none, pc := sl.pc - 16 }
    | _ => s

/-- A pre-emption whose slot has drained: a SLEEP's register takes the counter's value at the save (R52, R105). A user-level
handler that an operation of it brought back on the way is cut (R331). -/
def finishPreempt (s : State) (c i : Nat) : State :=
  let s := cutHandler (setHold (wakeSleep s c i) c i .none) c i
  match slotAt s c i with
  | none => s
  | some sl => saveWhole s c i 1 sl.pc none true none

/-- A handler that has not returned in time, its accesses performed: its SLEEP's register takes the counter's value, it is
abandoned, and the task saved (R105, R332). -/
def finishAbandon (s : State) (c i : Nat) : State := finishPreempt (toPlacement (wakeSleep s c i) c i) c i

/-- What a slot's hold leads to once its direct accesses are performed; a pre-emption waits for the answers to KSENDTs too
(R53). -/
def settleHold (s : State) (c i : Nat) : State :=
  match slotAt s c i with
  | none => s
  | some sl =>
    if !sl.ops.isEmpty || sl.saveWait.isSome then s
    else match sl.hold with
      | .trapping t => enterTrap s c i t
      | .paging t va => takePage s c i va t
      | .suspend g k t => suspendTask s c i g k t
      | .ending => endTask s sl.task 3
      | .halting => haltCore s c i
      | .yielding e => yieldTask s c i e
      | .returning w => returnFromTrap s c i w
      | .wtSave e r => saveForEntry s c i e r
      | .preempt _ => if awaitsAnswer s sl.task then s else finishPreempt s c i
      | .abandon _ => if awaitsAnswer s sl.task then s else finishAbandon s c i
      | .saving o f w g => if o = 0 then finishPark s c i else saveWhole (setHold s c i .none) c i o sl.pc f w g
      | .none => s
      | .op _ => s
      | .sleep _ _ _ _ _ => s
      | .ksend _ => s
      | .ksendFull _ => s

/-- A hold set, and met at once when no direct access is outstanding. -/
def holdThen (s : State) (c i : Nat) (h : Hold) : State := settleHold (setHold s c i h) c i

end Sys2Proof.Machine
end

