-- ==== Sys2Proof/Machine/Operands.lean ====
section
/-!
DEFINITION. Operand forms: what every instruction reads and writes, its latency, its feature bits and the kind of its
guard (R68, R69, R75, R78, R96, R124, R148); effective addresses.
-/
set_option Elab.async false
namespace Sys2Proof

/-- Whether a type of the matrix unit has 8 bits (R245). -/
def MTy.is8 : MTy → Bool
  | .i8 => true
  | .n8 => true
  | .q8 => true
  | .f16 => false
  | .bf16 => false
  | .e8m12 => false

/-- Bytes of an element of a size (R59). -/
def Size.bytes : Size → Nat
  | .b => 1
  | .h => 2
  | .w => 4
  | .d => 8
  | .v => 32

end Sys2Proof

namespace Sys2Proof.Machine

/-- The operands of an instruction. Registers are named as the word names them; the bank of x24 to x31 is chosen later. -/
structure Profile where
  a     : Option Reg := none      -- source positions A, B and C
  b     : Option Reg := none
  c     : Option Reg := none
  more  : List Reg := []          -- sources outside the three positions
  w     : List Reg := []          -- destinations
  lat   : Option Nat := some 1    -- R68; none: variable
  feats : List Nat := []          -- feature bits, ascending
  vec   : Bool := false           -- the guard acts lane by lane (R124)
  red   : Bool := false           -- it writes its destination whatever the guard (R124, R133)
  late  : Bool := false           -- its destinations are written when its operation, command or entry completes
  mem   : Bool := false           -- its operation may still trap when it is performed (R171)
  fx    : Bool := false           -- at issue it changes more than its own slot, which nothing takes back (R171)
  deriving DecidableEq, Repr

/-- The scheduling fields of an instruction; an event and a word that is no instruction have none. -/
def hdrOf : Instr → Option Hdr
  | .illegal _ => none
  | .nop h => some h
  | .brk h _ => some h
  | .trap h _ => some h
  | .trapret h => some h
  | .trapretMove h => some h
  | .trapretEnd h => some h
  | .upret h => some h
  | .crrd h _ _ => some h
  | .crwr h _ _ => some h
  | .crset h _ _ _ => some h
  | .crclr h _ _ _ => some h
  | .ident h _ => some h
  | .feat h _ => some h
  | .halt h => some h
  | .sleep h _ _ _ _ => some h
  | .br h _ _ _ _ => some h
  | .bri h _ _ => some h
  | .call h _ => some h
  | .calli h _ _ => some h
  | .ret h _ => some h
  | .loop h _ _ => some h
  | .endTask h => some h
  | .yieldSlot h => some h
  | .ipf h _ _ => some h
  | .add h _ _ _ _ => some h
  | .sub h _ _ _ _ => some h
  | .addi h _ _ _ _ => some h
  | .mul h _ _ _ _ => some h
  | .mulh h _ _ _ _ => some h
  | .mulhn h _ _ _ _ => some h
  | .mad h _ _ _ _ _ => some h
  | .div h _ _ _ _ => some h
  | .divn h _ _ _ _ => some h
  | .rem h _ _ _ _ => some h
  | .remn h _ _ _ _ => some h
  | .and h _ _ _ => some h
  | .or h _ _ _ => some h
  | .xor h _ _ _ => some h
  | .andn h _ _ _ => some h
  | .orn h _ _ _ => some h
  | .shl h _ _ _ _ => some h
  | .shr h _ _ _ _ => some h
  | .sar h _ _ _ _ => some h
  | .rol h _ _ _ _ => some h
  | .shli h _ _ _ _ => some h
  | .shri h _ _ _ _ => some h
  | .sari h _ _ _ _ => some h
  | .min h _ _ _ => some h
  | .max h _ _ _ => some h
  | .minn h _ _ _ => some h
  | .maxn h _ _ _ => some h
  | .clz h _ _ => some h
  | .ctz h _ _ => some h
  | .popc h _ _ => some h
  | .brev h _ _ => some h
  | .bfx h _ _ _ _ => some h
  | .bfxz h _ _ _ _ => some h
  | .bfi h _ _ _ _ _ => some h
  | .lea h _ _ _ _ _ _ => some h
  | .li h _ _ => some h
  | .lih h _ _ _ => some h
  | .mov h _ _ => some h
  | .sel h _ _ _ _ => some h
  | .cmp h _ _ _ _ _ => some h
  | .cmpi h _ _ _ _ _ => some h
  | .pand h _ _ _ => some h
  | .por h _ _ _ => some h
  | .pxor h _ _ _ => some h
  | .pnot h _ _ => some h
  | .pset h _ _ => some h
  | .psetX h _ _ => some h
  | .pget h _ _ => some h
  | .fadd h _ _ _ _ _ => some h
  | .fsub h _ _ _ _ _ => some h
  | .fmul h _ _ _ _ _ => some h
  | .fma h _ _ _ _ _ _ => some h
  | .fms h _ _ _ _ _ _ => some h
  | .fnma h _ _ _ _ _ _ => some h
  | .fmin h _ _ _ _ => some h
  | .fmax h _ _ _ _ => some h
  | .fabs h _ _ _ => some h
  | .fneg h _ _ _ => some h
  | .fdiv h _ _ _ _ _ => some h
  | .fsqrt h _ _ _ _ => some h
  | .frcp h _ _ _ _ => some h
  | .frsq h _ _ _ _ => some h
  | .fexp2 h _ _ _ _ => some h
  | .flog2 h _ _ _ _ => some h
  | .fcmp h _ _ _ _ _ _ => some h
  | .fclass h _ _ _ => some h
  | .fscale h _ _ _ _ _ => some h
  | .fred h _ _ _ _ => some h
  | .fredmax h _ _ _ => some h
  | .fredmin h _ _ _ => some h
  | .fdot h _ _ _ _ _ => some h
  | .vadd h _ _ _ _ _ => some h
  | .vsub h _ _ _ _ _ => some h
  | .vmul h _ _ _ _ _ => some h
  | .vmad h _ _ _ _ _ _ => some h
  | .vand h _ _ _ _ => some h
  | .vor h _ _ _ _ => some h
  | .vxor h _ _ _ _ => some h
  | .vshl h _ _ _ _ _ => some h
  | .vshr h _ _ _ _ _ => some h
  | .vsar h _ _ _ _ _ => some h
  | .vmin h _ _ _ _ => some h
  | .vmax h _ _ _ _ => some h
  | .vcmp h _ _ _ _ _ _ => some h
  | .vred h _ _ _ => some h
  | .vbcast h _ _ _ _ => some h
  | .vperm h _ _ _ _ _ => some h
  | .vsel h _ _ _ _ _ => some h
  | .vins h _ _ _ _ => some h
  | .vext h _ _ _ _ => some h
  | .vmovx h _ _ _ => some h
  | .cvt h _ _ _ _ _ _ => some h
  | .cvti h _ _ _ _ _ _ => some h
  | .cvtf h _ _ _ _ _ _ => some h
  | .dec8 h _ _ _ _ _ _ => some h
  | .enc8 h _ _ _ _ _ => some h
  | .pack h _ _ _ _ _ => some h
  | .unpack h _ _ _ _ _ _ => some h
  | .tblld h _ _ _ _ _ => some h
  | .ld h _ _ _ _ _ _ => some h
  | .st h _ _ _ _ _ => some h
  | .ldv h _ _ _ _ => some h
  | .stv h _ _ _ _ => some h
  | .ldro h _ _ _ _ _ _ => some h
  | .ldg h _ _ _ _ _ _ _ => some h
  | .sts h _ _ _ _ _ _ _ => some h
  | .pfx h _ _ _ _ => some h
  | .amo h _ _ _ _ _ _ _ _ => some h
  | .cas h _ _ _ _ _ _ _ => some h
  | .wbr h _ _ _ _ _ => some h
  | .invr h _ _ _ _ _ => some h
  | .invrRo h _ _ _ _ _ => some h
  | .wbinvr h _ _ _ _ _ => some h
  | .zeror h _ _ _ _ _ => some h
  | .lockl h _ _ _ _ _ => some h
  | .unlockl h _ _ _ _ _ => some h
  | .cpy h _ _ _ _ _ _ => some h
  | .cpyi h _ _ _ _ _ _ => some h
  | .gather h _ _ _ _ _ _ _ _ => some h
  | .scatter h _ _ _ _ _ _ _ _ => some h
  | .halo h _ _ _ _ _ => some h
  | .cpyq h _ _ _ => some h
  | .send h _ _ _ _ _ _ => some h
  | .sendi h _ _ _ _ _ _ => some h
  | .cntrd h _ _ _ => some h
  | .cntadd h _ _ _ _ _ _ => some h
  | .cntset h _ _ _ => some h
  | .wtset h _ _ _ _ _ => some h
  | .wtsetS h _ _ _ _ _ => some h
  | .wtsetL h _ _ _ _ _ => some h
  | .wtclr h _ _ => some h
  | .arm h _ _ _ _ => some h
  | .disarm h _ _ => some h
  | .launch h _ _ _ _ => some h
  | .exch h _ _ _ _ => some h
  | .vote h _ => some h
  | .ttsel h _ => some h
  | .nsend h _ _ _ => some h
  | .mfmt h _ _ => some h
  | .mtbl h _ _ _ _ _ => some h
  | .mring h _ _ => some h
  | .mlda h _ _ _ _ => some h
  | .mldb h _ _ _ _ => some h
  | .mma h _ => some h
  | .mmas h _ => some h
  | .mskip h _ => some h
  | .mskipOff h => some h
  | .mrot h => some h
  | .mzero h _ => some h
  | .mdrain h _ _ _ _ _ _ _ _ => some h
  | .mcmd h _ _ _ => some h
  | .mcap h _ _ => some h
  | .mcapRev h _ => some h
  | .mstat h _ _ => some h
  | .mstatU h _ => some h
  | .kstage h _ _ _ _ => some h
  | .kstageU h _ _ _ => some h
  | .ksend h _ _ _ _ => some h
  | .ksendt h _ _ _ _ _ => some h
  | .kyield h => some h
  | .kend h => some h
  | .kstatOcc h _ _ => some h
  | .kstatCnt h _ _ => some h
  | .kflush h _ _ => some h
  | .gnew h _ _ => some h
  | .gfree h _ _ => some h
  | .join h _ _ => some h
  | .leave h _ _ => some h
  | .trylk h _ _ _ _ => some h
  | .unlk h _ _ _ _ => some h
  | .qpusht h _ _ _ _ _ => some h
  | .qpopt h _ _ _ _ _ => some h
  | .bararr h _ _ _ _ _ => some h
  | .bartry h _ _ _ _ _ => some h
  | .parkLk h _ _ _ => some h
  | .parkQn h _ _ _ => some h
  | .parkQs h _ _ _ => some h
  | .parkBar h _ _ _ _ => some h
  | .parkRp h _ _ _ => some h
  | .shgive h _ _ _ => some h
  | .shresv h _ _ => some h
  | .shrd h _ _ => some h
  | .shrdL h _ _ => some h
  | .oprd h _ _ => some h
  | .sleepTimeout _ _ => none
  | .claimRelease _ _ _ => none
  | .icacheFill _ _ => none
  | .prefetchFill _ => none
  | .userInterruptTake _ _ => none
  | .preemptionRequest _ _ => none
  | .detachTimeout _ _ => none
  | .detachedAccessPerformed _ _ => none
  | .handlerCut _ _ => none
  | .handlerAbandon _ _ => none
  | .placement _ => none
  | .continuationResume _ => none
  | .doneIncrement _ => none
  | .memoryOpPerform _ _ => none
  | .nearCacheEvict _ _ _ => none
  | .tbinv1Write _ _ => none
  | .tbInvalidationDone _ => none
  | .registerWrite _ _ => none
  | .fqnoteWrite _ => none
  | .fqringWrite _ => none
  | .pageRequestRetry _ => none
  | .prrespWrite _ _ => none
  | .streamerKick _ => none
  | .streamerChunk _ => none
  | .completionRelease _ => none
  | .descriptorFreeTimeout _ _ => none
  | .counterUpdate _ => none
  | .wtEntryFire _ _ => none
  | .triggerStart _ _ => none
  | .triggerComplete _ _ => none
  | .exchPhaseRelease _ => none
  | .timetableStart _ => none
  | .timetableEnd _ => none
  | .nsendArrival _ => none
  | .nsendAck _ => none
  | .matrixEntryService _ => none
  | .ringTileArrive _ => none
  | .ringCreditReturn _ => none
  | .mrotTimeout _ => none
  | .mcmdKickArrive _ => none
  | .leaseExpire _ => none
  | .matrixUnitFail _ => none
  | .ksendAnswer _ => none
  | .ksendResend _ _ => none
  | .reservationLapse _ => none
  | .keyedRecordArrive _ => none
  | .dispatch _ => none
  | .huskLookupDone _ _ => none
  | .huskSpillDone _ _ => none
  | .huskReloadDone _ _ => none
  | .retireDue _ _ => none
  | .stageAutoUnbind _ _ => none
  | .gnewGroupSettle _ => none
  | .shareMessage _ => none
  | .probeMessage _ => none
  | .cycleWakeMessage _ => none
  | .probeRecordExpire _ => none
  | .opChange _ => none
  | .clockSwitch _ => none
  | .slewHoldEnd _ => none
  | .slewUnassisted _ => none
  | .errcfgWrite _ => none
  | .hostCounterWrite _ _ _ => none
  | .hostBar2Access _ => none
  | .linkFlitResend _ _ => none
  | .linkDown _ _ => none
  | .linkLossComplete _ _ => none
  | .eccError _ _ => none
  | .coreFreeze _ => none
  | .deviceReset => none
  | .boot _ => none

/-- The core's table that MTBL copies (R247). -/
def tblSources : MtblSrc → List Reg
  | .mem => []
  | .ta => [.tbl false]
  | .tb => [.tbl true]

/-- What an instruction reads and writes (R68, R69). -/
def profile : Instr → Profile
  | .illegal _ => {}
  | .nop _ => {}
  | .brk _ _ => {}
  | .trap _ _ => {}
  | .trapret _ => {}
  | .trapretMove _ => {}
  | .trapretEnd _ => {}
  | .upret _ => {}
  | .crrd _ d _ => { w := [.x d.val], lat := none }
  | .crwr _ a _ => { a := some (.x a.val), fx := true }
  | .crset _ d a _ => { a := some (.x a.val), w := [.x d.val], lat := none, fx := true }
  | .crclr _ d a _ => { a := some (.x a.val), w := [.x d.val], lat := none, fx := true }
  | .ident _ d => { w := [.x d.val] }
  | .feat _ d => { w := [.x d.val] }
  | .halt _ => { fx := true }
  | .sleep _ d _ b _ => { b := some (.x b.val), w := [.x d.val], lat := none }
  | .br _ p _ _ _ => { a := some (.p p.val) }
  | .bri _ a _ => { a := some (.x a.val) }
  | .call _ _ => { w := [.x 31] }
  | .calli _ a _ => { a := some (.x a.val), w := [.x 31] }
  | .ret _ a => { a := some (.x a.val) }
  | .loop _ a _ => { a := some (.x a.val), w := [.x a.val] }
  | .endTask _ => {}
  | .yieldSlot _ => {}
  | .ipf _ _ _ => {}
  | .add _ _ d a b => { a := some (.x a.val), b := some (.x b.val), w := [.x d.val] }
  | .sub _ _ d a b => { a := some (.x a.val), b := some (.x b.val), w := [.x d.val] }
  | .addi _ _ d a _ => { a := some (.x a.val), w := [.x d.val] }
  | .mul _ _ d a b => { a := some (.x a.val), b := some (.x b.val), w := [.x d.val], lat := none }
  | .mulh _ _ d a b => { a := some (.x a.val), b := some (.x b.val), w := [.x d.val], lat := none }
  | .mulhn _ _ d a b => { a := some (.x a.val), b := some (.x b.val), w := [.x d.val], lat := none }
  | .mad _ _ d a b c => { a := some (.x a.val), b := some (.x b.val), c := some (.x c.val), w := [.x d.val], lat := none }
  | .div _ _ d a b => { a := some (.x a.val), b := some (.x b.val), w := [.x d.val], lat := none }
  | .divn _ _ d a b => { a := some (.x a.val), b := some (.x b.val), w := [.x d.val], lat := none }
  | .rem _ _ d a b => { a := some (.x a.val), b := some (.x b.val), w := [.x d.val], lat := none }
  | .remn _ _ d a b => { a := some (.x a.val), b := some (.x b.val), w := [.x d.val], lat := none }
  | .and _ d a b => { a := some (.x a.val), b := some (.x b.val), w := [.x d.val] }
  | .or _ d a b => { a := some (.x a.val), b := some (.x b.val), w := [.x d.val] }
  | .xor _ d a b => { a := some (.x a.val), b := some (.x b.val), w := [.x d.val] }
  | .andn _ d a b => { a := some (.x a.val), b := some (.x b.val), w := [.x d.val] }
  | .orn _ d a b => { a := some (.x a.val), b := some (.x b.val), w := [.x d.val] }
  | .shl _ _ d a b => { a := some (.x a.val), b := some (.x b.val), w := [.x d.val] }
  | .shr _ _ d a b => { a := some (.x a.val), b := some (.x b.val), w := [.x d.val] }
  | .sar _ _ d a b => { a := some (.x a.val), b := some (.x b.val), w := [.x d.val] }
  | .rol _ _ d a b => { a := some (.x a.val), b := some (.x b.val), w := [.x d.val] }
  | .shli _ _ d a _ => { a := some (.x a.val), w := [.x d.val] }
  | .shri _ _ d a _ => { a := some (.x a.val), w := [.x d.val] }
  | .sari _ _ d a _ => { a := some (.x a.val), w := [.x d.val] }
  | .min _ d a b => { a := some (.x a.val), b := some (.x b.val), w := [.x d.val] }
  | .max _ d a b => { a := some (.x a.val), b := some (.x b.val), w := [.x d.val] }
  | .minn _ d a b => { a := some (.x a.val), b := some (.x b.val), w := [.x d.val] }
  | .maxn _ d a b => { a := some (.x a.val), b := some (.x b.val), w := [.x d.val] }
  | .clz _ d a => { a := some (.x a.val), w := [.x d.val] }
  | .ctz _ d a => { a := some (.x a.val), w := [.x d.val] }
  | .popc _ d a => { a := some (.x a.val), w := [.x d.val] }
  | .brev _ d a => { a := some (.x a.val), w := [.x d.val] }
  | .bfx _ d a _ _ => { a := some (.x a.val), w := [.x d.val] }
  | .bfxz _ d a _ _ => { a := some (.x a.val), w := [.x d.val] }
  | .bfi _ d a b _ _ => { a := some (.x a.val), b := some (.x b.val), w := [.x d.val] }
  | .lea _ d a b pcrel _ _ => { a := if pcrel then none else some (.x a.val), b := some (.x b.val), w := [.x d.val] }
  | .li _ d _ => { w := [.x d.val] }
  | .lih _ d a _ => { a := some (.x a.val), w := [.x d.val] }
  | .mov _ d a => { a := some (.x a.val), w := [.x d.val] }
  | .sel _ d a b c => { a := some (.x a.val), b := some (.x b.val), c := some (.p c.val), w := [.x d.val] }
  | .cmp _ _ _ d a b => { a := some (.x a.val), b := some (.x b.val), w := [.p d.val] }
  | .cmpi _ _ _ d a _ => { a := some (.x a.val), w := [.p d.val] }
  | .pand _ d a b => { a := some (.p a.val), b := some (.p b.val), w := [.p d.val] }
  | .por _ d a b => { a := some (.p a.val), b := some (.p b.val), w := [.p d.val] }
  | .pxor _ d a b => { a := some (.p a.val), b := some (.p b.val), w := [.p d.val] }
  | .pnot _ d a => { a := some (.p a.val), w := [.p d.val] }
  | .pset _ d _ => { w := [.p d.val] }
  | .psetX _ d a => { a := some (.x a.val), w := [.p d.val] }
  | .pget _ d a => { a := some (.p a.val), w := [.x d.val] }
  | .fadd _ _ _ d a b => { a := some (.v a.val), b := some (.v b.val), w := [.v d.val], lat := some 4, feats := [0], vec := true }
  | .fsub _ _ _ d a b => { a := some (.v a.val), b := some (.v b.val), w := [.v d.val], lat := some 4, feats := [0], vec := true }
  | .fmul _ _ _ d a b => { a := some (.v a.val), b := some (.v b.val), w := [.v d.val], lat := some 4, feats := [0], vec := true }
  | .fma _ _ _ d a b c => { a := some (.v a.val), b := some (.v b.val), c := some (.v c.val), w := [.v d.val], lat := some 4, feats := [0], vec := true }
  | .fms _ _ _ d a b c => { a := some (.v a.val), b := some (.v b.val), c := some (.v c.val), w := [.v d.val], lat := some 4, feats := [0], vec := true }
  | .fnma _ _ _ d a b c => { a := some (.v a.val), b := some (.v b.val), c := some (.v c.val), w := [.v d.val], lat := some 4, feats := [0], vec := true }
  | .fmin _ _ d a b => { a := some (.v a.val), b := some (.v b.val), w := [.v d.val], lat := some 4, feats := [0], vec := true }
  | .fmax _ _ d a b => { a := some (.v a.val), b := some (.v b.val), w := [.v d.val], lat := some 4, feats := [0], vec := true }
  | .fabs _ _ d a => { a := some (.v a.val), w := [.v d.val], lat := some 4, feats := [0], vec := true }
  | .fneg _ _ d a => { a := some (.v a.val), w := [.v d.val], lat := some 4, feats := [0], vec := true }
  | .fdiv _ _ _ d a b => { a := some (.v a.val), b := some (.v b.val), w := [.v d.val], lat := none, feats := [0], vec := true }
  | .fsqrt _ _ _ d a => { a := some (.v a.val), w := [.v d.val], lat := none, feats := [0], vec := true }
  | .frcp _ _ _ d a => { a := some (.v a.val), w := [.v d.val], lat := none, feats := [0], vec := true }
  | .frsq _ _ _ d a => { a := some (.v a.val), w := [.v d.val], lat := none, feats := [0], vec := true }
  | .fexp2 _ _ _ d a => { a := some (.v a.val), w := [.v d.val], lat := none, feats := [0], vec := true }
  | .flog2 _ _ _ d a => { a := some (.v a.val), w := [.v d.val], lat := none, feats := [0], vec := true }
  | .fcmp _ _ _ _ d a b => { a := some (.v a.val), b := some (.v b.val), w := [.p d.val], lat := some 4, feats := [0], vec := true }
  | .fclass _ _ d a => { a := some (.v a.val), w := [.v d.val], lat := some 4, feats := [0], vec := true }
  | .fscale _ _ _ d a b => { a := some (.v a.val), b := some (.v b.val), w := [.v d.val], lat := some 4, feats := [0], vec := true }
  | .fred _ _ _ d a => { a := some (.v a.val), w := [.x d.val], lat := none, feats := [0], vec := true, red := true }
  | .fredmax _ _ d a => { a := some (.v a.val), w := [.x d.val], lat := none, feats := [0], vec := true, red := true }
  | .fredmin _ _ d a => { a := some (.v a.val), w := [.x d.val], lat := none, feats := [0], vec := true, red := true }
  | .fdot _ _ _ d a b => { a := some (.v a.val), b := some (.v b.val), w := [.x d.val], lat := none, feats := [0], vec := true, red := true }
  | .vadd _ _ _ d a b => { a := some (.v a.val), b := some (.v b.val), w := [.v d.val], lat := some 2, feats := [0], vec := true }
  | .vsub _ _ _ d a b => { a := some (.v a.val), b := some (.v b.val), w := [.v d.val], lat := some 2, feats := [0], vec := true }
  | .vmul _ _ _ d a b => { a := some (.v a.val), b := some (.v b.val), w := [.v d.val], lat := some 4, feats := [0], vec := true }
  | .vmad _ _ _ d a b c => { a := some (.v a.val), b := some (.v b.val), c := some (.v c.val), w := [.v d.val], lat := some 4, feats := [0], vec := true }
  | .vand _ _ d a b => { a := some (.v a.val), b := some (.v b.val), w := [.v d.val], lat := some 2, feats := [0], vec := true }
  | .vor _ _ d a b => { a := some (.v a.val), b := some (.v b.val), w := [.v d.val], lat := some 2, feats := [0], vec := true }
  | .vxor _ _ d a b => { a := some (.v a.val), b := some (.v b.val), w := [.v d.val], lat := some 2, feats := [0], vec := true }
  | .vshl _ _ i d a b => { a := some (.v a.val), b := if i.isSome then none else some (.v b.val), w := [.v d.val], lat := some 2, feats := [0], vec := true }
  | .vshr _ _ i d a b => { a := some (.v a.val), b := if i.isSome then none else some (.v b.val), w := [.v d.val], lat := some 2, feats := [0], vec := true }
  | .vsar _ _ i d a b => { a := some (.v a.val), b := if i.isSome then none else some (.v b.val), w := [.v d.val], lat := some 2, feats := [0], vec := true }
  | .vmin _ _ d a b => { a := some (.v a.val), b := some (.v b.val), w := [.v d.val], lat := some 2, feats := [0], vec := true }
  | .vmax _ _ d a b => { a := some (.v a.val), b := some (.v b.val), w := [.v d.val], lat := some 2, feats := [0], vec := true }
  | .vcmp _ _ _ _ d a b => { a := some (.v a.val), b := some (.v b.val), w := [.p d.val], lat := some 2, feats := [0], vec := true }
  | .vred _ _ d a => { a := some (.v a.val), w := [.x d.val], lat := none, feats := [0], vec := true, red := true }
  | .vbcast _ _ i d a => { a := if i.isSome then none else some (.x a.val), w := [.v d.val], lat := some 2, feats := [0], vec := true }
  | .vperm _ _ d a b c => { a := some (.v a.val), b := some (.v b.val), c := some (.v c.val), w := [.v d.val], lat := none, feats := [0], vec := true }
  | .vsel _ _ d a b c => { a := some (.v a.val), b := some (.v b.val), c := some (.p c.val), w := [.v d.val], lat := some 2, feats := [0], vec := true }
  | .vins _ _ d a _ => { a := some (.x a.val), w := [.v d.val], lat := some 2, feats := [0], vec := true }
  | .vext _ _ d a _ => { a := some (.v a.val), w := [.x d.val], lat := some 2, feats := [0] }
  | .vmovx _ toX v x => { a := some (if toX then .v v.val else .x x.val), more := if toX then [] else (upFrom (x.val + 1) 3).map .x, w := if toX then (upFrom x.val 4).map .x else [.v v.val], lat := some 2, feats := [0] }
  | .cvt _ _ _ _ _ d a => { a := some (.v a.val), w := [.v d.val], lat := some 4, feats := [0], vec := true }
  | .cvti _ _ _ _ _ d a => { a := some (.v a.val), w := [.v d.val], lat := some 4, feats := [0], vec := true }
  | .cvtf _ _ _ _ _ d a => { a := some (.v a.val), w := [.v d.val], lat := some 4, feats := [0], vec := true }
  | .dec8 _ _ _ _ d a t => { a := some (.v a.val), more := [.tbl t], w := [.v d.val], lat := some 4, feats := [0], vec := true }
  | .enc8 _ _ _ d a t => { a := some (.v a.val), more := [.tbl t], w := [.v d.val], lat := some 4, feats := [0], vec := true }
  | .pack _ _ _ d a b => { a := some (.v a.val), b := some (.v b.val), w := [.v d.val], lat := some 4, feats := [0], vec := true }
  | .unpack _ _ _ _ _ d a => { a := some (.v a.val), w := [.v d.val], lat := some 4, feats := [0], vec := true }
  | .tblld _ _ src t a _ => { a := if src = .mem then some (.x a.val) else none, w := [.tbl t], lat := none, feats := [0], late := decide (src = .mem), mem := decide (src = .mem), fx := decide (src ≠ .mem) }
  | .ld _ _ _ _ d a _ => { a := some (.x a.val), w := [.x d.val], lat := none, late := true, mem := true }
  | .st _ _ _ a b _ => { a := some (.x a.val), b := some (.x b.val), lat := none }
  | .ldv _ _ d a _ => { a := some (.x a.val), w := [.v d.val], lat := none, vec := true, late := true, mem := true }
  | .stv _ _ a b _ => { a := some (.x a.val), b := some (.v b.val), lat := none, vec := true }
  | .ldro _ _ sz _ d a _ => { a := some (.x a.val), w := if sz = .v then [.v (d.val % 16)] else [.x d.val], lat := none, vec := decide (sz = .v), late := true, mem := true }
  | .ldg _ _ _ _ d a b _ => { a := some (.x a.val), b := some (.v b.val), w := [.v d.val], lat := none, vec := true, late := true, mem := true }
  | .sts _ _ _ _ d a b _ => { a := some (.x a.val), b := some (.v b.val), more := [.v d.val], lat := none, vec := true }
  | .pfx _ _ _ a _ => { a := some (.x a.val), lat := none }
  | .amo _ _ _ _ _ d a b _ => { a := some (.x a.val), b := some (.x b.val), w := [.x d.val], lat := none, late := true, mem := true }
  | .cas _ _ _ _ d a b _ => { a := some (.x a.val), b := some (.x b.val), more := [.x d.val], w := [.x d.val], lat := none, late := true, mem := true }
  | .wbr _ _ d a b _ => { a := some (.x a.val), b := some (.x b.val), w := [.x d.val], lat := none, late := true, mem := true }
  | .invr _ _ d a b _ => { a := some (.x a.val), b := some (.x b.val), w := [.x d.val], lat := none, late := true }
  | .invrRo _ _ d a b _ => { a := some (.x a.val), b := some (.x b.val), w := [.x d.val], lat := none, late := true }
  | .wbinvr _ _ d a b _ => { a := some (.x a.val), b := some (.x b.val), w := [.x d.val], lat := none, late := true, mem := true }
  | .zeror _ _ d a b _ => { a := some (.x a.val), b := some (.x b.val), w := [.x d.val], lat := none, late := true, mem := true }
  | .lockl _ _ _ d a _ => { a := some (.x a.val), w := [.x d.val], lat := none, late := true, mem := true }
  | .unlockl _ _ _ d a _ => { a := some (.x a.val), w := [.x d.val], lat := none, late := true }
  | .cpy _ _ _ d a b _ => { a := some (.x a.val), b := some (.x b.val), more := [.x d.val], lat := none, fx := true }
  | .cpyi _ _ _ d a b _ => { a := some (.x a.val), b := some (.x b.val), more := [.x d.val], lat := none, fx := true }
  | .gather _ _ _ _ _ d a b _ => { a := some (.x a.val), b := some (.v b.val), more := [.x d.val], lat := none, vec := true, fx := true }
  | .scatter _ _ _ _ _ d a b _ => { a := some (.x a.val), b := some (.v b.val), more := [.x d.val], lat := none, vec := true, fx := true }
  | .halo _ _ _ a b _ => { a := some (.x a.val), b := some (.x b.val), lat := none, fx := true }
  | .cpyq _ _ d b => { b := some (.x b.val), w := [.x d.val], lat := none, late := true }
  | .send _ _ d a b _ _ => { a := some (.x a.val), b := some (.x b.val), more := [.x d.val], lat := none }
  | .sendi _ _ _ a b _ _ => { a := some (.x a.val), b := some (.x b.val), lat := none }
  | .cntrd _ _ d _ => { w := [.x d.val], lat := none, late := true }
  | .cntadd _ _ self a b _ _ => { a := if self then none else some (.x a.val), b := some (.x b.val), lat := none }
  | .cntset _ _ b _ => { b := some (.x b.val), lat := none }
  | .wtset _ d _ _ a b => { a := some (.x a.val), b := some (.x b.val), w := [.x d.val], lat := none, fx := true }
  | .wtsetS _ d _ _ a b => { a := some (.x a.val), b := some (.x b.val), w := [.x d.val], lat := none, fx := true }
  | .wtsetL _ d _ _ a b => { a := some (.x a.val), b := some (.x b.val), w := [.x d.val], lat := none, fx := true }
  | .wtclr _ d _ => { w := [.x d.val], lat := none, fx := true }
  | .arm _ _ d a _ => { a := some (.x a.val), w := [.x d.val], lat := none, late := true, mem := true }
  | .disarm _ d _ => { w := [.x d.val], lat := none, fx := true }
  | .launch _ _ d a _ => { a := some (.x a.val), w := [.x d.val], lat := none, late := true, mem := true }
  | .exch _ _ d a _ => { a := some (.x a.val), w := [.x d.val], lat := none, feats := [4], late := true, fx := true }
  | .vote _ a => { a := some (.x a.val), lat := none, feats := [4], fx := true }
  | .ttsel _ a => { a := some (.x a.val), lat := none, feats := [4], fx := true }
  | .nsend _ _ a _ => { a := some (.x a.val), lat := none, feats := [5], mem := true }
  | .mfmt _ ta tb => { lat := none, feats := if ta.is8 || tb.is8 then [1, 2] else [1], fx := true }
  | .mtbl _ _ src _ a _ => { a := if src = .mem then some (.x a.val) else none, more := tblSources src, lat := none, feats := [1], mem := decide (src = .mem), fx := true }
  | .mring _ a b => { a := some (.x a.val), b := some (.x b.val), lat := none, feats := [1], fx := true }
  | .mlda _ _ a b _ => { a := some (.x a.val), b := some (.x b.val), lat := none, feats := [1], fx := true }
  | .mldb _ _ a b _ => { a := some (.x a.val), b := some (.x b.val), lat := none, feats := [1], fx := true }
  | .mma _ _ => { lat := none, feats := [1], fx := true }
  | .mmas _ _ => { lat := none, feats := [1], fx := true }
  | .mskip _ a => { a := some (.x a.val), lat := none, feats := [1], fx := true }
  | .mskipOff _ => { lat := none, feats := [1], fx := true }
  | .mrot _ => { lat := none, feats := [1], fx := true }
  | .mzero _ _ => { lat := none, feats := [1], fx := true }
  | .mdrain _ _ _ _ _ _ a b _ => { a := some (.x a.val), b := some (.x b.val), lat := none, feats := [1], fx := true }
  | .mcmd _ _ a _ => { a := some (.x a.val), lat := none, fx := true }
  | .mcap _ d _ => { w := [.x d.val], lat := none, feats := [1], late := true, fx := true }
  | .mcapRev _ d => { w := [.x d.val], lat := none, feats := [1], late := true, fx := true }
  | .mstat _ d _ => { w := [.x d.val], lat := none, feats := [1], late := true, fx := true }
  | .mstatU _ d => { w := [.x d.val], lat := none, feats := [1], late := true, fx := true }
  | .kstage _ _ d a _ => { a := some (.x a.val), w := [.x d.val], lat := none, feats := [3], late := true, mem := true }
  | .kstageU _ _ d b => { b := some (.x b.val), w := [.x d.val], lat := none, feats := [3], late := true }
  | .ksend _ _ a b _ => { a := some (.x a.val), b := some (.x b.val), lat := none, feats := [3], mem := true, fx := true }
  | .ksendt _ _ d a b _ => { a := some (.x a.val), b := some (.x b.val), w := [.p d.val], lat := none, feats := [3], late := true, mem := true, fx := true }
  | .kyield _ => { lat := none, feats := [3] }
  | .kend _ => { lat := none, feats := [3] }
  | .kstatOcc _ d a => { a := some (.x a.val), w := [.x d.val], lat := none, feats := [3] }
  | .kstatCnt _ d a => { a := some (.x a.val), w := [.x d.val], lat := none, feats := [3] }
  | .kflush _ d a => { a := some (.x a.val), w := [.x d.val], lat := none, feats := [3], late := true, fx := true }
  | .gnew _ d a => { a := some (.x a.val), w := [.x d.val], lat := none, fx := true }
  | .gfree _ d a => { a := some (.x a.val), w := [.x d.val], lat := none, fx := true }
  | .join _ d a => { a := some (.x a.val), w := [.x d.val], lat := none, fx := true }
  | .leave _ d a => { a := some (.x a.val), w := [.x d.val], lat := none, fx := true }
  | .trylk _ _ d a _ => { a := some (.x a.val), w := [.p d.val], lat := none, late := true, mem := true }
  | .unlk _ _ d a _ => { a := some (.x a.val), w := [.p d.val], lat := none, late := true, mem := true }
  | .qpusht _ _ d a b _ => { a := some (.x a.val), b := some (.x b.val), w := [.p d.val], lat := none, late := true, mem := true }
  | .qpopt _ _ n d a _ => { a := some (.x a.val), w := [.x d.val, .p n.val], lat := none, late := true, mem := true }
  | .bararr _ _ d a b _ => { a := some (.x a.val), b := some (.x b.val), w := [.x d.val], lat := none, late := true, mem := true }
  | .bartry _ _ d a b _ => { a := some (.x a.val), b := some (.x b.val), w := [.p d.val], lat := none, late := true, mem := true }
  | .parkLk _ _ a _ => { a := some (.x a.val), w := [.p 7], lat := none, late := true, mem := true }
  | .parkQn _ _ a _ => { a := some (.x a.val), w := [.p 7], lat := none, late := true, mem := true }
  | .parkQs _ _ a _ => { a := some (.x a.val), w := [.p 7], lat := none, late := true, mem := true }
  | .parkRp _ _ a _ => { a := some (.x a.val), w := [.p 7], lat := none, late := true, mem := true }
  | .parkBar _ _ a b _ => { a := some (.x a.val), b := some (.x b.val), w := [.p 7], lat := none, late := true, mem := true }
  | .shgive _ d a b => { a := some (.x a.val), b := some (.x b.val), w := [.x d.val], lat := none, fx := true }
  | .shresv _ d a => { a := some (.x a.val), w := [.x d.val], lat := none, fx := true }
  | .shrd _ d a => { a := some (.x a.val), w := [.x d.val], lat := none }
  | .shrdL _ d a => { a := some (.x a.val), w := [.x d.val], lat := none }
  | .oprd _ d a => { a := some (.x a.val), w := [.x d.val], lat := none }
  | .sleepTimeout _ _ => {}
  | .claimRelease _ _ _ => {}
  | .icacheFill _ _ => {}
  | .prefetchFill _ => {}
  | .userInterruptTake _ _ => {}
  | .preemptionRequest _ _ => {}
  | .detachTimeout _ _ => {}
  | .detachedAccessPerformed _ _ => {}
  | .handlerCut _ _ => {}
  | .handlerAbandon _ _ => {}
  | .placement _ => {}
  | .continuationResume _ => {}
  | .doneIncrement _ => {}
  | .memoryOpPerform _ _ => {}
  | .nearCacheEvict _ _ _ => {}
  | .tbinv1Write _ _ => {}
  | .tbInvalidationDone _ => {}
  | .registerWrite _ _ => {}
  | .fqnoteWrite _ => {}
  | .fqringWrite _ => {}
  | .pageRequestRetry _ => {}
  | .prrespWrite _ _ => {}
  | .streamerKick _ => {}
  | .streamerChunk _ => {}
  | .completionRelease _ => {}
  | .descriptorFreeTimeout _ _ => {}
  | .counterUpdate _ => {}
  | .wtEntryFire _ _ => {}
  | .triggerStart _ _ => {}
  | .triggerComplete _ _ => {}
  | .exchPhaseRelease _ => {}
  | .timetableStart _ => {}
  | .timetableEnd _ => {}
  | .nsendArrival _ => {}
  | .nsendAck _ => {}
  | .matrixEntryService _ => {}
  | .ringTileArrive _ => {}
  | .ringCreditReturn _ => {}
  | .mrotTimeout _ => {}
  | .mcmdKickArrive _ => {}
  | .leaseExpire _ => {}
  | .matrixUnitFail _ => {}
  | .ksendAnswer _ => {}
  | .ksendResend _ _ => {}
  | .reservationLapse _ => {}
  | .keyedRecordArrive _ => {}
  | .dispatch _ => {}
  | .huskLookupDone _ _ => {}
  | .huskSpillDone _ _ => {}
  | .huskReloadDone _ _ => {}
  | .retireDue _ _ => {}
  | .stageAutoUnbind _ _ => {}
  | .gnewGroupSettle _ => {}
  | .shareMessage _ => {}
  | .probeMessage _ => {}
  | .cycleWakeMessage _ => {}
  | .probeRecordExpire _ => {}
  | .opChange _ => {}
  | .clockSwitch _ => {}
  | .slewHoldEnd _ => {}
  | .slewUnassisted _ => {}
  | .errcfgWrite _ => {}
  | .hostCounterWrite _ _ _ => {}
  | .hostBar2Access _ => {}
  | .linkFlitResend _ _ => {}
  | .linkDown _ _ => {}
  | .linkLossComplete _ _ => {}
  | .eccError _ _ => {}
  | .coreFreeze _ => {}
  | .deviceReset => {}
  | .boot _ => {}

/-- Registers as stored: x24 to x31 by the bank in use, x0 and p0 left out, since they hold nothing. -/
def physReg (bank : Bool) : Reg → Option Reg
  | .x n => if n = 0 then none else some (.x (xphys bank n))
  | .p n => if n = 0 then none else some (.p n)
  | .v n => some (.v n)
  | .tbl t => some (.tbl t)

def physRegs (bank : Bool) (l : List Reg) : List Reg := l.filterMap fun r => physReg bank r

/-- The register sources of an instruction, its guard apart. -/
def Profile.sources (p : Profile) : List Reg :=
  (match p.a with | some r => [r] | none => []) ++ (match p.b with | some r => [r] | none => []) ++
  (match p.c with | some r => [r] | none => []) ++ p.more

/-- A value of any register file as a latch keeps it (R67). -/
def regVal (sl : SlotSt) : Reg → Vec
  | .x n => (sl.rdP n).setWidth 256
  | .v n => sl.v n
  | .p n => (sl.p n).setWidth 256
  | .tbl _ => 0

/-! ### Effective addresses (R171) -/

/-- base + sign-extended offset. -/
def eaOf (base : Word) (off : BitVec 32) : Word := base + sext64 off

/-- The checks of R171 that need no translation: alignment, then the address limit; the detail tells the kind of access
(R334). -/
def checkEa (ea : Word) (n : Nat) (k : Acc4) : Option Trap :=
  if ea.toNat % n ≠ 0 then some { cause := .align, detail := k.code, addr := ea }
  else if fld ea 63 56 ≠ 0 then some { cause := .address, detail := k.code, addr := ea }
  else none

/-- The window check of a range: it lies in the local window or outside it (R171). -/
def straddles (a n : Nat) : Bool := n ≠ 0 && a < winBase + 65536 && winBase < a + n && !(winBase ≤ a && a + n ≤ winBase + 65536)

/-- A loaded value in a register (R172). -/
def extendTo (n : Nat) (ext : Bool) (v : Nat) : Word :=
  if ext then BitVec.ofInt 64 (toSigned (8 * n) v) else BitVec.ofNat 64 v

end Sys2Proof.Machine
end

