-- ==== Sys2Proof/Machine/Flags.lean ====
section
/-!
DEFINITION. Flags and hints: FPSTAT, scoreboards, reuse latches, the dependence history, and the issue of one instruction
with the checks of R75 (R64 to R73, R75, R78, R124, R125, R171, R316, R322).
-/
set_option Elab.async false
namespace Sys2Proof

/-- Whether a claim stands on scoreboard k. -/
def Claim.on (k : Nat) : Claim → Bool
  | .none => false
  | .written sb => sb.val = k
  | .read sb => sb.val = k

/-- Whether a wait mask names a claim's index. -/
def Claim.named (w : BitVec 8) : Claim → Bool
  | .none => false
  | .written sb => w.getLsbD sb.val
  | .read sb => w.getLsbD sb.val

def Claim.isWritten : Claim → Bool
  | .written _ => true
  | .none => false
  | .read _ => false

end Sys2Proof

namespace Sys2Proof.Machine

/-- Flags ORed into FPSTAT (R125). -/
def SlotSt.orFlags (sl : SlotSt) (f : BitVec 5) : SlotSt := { sl with fpstat := sl.fpstat ||| f }

/-! ### Scoreboards (R66) -/

/-- sbk: the number of claims outstanding. -/
def SlotSt.sb (sl : SlotSt) (k : Nat) : Nat := (sl.inflight.filter fun e => e.claim.on k).length

/-- Whether the wait mask names a busy scoreboard. -/
def SlotSt.waits (sl : SlotSt) (h : Hdr) : Bool := (below 8).any fun k => h.wait.getLsbD k && sl.sb k ≠ 0

/-- Whether an instruction's claim would raise a scoreboard above 63. -/
def SlotSt.sbFull (sl : SlotSt) (h : Hdr) : Bool := (below 8).any fun k => h.claim.on k && 63 ≤ sl.sb k

/-! ### The dependence history (R69, R70) -/

/-- An entry of the history after an instruction with a wait mask: what that mask covers needs no more looking back. -/
def Hist.cover (w : BitVec 8) (e : Hist) : Option Hist :=
  if !e.claim.named w then some e
  else if e.claim.isWritten then none
  else match e.lat with
    | some _ => some e
    | none => some { e with reads := [] }

def coverHist (w : BitVec 8) (l : List Hist) : List Hist := l.filterMap fun e => e.cover w

def meets (a b : List Reg) : Bool := a.any fun r => b.contains r

/-- Whether a reuse bit on a source position is stale (R67). (Log 34.) -/
def staleAt (bank : Bool) (set : Bool) (pos : Option Reg) (l : Option Latch) : Bool :=
  set && (match pos, l with
    | _, none => false
    | none, some _ => true
    | some r, some k => k.reg ≠ (physReg bank r).getD r || !k.fresh)

/-- The hint-miss kind of an instruction, 0 for none (R71). off: its guard is false. -/
def hintKind (sl : SlotSt) (h : Hdr) (p : Profile) (off : Bool) : Nat :=
  let hist := coverHist h.wait sl.hist
  let g := physRegs sl.bank [.p h.guard.val]
  let rd := if off then g else g ++ physRegs sl.bank p.sources
  let wr := if off then [] else physRegs sl.bank p.w
  let rw := rd ++ wr
  if hist.any fun e => meets rw e.writes && (match e.lat with | some n => e.dist < n | none => false) then 1
  else if hist.any fun e => meets rw e.writes && e.lat.isNone then 2
  else if hist.any fun e => meets wr e.reads && e.lat.isNone then 3
  else if staleAt sl.bank (h.reuse.getLsbD 2) p.a sl.latA || staleAt sl.bank (h.reuse.getLsbD 1) p.b sl.latB
      || staleAt sl.bank (h.reuse.getLsbD 0) p.c sl.latC then 4
  else 0

/-- Whether every dependence is met in fact (R70). -/
def shadowReady (sl : SlotSt) (h : Hdr) (p : Profile) (off : Bool) : Bool :=
  let g := physRegs sl.bank [.p h.guard.val]
  let rw := if off then g else g ++ physRegs sl.bank p.sources ++ physRegs sl.bank p.w
  !(sl.inflight.any fun e => meets rw e.writes)

/-- Whether the guard turns an instruction off (R12, R78, R124). -/
def guardOff (sl : SlotSt) (h : Hdr) (p : Profile) : Bool :=
  let g := sl.mask h
  if p.red then false else if p.vec then g = 0 else !g.getLsbD 0

/-- One hint-miss event (R72). -/
def SlotSt.countMiss (sl : SlotSt) (kind : Nat) : SlotSt :=
  if kind = 0 then sl else { sl with misses := satInc sl.misses, lastkind := BitVec.ofNat 3 kind }

/-- The history after an instruction: older entries age, and its own is added (R70). DESIGN CHOICE: the guard of a variable
producer is not among the registers that it is recorded to read (kind 3 of R69, which names a guard only for the later
instruction; log 34). -/
def histAfter (sl : SlotSt) (h : Hdr) (p : Profile) (off : Bool) : List Hist :=
  let step := h.pace.toNat + 1
  let old := (coverHist h.wait sl.hist).filterMap fun e =>
    let e := { e with dist := e.dist + step }
    match e.lat with
    | some n => if n ≤ e.dist then none else some e
    | none => some e
  let w := physRegs sl.bank p.w
  let r := if p.lat.isNone then physRegs sl.bank p.sources else []
  if off || (w.isEmpty && r.isEmpty) then old
  else old ++ [⟨w, r, p.lat, step, h.claim⟩]

/-- What an instruction leaves in flight: its destinations, and its claim until it is released (R66, R68). -/
def inflightOf (sl : SlotSt) (h : Hdr) (p : Profile) (id : Nat) : List Inflight :=
  let w := physRegs sl.bank p.w
  match p.lat with
  | some n =>
    let c := if h.claim.isWritten then h.claim else .none
    if w.isEmpty then [] else [⟨id, w, [], c, some n, false⟩]
  | none =>
    let mine := h.claim.isWritten && !p.w.isEmpty
    let c := if mine then h.claim else .none
    let main : List Inflight := if w.isEmpty && !mine then [] else [⟨id, w, [], c, none, p.late⟩]
    let claim : List Inflight := if h.claim = .none || mine then [] else [⟨id + 1, [], [], h.claim, none, false⟩]
    main ++ claim

def latchOf (sl : SlotSt) (pos : Option Reg) (old : Option Latch) : Option Latch :=
  match pos with
  | none => old
  | some r => let r := (physReg sl.bank r).getD r; some ⟨r, regVal sl r, true⟩

/-- The word of an instruction. -/
def wordOf (i : Instr) : BitVec 128 := (encode i).getD 0

/-- What the slot can go back to after it issues an instruction: its state before every operation that may still trap (R171).
One that acts outside its slot cannot be taken back, so what is older has passed the point at which it could trap (log
32). -/
def undoAfter (sl : SlotSt) (i : Instr) (off : Bool) (id : Nat) : List Undo :=
  if off then sl.undo
  else
    let p := profile i
    let old := if p.fx then [] else sl.undo
    if !p.mem then old
    else old ++ [{
      id, word := wordOf i, pc := sl.pc, xs := sl.xs, vs := sl.vs, ps := sl.ps, poison := sl.poison, fpstat := sl.fpstat
      misses := sl.misses, lastkind := sl.lastkind, scopemiss := sl.scopemiss, xlast := sl.xlast, xid := sl.xid
      uepc := sl.uepc, inh := sl.inh, upcall := sl.upcall, bank := sl.bank, handlers := sl.handlers
      flow := sl.flow, turned := sl.turned }]

/-! ### Register dataflow from the predicates of KSENDTs (R159 clause 3)

Every other operation that returns a value is performed before a reader of it issues (R68). A KSENDT's predicate comes with
its answer, and the command is performed at its completion release (R158, R277). -/

/-- The registers that an instruction reads, its guard among them. -/
def readRegs (sl : SlotSt) (h : Hdr) (i : Instr) (off : Bool) : List Reg :=
  let g := physRegs sl.bank [.p h.guard.val]
  if off then g else g ++ physRegs sl.bank (profile i).sources

/-- The KSENDTs on whose predicates some registers depend. -/
def SlotSt.fedBy (sl : SlotSt) (rs : List Reg) : List Nat :=
  ((sl.flow.filter fun e => rs.contains e.1).map fun e => e.2).eraseDups

/-- Whether a register has lanes: a vector instruction leaves those of its destination that are off as they were. -/
def Reg.hasLanes : Reg → Bool
  | .v _ => true
  | .p _ => true
  | .x _ => false
  | .tbl _ => false

/-- The dependences of registers after an instruction: its destinations depend on what it reads, and a KSENDT's predicate on
the command itself. -/
def flowAfter (sl : SlotSt) (i : Instr) (fed : List Nat) (id : Nat) : List (Reg × Nat) :=
  let w := physRegs sl.bank (profile i).w
  let fed := match i with
    | .ksendt _ _ _ _ _ _ => id :: fed
    | _ => fed
  ((sl.flow.filter fun e => !w.contains e.1 || (profile i).vec && e.1.hasLanes) ++
    (w.map fun r => fed.map fun n => (r, n)).flatten).eraseDups

/-- The control transfers (R84 to R90). -/
def turns : Instr → Bool
  | .br _ _ _ _ _ => true
  | .bri _ _ _ => true
  | .call _ _ => true
  | .calli _ _ _ => true
  | .ret _ _ => true
  | .loop _ _ _ => true
  | _ => false

/-- The slot right after an instruction has issued, before its effect: pace, hints, latches, the next pc, dataflow (R57, R64,
R159). -/
def SlotSt.issued (sl : SlotSt) (h : Hdr) (i : Instr) (off : Bool) (kind id : Nat) : SlotSt :=
  let sl' := sl.countMiss kind
  let p := profile i
  let fed := sl.fedBy (readRegs sl h i off)
  { sl' with
    pc := sl.pc + 16
    gap := h.pace.toNat + 1
    hist := histAfter sl h p off
    inflight := if off then sl.inflight else sl.inflight ++ inflightOf sl h p id
    undo := undoAfter sl i off id
    latA := if off then sl.latA else latchOf sl p.a sl.latA
    latB := if off then sl.latB else latchOf sl p.b sl.latB
    latC := if off then sl.latC else latchOf sl p.c sl.latC
    flow := if off then sl.flow else flowAfter sl i fed id
    fed
    turned := if turns i then (sl.turned ++ fed).eraseDups else sl.turned }

/-- The slot was picked (R49). -/
def picked (s : State) (yld : Bool) : State :=
  modCore s s.core fun k => { k with rr := s.slot, last := s.slot, yielded := yld }

/-- An instruction issued that traps: its pace and its yield bit count, and it leaves nothing else (R49, R64, R65, R171). -/
def tried (s : State) (h : Hdr) : State :=
  modCur (picked s h.yld) fun q => { q with gap := h.pace.toNat + 1 }

/-! ### The issue of an instruction (R75) -/

/-- What decides an instruction's fate before its effect: the trap it takes, the PAGE that a notice left for it (R340), or
whether it is off, with its hint kind. -/
inductive Verdict where
  | trap (t : Trap)
  | hint (kind : Nat)
  | paged (t : Trap)
  | off (kind : Nat)
  | on (kind : Nat)
  deriving DecidableEq, Repr

/-- Steps 3 to 7 of R75, and a PAGE left for the instruction. -/
def verdict (s : State) (sl : SlotSt) (k : TaskSt) (h : Hdr) (p : Profile) : Verdict :=
  match p.feats.find? fun b => !(getCore s s.core).feat.getLsbD b with
  | some b => .trap { cause := .featureAbsent, detail := b }
  | none =>
    let kind := hintKind sl h p (guardOff sl h p)
    if kind ≠ 0 && sl.strict && sl.level = k.level0 then .hint kind
    else match sl.poisoned (physRegs sl.bank [.p h.guard.val]) with
      | some a => .trap { cause := .poison, addr := BitVec.ofNat 64 a }
      | none =>
        if guardOff sl h p then .off kind
        else
          let src := if p.vec && sl.mask h = 0 then [] else physRegs sl.bank p.sources
          match sl.poisoned src with
          | some a => .trap { cause := .poison, addr := BitVec.ofNat 64 a }
          | none => match sl.mark with
            | some t => .paged t
            | none => .on kind

/-- An instruction issued from the current slot: the checks of R75, then the effect that the entry gives it. The effect
gets the state in which the instruction has issued, and the name of its operation. A trap is precise: it starts from the
state before the issue. DESIGN CHOICE: a trap of steps 1 to 7 of R75, taken when the slot is picked, leaves neither pace nor
yield, since the word has no effect; one that comes later leaves both. DESIGN CHOICE: a YIELD that its guard turns off marks
the slot as yielded only by its yield bit: R49 counts it as the last instruction issued, R12 gives it no effect (log 56). -/
def issue (i : Instr) (h : Hdr) (s : State) (body : Nat → State → Eff) : Host.Outcome State Fault Refusal :=
  match curSlot s with
  | none => .fault .noTask
  | some sl =>
    match getTask s sl.task with
    | none => .fault .noTask
    | some k =>
      let p := profile i
      match verdict s sl k h p with
      | .trap t => .next (raiseTrap (picked s false) s.core s.slot { t with word := wordOf i })
      | .hint kind =>
        let s := modCur (picked s false) fun q => q.countMiss kind
        .next (raiseTrap s s.core s.slot { cause := .hintMiss, detail := kind, word := wordOf i })
      | .paged t => .next (raiseMarked (tried s h) s.core s.slot { t with word := wordOf i })
      | .off kind => .next (modCur (picked s h.yld) fun q => q.issued h i true kind s.seq)
      | .on kind =>
        let s' := { modCur (picked s h.yld) (fun q => q.issued h i false kind s.seq) with seq := s.seq + 2 }
        match body s.seq s' with
        | .ok t => .next t
        | .trap t => .next (raiseTrap (tried s h) s.core s.slot { t with word := wordOf i })
        | .fail f => .next (raiseFail (tried s h) s.core s.slot f (wordOf i))

/-- An instruction whose whole effect is on its own slot. -/
def issueSlot (i : Instr) (h : Hdr) (s : State) (f : SlotSt → SlotSt) : Host.Outcome State Fault Refusal :=
  issue i h s fun _ s => .ok (modCur s f)

end Sys2Proof.Machine
end

