-- ==== Sys2Proof/Machine/Fetch.lean ====
section
/-!
DEFINITION. Fetching and choosing an instruction: code bounds, the instruction cache, the issue choice, one core cycle
(R49, R50, R57, R64, R66, R73, R75, R160, R212, R237, R323 to R325).
-/
set_option Elab.async false
namespace Sys2Proof.Machine

/-! ### Code bounds (R323, R324) -/

/-- The bounds of the code that runs in a slot: low and limit; none for firmware code, which is never translated. -/
def codeBounds (s : State) (c : Nat) (sl : SlotSt) (k : TaskSt) : Option (Nat × Nat) :=
  let core := getCore s c
  let win (lo hi : Word) : Option (Nat × Nat) := some (fld lo 55 4 * 16, fld hi 55 4 * 16)
  if sl.level = k.level0 then
    if sl.inh && sl.upcall then win core.upcode core.uplimit
    else match tget s.launches k.launch with
      | some l => some (l.r.code.toNat, l.r.limit.toNat)
      | none => some (0, 0)
  else if sl.level = 1 then win core.rtcode core.rtlimit
  else none

/-- FETCH-BOUNDS, if the pc lies outside the bounds (R323). -/
def boundsTrap (s : State) (c : Nat) (sl : SlotSt) (k : TaskSt) : Option Trap :=
  match codeBounds s c sl k with
  | none => none
  | some (lo, hi) =>
    if sl.pc.toNat < lo then some { cause := .fetchBounds, detail := 0, addr := sl.pc }
    else if hi ≤ sl.pc.toNat then some { cause := .fetchBounds, detail := 1, addr := sl.pc }
    else none

/-! ### The instruction cache (R50, R325): 256 blocks a cluster, the least recently used leaving (log 10) -/

/-- The tag that a slot fetches under: its ASID, or none for firmware code. -/
def fetchTag (s : State) (c : Nat) (sl : SlotSt) (k : TaskSt) : Option Nat :=
  if (codeBounds s c sl k).isNone then none else some k.asid

def blockFind (s : State) (cl : Nat) (tag : Option Nat) (blk : Nat) : Option IBlock :=
  (getCluster s cl).icache.find? fun b => b.asid = tag && b.blk = blk

def blockAdd (s : State) (cl : Nat) (b : IBlock) : State :=
  modCluster s cl fun u =>
    { u with icache := b :: (u.icache.filter fun x => !(x.asid = b.asid && x.blk = b.blk)).take 255 }

/-- Where a block lies, its page permitting execution; firmware code lies at its own address (R152, R153, R319). -/
def blockAt (s : State) (tag : Option Nat) (blk : Nat) : Except Fail (State × Seg) :=
  match tag with
  | none => .ok (s, ⟨64 * blk, 64 * blk, 64, false, 0, false⟩)
  | some asid => reachPart s asid (64 * blk) 64 .fetch true

/-- The slice touched by a fetch, under the mask that the request carries (R192, R193). -/
def fetchTouch (s : State) (tag : Option Nat) (g : Seg) (mask : Option Word) : State :=
  match tag with
  | none => s
  | some asid => touchSlice s asid (g.va / 128) g.cls mask

/-- A block read from the slice. -/
def blockRead (s : State) (tag : Option Nat) (blk pa : Nat) : IBlock :=
  ⟨tag, blk, BitVec.ofNat 512 (natOf (slRead s tag pa 64)), memBad s pa 64⟩

/-- A word of a block: its bytes from 16·(pc/16) up (R56). -/
def IBlock.word (b : IBlock) (pc : Nat) : BitVec 128 := b.data.extractLsb' (8 * (pc % 64)) 128

/-- The instruction that a word holds; a word that is none is ILLEGAL (R74). -/
def instrOf (w : BitVec 128) : Instr :=
  match decode w with
  | .ok i => i
  | .error _ => .illegal w

/-! ### What a slot would do now -/

inductive Plan where
  | wait                       -- not eligible
  | miss (blk : Nat)           -- its fetch block is asked for
  | fault (f : Fail)           -- a trap of step 1
  | run (i : Instr)
  deriving DecidableEq, Repr

/-- Whether an instruction is an ordered operation of a stream, an inherited command, or enters the matrix queue. -/
def ordOf? : Instr → Option Ord
  | .ld _ o _ _ _ _ _ => some o
  | .st _ o _ _ _ _ => some o
  | .ldv _ o _ _ _ => some o
  | .stv _ o _ _ _ => some o
  | .ldro _ o _ _ _ _ _ => some o
  | .ldg _ o _ _ _ _ _ _ => some o
  | .sts _ o _ _ _ _ _ _ => some o
  | .tblld _ o src _ _ _ => if src = .mem then some o else none
  | .amo _ o _ _ _ _ _ _ _ => some o
  | .cas _ o _ _ _ _ _ _ => some o
  | .wbr _ o _ _ _ _ => some o
  | .invr _ o _ _ _ _ => some o
  | .invrRo _ o _ _ _ _ => some o
  | .wbinvr _ o _ _ _ _ => some o
  | .zeror _ o _ _ _ _ => some o
  | .lockl _ o _ _ _ _ => some o
  | .unlockl _ o _ _ _ _ => some o
  | .cpy _ o _ _ _ _ _ => some o
  | .cpyi _ o _ _ _ _ _ => some o
  | .gather _ o _ _ _ _ _ _ _ => some o
  | .scatter _ o _ _ _ _ _ _ _ => some o
  | .halo _ o _ _ _ _ => some o
  | .cpyq _ o _ _ => some o
  | .send _ o _ _ _ _ _ => some o
  | .sendi _ o _ _ _ _ _ => some o
  | .cntrd _ o _ _ => some o
  | .cntadd _ o _ _ _ _ _ => some o
  | .cntset _ o _ _ => some o
  | .arm _ o _ _ _ => some o
  | .launch _ o _ _ _ => some o
  | .exch _ o _ _ _ => some o
  | .nsend _ o _ _ => some o
  | .mtbl _ o src _ _ _ => if src = .mem then some o else none
  | .mlda _ o _ _ _ => some o
  | .mldb _ o _ _ _ => some o
  | .mdrain _ o _ _ _ _ _ _ _ => some o
  | .mcmd _ o _ _ => some o
  | .kstage _ o _ _ _ => some o
  | .kstageU _ o _ _ => some o
  | .ksend _ o _ _ _ => some o
  | .ksendt _ o _ _ _ _ => some o
  | .trylk _ o _ _ _ => some o
  | .unlk _ o _ _ _ => some o
  | .qpusht _ o _ _ _ _ => some o
  | .qpopt _ o _ _ _ _ => some o
  | .bararr _ o _ _ _ _ => some o
  | .bartry _ o _ _ _ _ => some o
  | .parkLk _ o _ _ => some o
  | .parkQn _ o _ _ => some o
  | .parkQs _ o _ _ => some o
  | .parkBar _ o _ _ _ => some o
  | .parkRp _ o _ _ => some o
  | _ => none

/-- Inherited engine commands (R160, R205, R228, R253, R277). -/
def isCommand : Instr → Bool
  | .cpy _ _ _ _ _ _ _ => true
  | .cpyi _ _ _ _ _ _ _ => true
  | .gather _ _ _ _ _ _ _ _ _ => true
  | .scatter _ _ _ _ _ _ _ _ _ => true
  | .halo _ _ _ _ _ _ => true
  | .exch _ _ _ _ _ => true
  | .mcmd _ _ _ _ => true
  | .ksend _ _ _ _ _ => true
  | .ksendt _ _ _ _ _ _ => true
  | _ => false

/-- The functions that enter the matrix queue (R237). -/
def entersQueue : Instr → Bool
  | .mfmt _ _ _ => true
  | .mtbl _ _ _ _ _ _ => true
  | .mring _ _ _ => true
  | .mlda _ _ _ _ _ => true
  | .mldb _ _ _ _ _ => true
  | .mma _ _ => true
  | .mmas _ _ => true
  | .mskip _ _ => true
  | .mskipOff _ => true
  | .mrot _ => true
  | .mzero _ _ => true
  | .mdrain _ _ _ _ _ _ _ _ _ => true
  | .mcap _ _ _ => true
  | .mcapRev _ _ => true
  | .mstat _ _ _ => true
  | .mstatU _ _ => true
  | _ => false

/-- A control-register read that has to see the SCOPEMISS of earlier accesses (R98). -/
def readsTstat : Instr → Bool
  | .crrd _ _ .tstat => true
  | .crwr _ _ .tstat => true
  | .crset _ _ _ .tstat => true
  | .crclr _ _ _ .tstat => true
  | _ => false

/-- Whether a direct operation stores to the local window of a core (R249). -/
def storesLocal (k : CoreSt) (o : MemOp) : Bool :=
  match o.kind with
  | .store (.loc _ _) _ _ => true
  | .storeV (.loc _ _) _ _ => true
  | .scatterL _ _ _ => true
  | .amo (.loc _ _) _ _ _ _ _ => true
  | .cas (.loc _ _) _ _ _ _ _ => true
  | .zeror ls _ _ => ls.any fun l => match l with | .loc _ _ => true | .glob _ _ => false
  | .matrix e => k.mq.any fun q => q.id = e && (match q.kind with | .mdrain _ _ _ _ _ _ _ => true | _ => false)
  | _ => false

/-- Whether performing an operation may set SCOPEMISS: an acquire, and the barrier arrival that may open its barrier (R166,
R364). -/
def MemOp.setsMiss (o : MemOp) : Bool :=
  o.sync ≠ .none || (match o.kind with | .bararr _ _ _ => true | _ => false)

/-- The instructions that act on the waiting-task table. -/
def usesTable : Instr → Bool
  | .wtset _ _ _ _ _ _ => true
  | .wtsetS _ _ _ _ _ _ => true
  | .wtsetL _ _ _ _ _ _ => true
  | .wtclr _ _ _ => true
  | _ => false

def setsSkip : Instr → Bool
  | .mskip _ _ => true
  | _ => false

/-- The waits that make a slot ineligible for a well-formed instruction without counting an event (R49, R66, R98, R160,
R237). The table takes what arms and clears its entries before it fires in a router cycle (R45). The last one keeps an
instruction that acts outside its slot behind the operations that would trap, since what issues after such an operation has no
effect (R171; log 32). -/
def mustWait (s : State) (c : Nat) (sl : SlotSt) (i : Instr) (h : Hdr) : Bool :=
  sl.waits h ||
    (!guardOff sl h (profile i) &&
      (sl.sbFull h || (match ordOf? i with
        | some o => 63 ≤ streamCount s sl.task o.stream.val
        | none => false)
      || (isCommand i && 16 ≤ (outstanding s sl.task).length)
      || (entersQueue i && 8 ≤ (getCore s c).mq.length)
      || (setsSkip i && sl.ops.any fun o => storesLocal (getCore s c) o)
      || (readsTstat i && sl.ops.any fun o => o.setsMiss)
      || (usesTable i && tableFired s c)
      || ((profile i).fx && trapsAhead s c sl s.seq)))

/-- Whether the word would trap at step 3 of R75, or under strict hints (R73, R322). -/
def trapsEarly (s : State) (c : Nat) (i : Instr) : Bool :=
  match hdrOf i with
  | none => true
  | some _ => (profile i).feats.any fun b => !(getCore s c).feat.getLsbD b

/-- Whether the word would record a hint miss under strict hints (R73). DESIGN CHOICE: where the guard of the word is itself
still to be written by a variable producer, the other dependences are judged with the value that the guard has now; the spec
does not say which kind is recorded then (log 34). -/
def strictMiss (sl : SlotSt) (k : TaskSt) (i : Instr) (h : Hdr) : Bool :=
  sl.strict && sl.level = k.level0 && hintKind sl h (profile i) (guardOff sl h (profile i)) ≠ 0

/-- An instruction at a slot that is ready by its pace: eligible or not (R49, R73, R75). -/
def planInstr (s : State) (c : Nat) (sl : SlotSt) (k : TaskSt) (i : Instr) : Plan :=
  match hdrOf i with
  | none => .run i
  | some h =>
    if trapsEarly s c i then .run i
    else if mustWait s c sl i h then .wait
    else if strictMiss sl k i h then .run i
    else if shadowReady sl h (profile i) (guardOff sl h (profile i)) then .run i
    else .wait

/-- The word at a streamer's microcode store (R199). -/
def microWord (s : State) (c pc : Nat) : BitVec 128 :=
  BitVec.ofNat 128 (rdNat ((tget s.micro (c - hartBase)).getD []) (pc % 65536) 16)

/-- A failed fetch: the address is the PC, and the detail is 1 whatever failed (R325, R334). -/
def fetchFail (pc : Word) : Fail → Fail
  | .trap t => .trap { t with addr := pc, detail := 1 }
  | .page va t => .page va { t with addr := pc, detail := 1 }
  | .stage2 va g t => .stage2 va g { t with addr := pc, detail := 1 }

/-- What a slot would do in this core cycle. A core of no cluster has no instruction cache and fetches at the slice (R17). -/
def planSlot (s : State) (c : Nat) (sl : SlotSt) : Plan :=
  match getTask s sl.task with
  | none => .wait
  | some k =>
    if sl.hold ≠ .none || sl.frozen.isSome || sl.gap ≠ 0 then .wait
    else if isHart c then planInstr s c sl k (instrOf (microWord s c sl.pc.toNat))
    else match boundsTrap s c sl k with
      | some t => .fault (.trap t)
      | none =>
        let tag := fetchTag s c sl k
        let blk := sl.pc.toNat / 64
        if uncached c then
          match blockAt s tag blk with
          | .ok (u, g) =>
            let b := blockRead u tag blk g.pa
            if b.bad then .fault (.trap { cause := .poison, detail := 1, addr := sl.pc })
            else planInstr s c sl k (instrOf (b.word sl.pc.toNat))
          | .error e => .fault (fetchFail sl.pc e)
        else match blockFind s (clusterOf s c) tag blk with
          | none =>
            (match blockAt s tag blk with
             | .ok _ => .miss blk
             | .error e => .fault (fetchFail sl.pc e))
          | some b =>
            if b.bad then .fault (.trap { cause := .poison, detail := 1, addr := sl.pc })
            else planInstr s c sl k (instrOf (b.word sl.pc.toNat))

/-! ### One core cycle -/

/-- Paces and fixed latencies count down (R49, R64, R68). -/
def ageSlot (sl : SlotSt) : SlotSt :=
  { sl with
    gap := sl.gap - 1
    inflight := sl.inflight.filterMap fun e => match e.left with
      | none => some e
      | some n => if n ≤ 1 then none else some { e with left := some (n - 1) } }

/-- Whether the core's arithmetic clock runs and issue is not held (R288, R292, R365, R375). -/
def clockRuns (s : State) (c : Nat) : Bool :=
  let k := getCore s c
  k.op ≠ 0 && !(getDie s (dieKey c)).holding && !k.halted && !k.freezing && s.now ≥ k.settle

/-- The SLEEP that a slot breaks off: its counter and its register (R105). -/
def brokenSleep (s : State) (c i : Nat) : Option (Nat × Nat) :=
  match slotAt s c i with
  | none => none
  | some sl => match sl.hold with
    | .sleep ctr _ _ _ dst => some (ctr, dst)
    | _ => none

/-- What pre-emption makes of a slot that stands at a boundary: a SLEEP is broken off, a KSEND that holds its slot undone
(R52, R105, R268). -/
def beginPreempt (s : State) (c i : Nat) : State :=
  holdThen (undoKsend s c i) c i (.preempt (brokenSleep s c i))

/-- Whether a hold stands at an instruction boundary. -/
def Hold.atBoundary : Hold → Bool
  | .none => true
  | .sleep _ _ _ _ _ => true
  | .ksendFull _ => true
  | _ => false

/-- The holds of a slot met, a pre-emption request taken at the boundary, a pending user-level interrupt taken. -/
def boundary (s : State) (c i : Nat) : State :=
  let s := settleHold s c i
  match slotAt s c i with
  | none => s
  | some sl =>
    match getTask s sl.task with
    | none => s
    | some k =>
      if sl.preReq.isSome && sl.hold.atBoundary && sl.level = k.level0 && !sl.inh then beginPreempt s c i
      else if userIntReady s sl then takeUserInt s c i
      else s

/-- A slot whose fetch misses is frozen until the block arrives, one schedule slip (R50). -/
def freezeMiss (s : State) (c i : Nat) : State :=
  match slotAt s c i with
  | none => s
  | some sl =>
    match planSlot s c sl with
    | .miss blk => setSlot s c i { sl with frozen := some blk, fmask := coreMask s c, slips := satInc sl.slips }
    | _ => s

def prioOf (s : State) (sl : SlotSt) : Nat :=
  match getTask s sl.task with
  | some k => k.prio
  | none => 0

/-- What a core cycle comes to: nothing to issue, or the slot chosen and what it does. -/
inductive Choice where
  | idle
  | pick (slot : Nat) (p : Plan)
  deriving DecidableEq, Repr

/-- The eligible slots with their plans. -/
def eligible (s : State) (c : Nat) : List (Nat × Nat × Plan) :=
  (getCore s c).slots.filterMap fun e => match planSlot s c e.2 with
    | .run i => some (e.1, prioOf s e.2, .run i)
    | .fault f => some (e.1, prioOf s e.2, .fault f)
    | .wait => none
    | .miss _ => none

/-- The choice of R49. -/
def choose (s : State) (c : Nat) : Choice :=
  let k := getCore s c
  let el := eligible s c
  let top := el.foldl (fun m e => Nat.max m e.2.1) 0
  let cand := el.filter fun e => e.2.1 = top
  let cand := if k.yielded && 1 < cand.length then cand.filter fun e => e.1 ≠ k.last else cand
  match (upFrom 1 (slotsOf c)).findSome? fun d => cand.find? fun e => e.1 = (k.rr + d) % slotsOf c with
  | some e => .pick e.1 e.2.2
  | none => .idle

/-- Whether the instruction at a slot's pc executes now: a trap of steps 1 to 7 of R75 comes before that. -/
def executes (s : State) (sl : SlotSt) (k : TaskSt) (i : Instr) : Bool :=
  match hdrOf i with
  | none => false
  | some h => match verdict s sl k h (profile i) with
    | .paged _ => true
    | .off _ => true
    | .on _ => true
    | .trap _ => false
    | .hint _ => false

/-- The mark that a notice left for the instruction at a slot's pc goes to the slot as the instruction executes, and lasts no
longer; p: what the slot does (R340). -/
def takeMark (s : State) (c i : Nat) (p : Plan) : State :=
  match slotAt s c i with
  | none => s
  | some sl =>
    match getTask s sl.task with
    | none => s
    | some k =>
      if k.marks.isEmpty && sl.mark.isNone then s
      else
        let q := { sl with mark := (k.marks.find? fun m => m.1 = sl.pc).map fun m => m.2 }
        let goes := match p with
          | .run ins => executes s q k ins
          | .fault (.trap _) => false
          | .fault _ => true
          | .wait => false
          | .miss _ => false
        if goes then setSlot (setTask s sl.task { k with marks := k.marks.filter fun m => m.1 ≠ sl.pc }) c i q
        else setSlot s c i { sl with mark := none }

/-- The slice touched by the fetch of a core that has no instruction cache. -/
def fetchDirect (s : State) (c i : Nat) : State :=
  if !uncached c || isHart c then s
  else match slotAt s c i with
    | none => s
    | some sl => match getTask s sl.task with
      | none => s
      | some k =>
        let tag := fetchTag s c sl k
        match blockAt s tag (sl.pc.toNat / 64) with
        | .ok (s, g) => fetchTouch s tag g (coreMask s c)
        | .error _ => s

/-- A core's cycle up to the instruction that it issues: the state, and that instruction if there is one. -/
def coreTurn (s : State) (c : Nat) : State × Option Instr :=
  let s := (below (slotsOf c)).foldl (fun s i => boundary s c i) s
  if !clockRuns s c then (s, none)
  else
    let s := modCore s c fun k => { k with slots := k.slots.map fun e => (e.1, ageSlot e.2) }
    let s := (below (slotsOf c)).foldl (fun s i => freezeMiss s c i) s
    match choose s c with
    | .idle => (s, none)
    | .pick i p =>
      let s := { s with core := c, slot := i }
      match p with
      | .run ins => (fetchDirect (takeMark s c i p) c i, some ins)
      | .fault f => (raiseFail (picked (takeMark s c i p) false) c i f 0, none)
      | .wait => (s, none)
      | .miss _ => (s, none)

/-! ### Fills (R50, R93) -/

/-- The fetch requests pending in a cluster. -/
def pendingFetches (s : State) (cl : Nat) : List Nat :=
  ((coresAt s cl).map fun c => (getCore s c).slots.filterMap fun e => e.2.frozen).flatten

/-- A fetch block delivered to every slot of the cluster that waits for it, when it is the lowest requested (R50). -/
def fillBlock (s : State) (c i : Nat) : State :=
  match slotAt s c i with
  | none => s
  | some sl =>
    match sl.frozen, getTask s sl.task with
    | some blk, some k =>
      let cl := clusterOf s c
      if (pendingFetches s cl).any fun b => b < blk then s
      else
        let tag := fetchTag s c sl k
        let s := match blockAt s tag blk with
          | .ok (s, g) => blockAdd (fetchTouch s tag g sl.fmask) cl (blockRead s tag blk g.pa)
          | .error _ => s
        (coresAt s cl).foldl (fun s q =>
          (getCore s q).slots.foldl (fun s e => modSlot s q e.1 fun x => { x with
            frozen := match getTask s x.task with
              | some m => if x.frozen = some blk && fetchTag s q x m = tag then none else x.frozen
              | none => x.frozen }) s) s
    | _, _ => s

end Sys2Proof.Machine
end

