-- ==== Sys2Proof/Machine/Control.lean ====
section
/-!
DEFINITION. Class 1: control transfer, END, YIELD, IPF (R87 to R93). The pc of the slot has moved past the word when the
effect begins, so the pc of the transfer itself is 16 less.
-/
set_option Elab.async false
namespace Sys2Proof.Machine

/-- A PC-relative target (R87). -/
def relTarget (pc : Word) (imm : BitVec 48) : Word := pc + sext64 imm * 16

/-- A register target: bits [3:0] cleared (R87). -/
def regTarget (a : Word) (imm : BitVec 48) : Word := (a + sext64 imm) &&& ~~~ (15 : Word)

/-- The test of BR (R89). -/
def brTaken (t : BrTest) (inv : Bool) (p : Pred) : Bool :=
  let r := match t with
    | .l0 => p.getLsbD 0
    | .any => p ≠ 0
    | .all => p = 0xFF
  r != inv

/-- BR: a PC-relative branch if the test holds (R89). -/
def execBr (h : Hdr) (p : PReg) (t : BrTest) (inv : Bool) (imm : BitVec 48) (s : State) : Host.Outcome State Fault Refusal :=
  issueSlot (.br h p t inv imm) h s fun sl =>
    if brTaken t inv (sl.p p.val) then { sl with pc := relTarget (sl.pc - 16) imm } else sl

/-- BRI: a branch to a register (R88). -/
def execBri (h : Hdr) (a : XReg) (imm : BitVec 48) (s : State) : Host.Outcome State Fault Refusal :=
  issueSlot (.bri h a imm) h s fun sl => { sl with pc := regTarget (sl.x a.val) imm }

/-- CALL: the link in x31, then a PC-relative branch (R88). -/
def execCall (h : Hdr) (imm : BitVec 48) (s : State) : Host.Outcome State Fault Refusal :=
  issueSlot (.call h imm) h s fun sl => { sl.setX 31 sl.pc with pc := relTarget (sl.pc - 16) imm }

/-- CALLI: the target from the old register, then the link in x31 (R88). -/
def execCalli (h : Hdr) (a : XReg) (imm : BitVec 48) (s : State) : Host.Outcome State Fault Refusal :=
  issueSlot (.calli h a imm) h s fun sl => { sl.setX 31 sl.pc with pc := regTarget (sl.x a.val) imm }

/-- RET: a branch to a register (R88). -/
def execRet (h : Hdr) (a : XReg) (s : State) : Host.Outcome State Fault Refusal :=
  issueSlot (.ret h a) h s fun sl => { sl with pc := regTarget (sl.x a.val) 0 }

/-- LOOP: decrement, and branch while the count is not zero (R90). -/
def execLoop (h : Hdr) (a : XReg) (imm : BitVec 48) (s : State) : Host.Outcome State Fault Refusal :=
  issueSlot (.loop h a imm) h s fun sl =>
    let cnt := sl.x a.val - 1
    let sl' := sl.setX a.val cnt
    if cnt ≠ 0 then { sl' with pc := relTarget (sl.pc - 16) imm } else sl'

/-- END: the task ends once its direct accesses are performed (R91). DESIGN CHOICE: it does so at every level; the rule gives
END at task and runtime level only (log 56). -/
def execEndTask (h : Hdr) (s : State) : Host.Outcome State Fault Refusal :=
  issue (.endTask h) h s fun _ s => .ok (holdThen s s.core s.slot .ending)

/-- YIELD: the slot is marked as yielded (R92). -/
def execYieldSlot (h : Hdr) (s : State) : Host.Outcome State Fault Refusal :=
  issue (.yieldSlot h) h s fun _ s => .ok (modCore s s.core fun k => { k with yielded := true })

/-- Lines or blocks asked for, each under a fresh name (R93, R174). -/
def askFor (s : State) : List Prefetch → State
  | [] => s
  | p :: ps => askFor { bump s with fetches := tset s.fetches s.seq p } ps

/-- The blocks that IPF asks for: those that hold words of the launch's code (R93). -/
def ipfBlocks (s : State) (sl : SlotSt) (n : BitVec 4) (imm : BitVec 48) : List Prefetch :=
  match getTask s sl.task with
  | none => []
  | some k =>
    match tget s.launches k.launch with
    | none => []
    | some l =>
      let b0 := (relTarget (sl.pc - 16) imm).toNat / 64
      ((upFrom b0 (n.toNat + 1)).filter fun b => l.r.code.toNat < 64 * b + 64 && 64 * b < l.r.limit.toNat).map
        fun b => .code s.core k.asid b (coreMask s s.core)

/-- IPF: fetch blocks asked for (R93). -/
def execIpf (h : Hdr) (n : BitVec 4) (imm : BitVec 48) (s : State) : Host.Outcome State Fault Refusal :=
  issue (.ipf h n imm) h s fun _ s => match curSlot s with
    | some sl => .ok (askFor s (ipfBlocks s sl n imm))
    | none => .ok s

end Sys2Proof.Machine
end

