-- ==== Sys2Proof/Machine/Num.lean ====
section
/-!
DEFINITION. Number formats and rounding (R107 to R121): every operation is exact first and rounded once at the end.
-/
set_option Elab.async false
namespace Sys2Proof.Machine

/-- A value of a floating format. fin n m e is (-1)^n · m · 2^e; m = 0 is a signed zero. -/
inductive FVal where
  | nan (sig : Bool)
  | inf (neg : Bool)
  | fin (neg : Bool) (m : Nat) (e : Int)
  deriving DecidableEq, Repr

/-- A binary format: widths of exponent and fraction, the bias, and whether it has subnormals (R109, R113, R115). -/
structure Fmt where
  eb  : Nat
  fb  : Nat
  bias : Int
  sub : Bool
  deriving DecidableEq, Repr

def fmtF32 : Fmt := ⟨8, 23, 127, true⟩
def fmtF16 : Fmt := ⟨5, 10, 15, true⟩
def fmtBF16 : Fmt := ⟨8, 7, 127, true⟩
def fmtE8M12 : Fmt := ⟨8, 12, 127, false⟩
def fmtF40 : Fmt := ⟨8, 31, 127, false⟩

def FTy.fmt : FTy → Fmt
  | .f32 => fmtF32
  | .f16 => fmtF16
  | .bf16 => fmtBF16

def CTy.fmt : CTy → Fmt
  | .f32 => fmtF32
  | .f16 => fmtF16
  | .bf16 => fmtBF16
  | .e8m12 => fmtE8M12

/-- The bits above the fraction and exponent are not read (R113, R115). -/
def Fmt.decode (f : Fmt) (b : Nat) : FVal :=
  let frac := b % 2 ^ f.fb
  let ex := b / 2 ^ f.fb % 2 ^ f.eb
  let neg := bitN b (f.eb + f.fb)
  if ex = 2 ^ f.eb - 1 then
    (if frac = 0 then .inf neg else .nan (!bitN frac (f.fb - 1)))
  else if ex = 0 then
    (if f.sub then .fin neg frac (1 - f.bias - f.fb) else .fin neg 0 0)
  else .fin neg (2 ^ f.fb + frac) (ex - f.bias - f.fb)

/-- The canonical quiet NaN, sign 0 (R110). -/
def Fmt.qnan (f : Fmt) : Nat := (2 ^ f.eb - 1) * 2 ^ f.fb + 2 ^ (f.fb - 1)

def Fmt.signed (f : Fmt) (neg : Bool) (mag : Nat) : Nat := boolN neg * 2 ^ (f.eb + f.fb) + mag

def Fmt.infBits (f : Fmt) (neg : Bool) : Nat := f.signed neg ((2 ^ f.eb - 1) * 2 ^ f.fb)

def Fmt.maxBits (f : Fmt) (neg : Bool) : Nat := f.signed neg ((2 ^ f.eb - 1) * 2 ^ f.fb - 1)

/-- FPSTAT bits (R112, R125). -/
abbrev Flags := BitVec 5
def flNV : Flags := 16
def flDZ : Flags := 8
def flOF : Flags := 4
def flUF : Flags := 2
def flNX : Flags := 1

/-- A nonzero exact value: its magnitude lies in [m · 2^e, (m + 1) · 2^e), at the left end unless sticky is set. -/
structure Exact where
  neg : Bool
  m : Nat
  e : Int
  sticky : Bool
  deriving DecidableEq, Repr

/-- Whether a mode rounds a magnitude up, from the last bit kept, the part cut off against a half, and inexactness
(R111). cmp: 0 below half, 1 exactly half, 2 above. -/
def roundsUp (rm : Rnd) (neg odd : Bool) (cmp : Nat) (inexact : Bool) : Bool :=
  match rm with
  | .rne => cmp = 2 || (cmp = 1 && odd)
  | .rtz => false
  | .rdn => neg && inexact
  | .rup => !neg && inexact

/-- A magnitude cut at a quantum of 2^q: the rounded multiple and whether anything was lost. -/
def cutAt (rm : Rnd) (x : Exact) (q : Int) : Nat × Bool :=
  if q ≤ x.e then (x.m * 2 ^ (x.e - q).toNat, x.sticky)
  else
    let sh := Nat.min (q - x.e).toNat (x.m.log2 + 3)
    let k := x.m / 2 ^ sh
    let r := x.m % 2 ^ sh
    let half := 2 ^ (sh - 1)
    let cmp := if r < half then 0 else if r = half && !x.sticky then 1 else 2
    let inexact := r != 0 || x.sticky
    (if roundsUp rm x.neg (k % 2 = 1) cmp inexact then k + 1 else k, inexact)

/-- Rounding of a nonzero value into a format (R111), with its flags (R112). Tininess is detected after rounding. -/
def Fmt.round (f : Fmt) (rm : Rnd) (x : Exact) : Nat × Flags :=
  let p := f.fb + 1
  let q := x.e + (x.m.log2 : Int) + 1 - p
  let (k0, lost) := cutAt rm x q
  let (k, q) := if k0 = 2 ^ p then (2 ^ (p - 1), q + 1) else (k0, q)
  let ex := q + p - 1
  if ex > f.bias then
    let big := match rm with
      | .rne => true
      | .rtz => false
      | .rdn => x.neg
      | .rup => !x.neg
    (if big then f.infBits x.neg else f.maxBits x.neg, flOF ||| flNX)
  else if ex < 1 - f.bias then
    if f.sub then
      let (k, lost) := cutAt rm x (1 - f.bias - f.fb)
      (f.signed x.neg k, if lost then flUF ||| flNX else 0)
    else (f.signed x.neg 0, flUF ||| flNX)
  else
    (f.signed x.neg ((ex + f.bias).toNat * 2 ^ f.fb + (k - 2 ^ f.fb)), if lost then flNX else 0)

/-- A result before rounding. -/
inductive Res where
  | val (v : FVal)
  | approx (x : Exact)
  deriving DecidableEq, Repr

/-- The bits of a result in a format (R110, R111). -/
def Fmt.pack (f : Fmt) (rm : Rnd) : Res → Nat × Flags
  | .val (.nan _) => (f.qnan, 0)
  | .val (.inf n) => (f.infBits n, 0)
  | .val (.fin n 0 _) => (f.signed n 0, 0)
  | .val (.fin n m e) => f.round rm ⟨n, m, e, false⟩
  | .approx x => f.round rm x

def FVal.isNan : FVal → Bool
  | .nan _ => true
  | _ => false

def FVal.isSig : FVal → Bool
  | .nan s => s
  | _ => false

def FVal.isZero : FVal → Bool
  | .fin _ 0 _ => true
  | _ => false

def FVal.neg : FVal → Bool
  | .nan _ => false
  | .inf n => n
  | .fin n _ _ => n

def FVal.negate : FVal → FVal
  | .nan s => .nan s
  | .inf n => .inf (!n)
  | .fin n m e => .fin (!n) m e

/-- NV for the signalling NaNs that an operation reads (R112). -/
def sigFlags (vs : List FVal) : Flags := if vs.any FVal.isSig then flNV else 0

def qNaN : FVal := .nan false

def signedM (neg : Bool) (m : Nat) : Int := if neg then -(m : Int) else m

/-- The exact sum of two finite values; a zero sum of opposite signs takes its sign from the mode (R111). -/
def addFin (rm : Rnd) (n1 : Bool) (m1 : Nat) (e1 : Int) (n2 : Bool) (m2 : Nat) (e2 : Int) : FVal :=
  let e := if m1 = 0 then e2 else if m2 = 0 then e1 else min e1 e2
  let s := signedM n1 (if m1 = 0 then 0 else m1 * 2 ^ (e1 - e).toNat)
         + signedM n2 (if m2 = 0 then 0 else m2 * 2 ^ (e2 - e).toNat)
  if s = 0 then .fin (if n1 = n2 then n1 else rm = .rdn) 0 0
  else .fin (s < 0) s.natAbs e

/-- A + B (R128). -/
def addV (rm : Rnd) (a b : FVal) : FVal × Flags :=
  match a, b with
  | .nan _, _ => (qNaN, 0)
  | _, .nan _ => (qNaN, 0)
  | .inf n, .inf k => if n = k then (.inf n, 0) else (qNaN, flNV)
  | .inf n, .fin _ _ _ => (.inf n, 0)
  | .fin _ _ _, .inf n => (.inf n, 0)
  | .fin n m e, .fin k l f => (addFin rm n m e k l f, 0)

/-- A · B (R128). -/
def mulV (a b : FVal) : FVal × Flags :=
  match a, b with
  | .nan _, _ => (qNaN, 0)
  | _, .nan _ => (qNaN, 0)
  | .inf n, .inf k => (.inf (n != k), 0)
  | .inf n, .fin k m _ => if m = 0 then (qNaN, flNV) else (.inf (n != k), 0)
  | .fin n m _, .inf k => if m = 0 then (qNaN, flNV) else (.inf (n != k), 0)
  | .fin n m e, .fin k l f => (.fin (n != k) (m * l) (e + f), 0)

/-- A · B + C, with NV for 0 · inf even beside a quiet NaN (R128). -/
def fmaV (rm : Rnd) (a b c : FVal) : FVal × Flags :=
  let (p, f) := mulV a b
  let (s, g) := addV rm p c
  (s, f ||| g)

/-- Bits of quotients and roots beyond the operands' own: more than twice any format's precision. -/
def guardBits : Nat := 80

/-- A / B (R128). -/
def divV (a b : FVal) : Res × Flags :=
  match a, b with
  | .nan _, _ => (.val qNaN, 0)
  | _, .nan _ => (.val qNaN, 0)
  | .inf _, .inf _ => (.val qNaN, flNV)
  | .inf n, .fin k _ _ => (.val (.inf (n != k)), 0)
  | .fin n _ _, .inf k => (.val (.fin (n != k) 0 0), 0)
  | .fin n m e, .fin k l f =>
    if l = 0 then (if m = 0 then (.val qNaN, flNV) else (.val (.inf (n != k)), flDZ))
    else if m = 0 then (.val (.fin (n != k) 0 0), 0)
    else
      let s := l.log2 + guardBits
      let q := m * 2 ^ s / l
      (.approx ⟨n != k, q, e - f - s, m * 2 ^ s % l != 0⟩, 0)

/-- The whole part of a square root, bit by bit. -/
def sqrtStep (m : Nat) : Nat → Nat → Nat
  | 0, r => r
  | n + 1, r => if (r + 2 ^ n) * (r + 2 ^ n) ≤ m then sqrtStep m n (r + 2 ^ n) else sqrtStep m n r

def isqrt (m : Nat) : Nat := sqrtStep m (m.log2 / 2 + 1) 0

/-- An even exponent below e, and the mantissa scaled to it. -/
def evenExp (m : Nat) (e : Int) : Nat × Int := if e % 2 = 0 then (m, e) else (m * 2, e - 1)

/-- Square root (R130). -/
def sqrtV : FVal → Res × Flags
  | .nan _ => (.val qNaN, 0)
  | .inf n => if n then (.val qNaN, flNV) else (.val (.inf false), 0)
  | .fin n m e =>
    if m = 0 then (.val (.fin n 0 0), 0)
    else if n then (.val qNaN, flNV)
    else
      let (m, e) := evenExp m e
      let s := guardBits
      let r := isqrt (m * 4 ^ s)
      (.approx ⟨false, r, e / 2 - s, r * r != m * 4 ^ s⟩, 0)

/-- 1 / x (R130). -/
def rcpV : FVal → Res × Flags
  | .nan _ => (.val qNaN, 0)
  | .inf n => (.val (.fin n 0 0), 0)
  | .fin n m e => if m = 0 then (.val (.inf n), flDZ) else divV (.fin false 1 0) (.fin n m e)

/-- 1 / square root of x (R130). -/
def rsqV : FVal → Res × Flags
  | .nan _ => (.val qNaN, 0)
  | .inf n => if n then (.val qNaN, flNV) else (.val (.fin false 0 0), 0)
  | .fin n m e =>
    if m = 0 then (.val (.inf n), flDZ)
    else if n then (.val qNaN, flNV)
    else
      let (m, e) := evenExp m e
      let s := m.log2 + guardBits
      let r := isqrt (4 ^ s / m)
      (.approx ⟨false, r, -(e / 2) - s, r * r * m != 4 ^ s⟩, 0)

/-- Fraction bits carried in 2^x and log2 (log 14). -/
def transBits : Nat := 256

/-- 2^(k / 2^n) for k below 2^n, as a fixed-point number of transBits fraction bits, cut down: one square root for each
bit of k from the top. -/
def exp2Frac (k : Nat) : Nat → Nat → Nat → Nat
  | 0, _, acc => acc
  | n + 1, root, acc =>
    let r := isqrt (root * 2 ^ transBits)
    exp2Frac k n r (if bitN k n then acc * r / 2 ^ transBits else acc)

/-- 2^x (R130). Past any format's range the fraction no longer matters. -/
def exp2V : FVal → Res × Flags
  | .nan _ => (.val qNaN, 0)
  | .inf n => (if n then .val (.fin false 0 0) else .val (.inf false), 0)
  | .fin n m e =>
    if m = 0 then (.val (.fin false 1 0), 0)
    else if e ≥ 0 then
      (.approx ⟨false, 1, signedM n (m * 2 ^ (Nat.min e.toNat 16)), false⟩, 0)
    else
      let w := (-e).toNat
      let x := signedM n m
      let i := x / (2 ^ w : Nat)
      let k := (x % (2 ^ w : Nat)).toNat
      if k = 0 then (.approx ⟨false, 1, i, false⟩, 0)
      else (.approx ⟨false, exp2Frac k w (2 * 2 ^ transBits) (2 ^ transBits), i - transBits, true⟩, 0)

/-- n bits of log2 of y / 2^(2 · transBits) in [1, 2), the most significant first. -/
def log2Frac : Nat → Nat → Nat → Nat
  | 0, _, acc => acc
  | n + 1, y, acc =>
    let s := y * y / 2 ^ (2 * transBits)
    if s ≥ 2 ^ (2 * transBits + 1) then log2Frac n (s / 2) (2 * acc + 1) else log2Frac n s (2 * acc)

/-- log2 x (R130). -/
def log2V : FVal → Res × Flags
  | .nan _ => (.val qNaN, 0)
  | .inf n => if n then (.val qNaN, flNV) else (.val (.inf false), 0)
  | .fin n m e =>
    if m = 0 then (.val (.inf true), flDZ)
    else if n then (.val qNaN, flNV)
    else
      let l := m.log2
      let k : Int := e + l
      if m = 2 ^ l then (.val (.fin (k < 0) k.natAbs 0), 0)
      else
        let y := m * 2 ^ (2 * transBits) / 2 ^ l
        let r : Int := k * (2 ^ 192 : Nat) + (log2Frac 192 y 0 : Nat)
        if r ≥ 0 then (.approx ⟨false, r.toNat, -192, true⟩, 0) else (.approx ⟨true, r.natAbs - 1, -192, true⟩, 0)

/-- A · 2^k (R128). -/
def scaleV (a : FVal) (k : Int) : FVal :=
  match a with
  | .nan _ => qNaN
  | .inf n => .inf n
  | .fin n m e => .fin n m (if m = 0 then e else e + k)

/-- Numeric order of two values that are not NaN: -1, 0 or 1; the two zeros are equal. -/
def cmpV (a b : FVal) : Int :=
  match a, b with
  | .nan _, _ => 0
  | _, .nan _ => 0
  | .inf n, .inf k => if n = k then 0 else if n then -1 else 1
  | .inf n, .fin _ _ _ => if n then -1 else 1
  | .fin _ _ _, .inf k => if k then 1 else -1
  | .fin n m e, .fin k l f =>
    let x := signedM n (if m = 0 then 0 else m * 2 ^ (e - min e f).toNat)
    let y := signedM k (if l = 0 then 0 else l * 2 ^ (f - min e f).toNat)
    if x < y then -1 else if x = y then 0 else 1

/-- a below b, with -0 below +0 (R119, R129). -/
def ltV (a b : FVal) : Bool :=
  if cmpV a b = 0 then a.isZero && b.isZero && a.neg && !b.neg else cmpV a b < 0

/-- FMIN and FMAX on lane bits (R129). -/
def minmaxBits (f : Fmt) (mx : Bool) (x y : Nat) : Nat × Flags :=
  let a := f.decode x
  let b := f.decode y
  let fl := sigFlags [a, b]
  if a.isNan then ((if b.isNan then f.qnan else y), fl)
  else if b.isNan then (x, fl)
  else ((if ltV b a != mx then y else x), fl)

/-- The class mask (R132). -/
def classBits (f : Fmt) (x : Nat) : Nat :=
  match f.decode x with
  | .inf n => if n then 2 ^ 0 else 2 ^ 7
  | .nan s => if s then 2 ^ 8 else 2 ^ 9
  | .fin n m _ =>
    if m = 0 then (if n then 2 ^ 3 else 2 ^ 4)
    else if m < 2 ^ f.fb then (if n then 2 ^ 2 else 2 ^ 5)
    else (if n then 2 ^ 1 else 2 ^ 6)

/-- FCMP: the condition and the flags (R131). -/
def fcmpV (cc : FCc) (a b : FVal) : Bool × Flags :=
  let un := a.isNan || b.isNan
  let c := cmpV a b
  let sg := sigFlags [a, b]
  let ord := sg ||| (if un then flNV else 0)
  match cc with
  | .eq => (!un && c = 0, sg)
  | .ne => (un || c ≠ 0, sg)
  | .lt => (!un && c < 0, ord)
  | .le => (!un && c ≤ 0, ord)
  | .gt => (!un && c > 0, ord)
  | .ge => (!un && c ≥ 0, ord)
  | .ord => (!un, sg)
  | .uno => (un, sg)

/-- A finite value rounded to an integer, and whether it was one (R143). -/
def roundInt (rm : Rnd) (n : Bool) (m : Nat) (e : Int) : Int × Bool :=
  if m = 0 then (0, false)
  else
    let (k, lost) := cutAt rm ⟨n, m, e, false⟩ 0
    (signedM n k, lost)

/-- CVTI: into an integer of [lo, hi] (R143). An exponent far past every range saturates without being worked out. -/
def toIntSat (rm : Rnd) (lo hi : Int) : FVal → Int × Flags
  | .nan _ => (0, flNV)
  | .inf n => (if n then lo else hi, flNV)
  | .fin n m e =>
    if m ≠ 0 ∧ e > 128 then (if n then lo else hi, flNV)
    else
      let (i, lost) := roundInt rm n m e
      if i < lo then (lo, flNV) else if i > hi then (hi, flNV) else (i, if lost then flNX else 0)

/-- An exact integer as a value (R144). -/
def ofIntV (i : Int) : FVal := .fin (i < 0) i.natAbs 0

/-! ### Decode tables (R117 to R119) -/

/-- Entry c of Q43 or Q52 (R118). -/
def q43Entry (c : Nat) : Nat :=
  let e := bitsN c 6 3
  let f := bitsN c 2 0
  let v := if e = 0 then fmtE8M12.pack .rne (.val (.fin (bitN c 7) f (-9)))
           else fmtE8M12.pack .rne (.val (.fin (bitN c 7) (8 + f) (e - 10)))
  (if c = 0 then 2 ^ 29 else 0) + (if c = 0x80 then 2 ^ 30 else v.1)

def q52Entry (c : Nat) : Nat :=
  let e := bitsN c 6 2
  let f := bitsN c 1 0
  let v := if e = 0 then fmtE8M12.pack .rne (.val (.fin (bitN c 7) f (-16)))
           else fmtE8M12.pack .rne (.val (.fin (bitN c 7) (4 + f) (e - 17)))
  (if c = 0 then 2 ^ 29 else 0) +
    (if e = 31 then (if f = 0 then (if bitN c 7 then 3 * 2 ^ 30 else 2 * 2 ^ 30) else 2 ^ 30) else v.1)

/-- The entry word of a code (R117). -/
def DecTable.entry (t : DecTable) (c : Nat) : Nat :=
  match t with
  | .q43 => q43Entry c
  | .q52 => q52Entry c
  | .img ws => (ws.getD c 0).toNat

/-- The value of a code (R117). -/
def DecTable.value (t : DecTable) (c : Nat) : FVal :=
  let w := t.entry c
  match bitsN w 31 30 with
  | 0 => fmtE8M12.decode (bitsN w 20 0)
  | 1 => qNaN
  | 2 => .inf false
  | _ => .inf true

/-- The codes of a table in its order (R117). -/
def DecTable.order (t : DecTable) : List Nat :=
  if bitN (t.entry 0) 29 then ((below 128).map fun i => 255 - i) ++ below 128 else below 256

/-- The lowest-numbered code whose entry decodes to a NaN, or to an infinity (R119). -/
def DecTable.find (t : DecTable) (p : FVal → Bool) : Option Nat := (below 256).find? fun c => p (t.value c)

/-- The bisection of R119 over the finite codes. -/
def encSearch (l : List (Nat × FVal)) (x : FVal) : Nat → Nat → Nat → Nat × Nat
  | 0, lo, hi => (lo, hi)
  | n + 1, lo, hi =>
    if hi - lo > 1 then
      let mid := (lo + hi) / 2
      if ltV x (l.getD mid (0, qNaN)).2 then encSearch l x n lo mid else encSearch l x n mid hi
    else (lo, hi)

/-- The code of a value through a table, and whether it is a saturated extreme (R119, R146). -/
def DecTable.encode (t : DecTable) (x : FVal) : Nat × Bool :=
  let l := (t.order.map fun c => (c, t.value c)).filter fun cv =>
    match cv.2 with
    | .fin _ _ _ => true
    | _ => false
  let n := l.length
  let at_ (i : Nat) : Nat × FVal := l.getD i (0, qNaN)
  match x with
  | .nan _ => ((t.find FVal.isNan).getD 0, false)
  | .inf g =>
    match t.find (fun v => v = .inf g) with
    | some c => (c, false)
    | none => if n = 0 then (0, false) else ((at_ (if g then 0 else n - 1)).1, true)
  | .fin _ _ _ =>
    if n = 0 then (0, false)
    else if !ltV x (at_ (n - 1)).2 then ((at_ (n - 1)).1, cmpV x (at_ (n - 1)).2 ≠ 0)
    else if !ltV (at_ 0).2 x then ((at_ 0).1, cmpV x (at_ 0).2 ≠ 0)
    else
      let (lo, hi) := encSearch l x 9 0 (n - 1)
      let a := at_ lo
      let b := at_ hi
      let dl := (addV .rne x a.2.negate).1
      let dh := (addV .rne b.2 x.negate).1
      if cmpV dl dh < 0 then (a.1, false)
      else if cmpV dh dl < 0 then (b.1, false)
      else if b.1 % 2 = 0 && a.1 % 2 = 1 then (b.1, false)
      else (a.1, false)

end Sys2Proof.Machine
end

