-- ==== Sys2Proof/Machine/Float.lean ====
section
/-!
DEFINITION. Class 5: floating-point lanes and reductions (R122 to R133).
-/
set_option Elab.async false
namespace Sys2Proof.Machine

/-! ### Lanes (R122 to R124) -/

/-- Whether the guard mask turns a lane on: bit i governs bytes 4i to 4i + 3 (R124). -/
def laneOn (g : Pred) (w j : Nat) : Bool := g.getLsbD (w * j / 32)

/-- The lanes of a mask worked out, the others kept; flags of the lanes performed (R124, R125). -/
def lanewise (w : Nat) (g : Pred) (old : Vec) (f : Nat → Nat × Flags) : Vec × Flags :=
  (below (256 / w)).foldl (fun st j =>
    if laneOn g w j then (putLane st.1 w j (f j).1, st.2 ||| (f j).2) else st) (old, 0)

def FTy.width : FTy → Nat
  | .f32 => 32
  | .f16 => 16
  | .bf16 => 16

def fval (t : FTy) (v : Vec) (j : Nat) : FVal := (FTy.fmt t).decode (lane v (FTy.width t) j)

/-- A result rounded once, with the flags of its operands (R110 to R112). -/
def fRes (f : Fmt) (rm : Rnd) (ops : List FVal) (r : Res × Flags) : Nat × Flags :=
  ((f.pack rm r.1).1, (f.pack rm r.1).2 ||| r.2 ||| sigFlags ops)

/-- A vector result and its flags into a slot (R125). -/
def SlotSt.putV (sl : SlotSt) (d : Nat) (r : Vec × Flags) : SlotSt := (sl.setV d r.1).orFlags r.2

/-- Lanes of one operand. -/
def fLanes1 (sl : SlotSt) (h : Hdr) (t : FTy) (rm : Rnd) (d a : Nat) (f : FVal → Res × Flags) : SlotSt :=
  sl.putV d (lanewise (FTy.width t) (sl.mask h) (sl.v d) fun j =>
    let x := fval t (sl.v a) j
    fRes (FTy.fmt t) rm [x] (f x))

/-- Lanes of two operands. -/
def fLanes2 (sl : SlotSt) (h : Hdr) (t : FTy) (rm : Rnd) (d a b : Nat) (f : FVal → FVal → Res × Flags) : SlotSt :=
  sl.putV d (lanewise (FTy.width t) (sl.mask h) (sl.v d) fun j =>
    let x := fval t (sl.v a) j
    let y := fval t (sl.v b) j
    fRes (FTy.fmt t) rm [x, y] (f x y))

/-- Lanes of three operands. -/
def fLanes3 (sl : SlotSt) (h : Hdr) (t : FTy) (rm : Rnd) (d a b c : Nat) (f : FVal → FVal → FVal → FVal × Flags) :
    SlotSt :=
  sl.putV d (lanewise (FTy.width t) (sl.mask h) (sl.v d) fun j =>
    let x := fval t (sl.v a) j
    let y := fval t (sl.v b) j
    let z := fval t (sl.v c) j
    fRes (FTy.fmt t) rm [x, y, z] (.val (f x y z).1, (f x y z).2))

/-- Lanes worked out on their bits. -/
def bitLanes (sl : SlotSt) (h : Hdr) (w d : Nat) (f : Nat → Nat × Flags) : SlotSt :=
  sl.putV d (lanewise w (sl.mask h) (sl.v d) f)

/-- An exact value as a result. -/
def exactly (r : FVal × Flags) : Res × Flags := (.val r.1, r.2)

/-- Predicate bits of lanes: bit i from lane i, or from lane 2i + odd of 16 bits; only the mask's bits (R131, R137). -/
def predLanes (w : Nat) (odd : Bool) (g old : Pred) (f : Nat → Bool × Flags) : Pred × Flags :=
  (below 8).foldl (fun st i =>
    let r := f (if w = 16 then 2 * i + boolN odd else i)
    if g.getLsbD i then
      (st.1 &&& ~~~ ((1 : Pred) <<< i) ||| BitVec.ofNat 8 (boolN r.1 * 2 ^ i), st.2 ||| r.2)
    else st) (old, 0)

/-! ### Reductions (R121, R133) -/

/-- Neighbours combined. -/
def pairUp (f : Nat → Nat → Nat × Flags) : List Nat → List Nat × Flags
  | x :: y :: r => let t := pairUp f r; ((f x y).1 :: t.1, (f x y).2 ||| t.2)
  | [x] => ([x], 0)
  | [] => ([], 0)

/-- The fixed tree of R121: neighbours combined, level by level. -/
def tree (f : Nat → Nat → Nat × Flags) : Nat → List Nat → Nat × Flags
  | 0, l => (l.getD 0 0, 0)
  | n + 1, l => let p := pairUp f l; let r := tree f n p.1; (r.1, p.2 ||| r.2)

def levelsOf (w : Nat) : Nat := if w = 16 then 4 else 3

/-- The identity that a lane which is off gives to a sum (R121). -/
def sumIdentity (rm : Rnd) : FVal := .fin (rm ≠ .rdn) 0 0

/-- One addition of a tree, in a format. -/
def addBits (f : Fmt) (rm : Rnd) (x y : Nat) : Nat × Flags :=
  let a := f.decode x
  let b := f.decode y
  fRes f rm [a, b] (exactly (addV rm a b))

/-- The lanes of a reduction as bits, lanes that are off as the identity. -/
def redLanes (w : Nat) (g : Pred) (v : Vec) (identity : Nat) : List Nat :=
  (below (256 / w)).map fun j => if laneOn g w j then lane v w j else identity

/-- The products of FDOT, exact, and their flags. -/
def dotProducts (t : FTy) (rm : Rnd) (g : Pred) (a b : Vec) : List FVal × Flags :=
  let ps := (below (256 / FTy.width t)).map fun j =>
    if laneOn g (FTy.width t) j then
      (let x := fval t a j; let y := fval t b j; ((mulV x y).1, (mulV x y).2 ||| sigFlags [x, y]))
    else (sumIdentity rm, 0)
  (ps.map fun p => p.1, ps.foldl (fun f p => f ||| p.2) 0)

/-- The first level of FDOT: sums of two exact products, rounded to f32. -/
def dotLevel (rm : Rnd) : List FVal → List Nat × Flags
  | x :: y :: r =>
    let t := dotLevel rm r
    let s := fRes fmtF32 rm [] (exactly (addV rm x y))
    (s.1 :: t.1, s.2 ||| t.2)
  | _ => ([], 0)

/-- FDOT (R133). -/
def dotVal (t : FTy) (rm : Rnd) (g : Pred) (a b : Vec) : Nat × Flags :=
  let p := dotProducts t rm g a b
  let l := dotLevel rm p.1
  let r := tree (addBits fmtF32 rm) (levelsOf (FTy.width t) - 1) l.1
  (r.1, p.2 ||| l.2 ||| r.2)

/-- A reduced value into an x register, with its flags. -/
def SlotSt.putRed (sl : SlotSt) (d : Nat) (r : Nat × Flags) : SlotSt := (sl.setX d (BitVec.ofNat 64 r.1)).orFlags r.2

/-- FADD (R128). -/
def execFadd (h : Hdr) (t : FTy) (rm : Rnd) (d a b : VReg) (s : State) : Host.Outcome State Fault Refusal :=
  issueSlot (.fadd h t rm d a b) h s fun sl => fLanes2 sl h t rm d.val a.val b.val (fun x y => exactly (addV rm x y))

/-- FSUB (R128). -/
def execFsub (h : Hdr) (t : FTy) (rm : Rnd) (d a b : VReg) (s : State) : Host.Outcome State Fault Refusal :=
  issueSlot (.fsub h t rm d a b) h s fun sl => fLanes2 sl h t rm d.val a.val b.val (fun x y => exactly (addV rm x y.negate))

/-- FMUL (R128). -/
def execFmul (h : Hdr) (t : FTy) (rm : Rnd) (d a b : VReg) (s : State) : Host.Outcome State Fault Refusal :=
  issueSlot (.fmul h t rm d a b) h s fun sl => fLanes2 sl h t rm d.val a.val b.val (fun x y => exactly (mulV x y))

/-- FMA: one rounding (R128). -/
def execFma (h : Hdr) (t : FTy) (rm : Rnd) (d a b c : VReg) (s : State) : Host.Outcome State Fault Refusal :=
  issueSlot (.fma h t rm d a b c) h s fun sl => fLanes3 sl h t rm d.val a.val b.val c.val (fun x y z => fmaV rm x y z)

/-- FMS (R128). -/
def execFms (h : Hdr) (t : FTy) (rm : Rnd) (d a b c : VReg) (s : State) : Host.Outcome State Fault Refusal :=
  issueSlot (.fms h t rm d a b c) h s fun sl => fLanes3 sl h t rm d.val a.val b.val c.val (fun x y z => fmaV rm x y z.negate)

/-- FNMA (R128). -/
def execFnma (h : Hdr) (t : FTy) (rm : Rnd) (d a b c : VReg) (s : State) : Host.Outcome State Fault Refusal :=
  issueSlot (.fnma h t rm d a b c) h s fun sl => fLanes3 sl h t rm d.val a.val b.val c.val (fun x y z => fmaV rm x.negate y z)

/-- FMIN (R129). -/
def execFmin (h : Hdr) (t : FTy) (d a b : VReg) (s : State) : Host.Outcome State Fault Refusal :=
  issueSlot (.fmin h t d a b) h s fun sl => bitLanes sl h (FTy.width t) d.val fun j =>
    minmaxBits (FTy.fmt t) false (lane (sl.v a.val) (FTy.width t) j) (lane (sl.v b.val) (FTy.width t) j)

/-- FMAX (R129). -/
def execFmax (h : Hdr) (t : FTy) (d a b : VReg) (s : State) : Host.Outcome State Fault Refusal :=
  issueSlot (.fmax h t d a b) h s fun sl => bitLanes sl h (FTy.width t) d.val fun j =>
    minmaxBits (FTy.fmt t) true (lane (sl.v a.val) (FTy.width t) j) (lane (sl.v b.val) (FTy.width t) j)

/-- FABS: the sign cleared (R128). -/
def execFabs (h : Hdr) (t : FTy) (d a : VReg) (s : State) : Host.Outcome State Fault Refusal :=
  issueSlot (.fabs h t d a) h s fun sl => bitLanes sl h (FTy.width t) d.val fun j => (lane (sl.v a.val) (FTy.width t) j % 2 ^ (FTy.width t - 1), 0)

/-- FNEG: the sign inverted (R128). -/
def execFneg (h : Hdr) (t : FTy) (d a : VReg) (s : State) : Host.Outcome State Fault Refusal :=
  issueSlot (.fneg h t d a) h s fun sl => bitLanes sl h (FTy.width t) d.val fun j => (lane (sl.v a.val) (FTy.width t) j ^^^ 2 ^ (FTy.width t - 1), 0)

/-- FDIV (R128). -/
def execFdiv (h : Hdr) (t : FTy) (rm : Rnd) (d a b : VReg) (s : State) : Host.Outcome State Fault Refusal :=
  issueSlot (.fdiv h t rm d a b) h s fun sl => fLanes2 sl h t rm d.val a.val b.val divV

/-- FSQRT (R130). -/
def execFsqrt (h : Hdr) (t : FTy) (rm : Rnd) (d a : VReg) (s : State) : Host.Outcome State Fault Refusal :=
  issueSlot (.fsqrt h t rm d a) h s fun sl => fLanes1 sl h t rm d.val a.val sqrtV

/-- FRCP (R130). -/
def execFrcp (h : Hdr) (t : FTy) (rm : Rnd) (d a : VReg) (s : State) : Host.Outcome State Fault Refusal :=
  issueSlot (.frcp h t rm d a) h s fun sl => fLanes1 sl h t rm d.val a.val rcpV

/-- FRSQ (R130). -/
def execFrsq (h : Hdr) (t : FTy) (rm : Rnd) (d a : VReg) (s : State) : Host.Outcome State Fault Refusal :=
  issueSlot (.frsq h t rm d a) h s fun sl => fLanes1 sl h t rm d.val a.val rsqV

/-- FEXP2 (R130). -/
def execFexp2 (h : Hdr) (t : FTy) (rm : Rnd) (d a : VReg) (s : State) : Host.Outcome State Fault Refusal :=
  issueSlot (.fexp2 h t rm d a) h s fun sl => fLanes1 sl h t rm d.val a.val exp2V

/-- FLOG2 (R130). -/
def execFlog2 (h : Hdr) (t : FTy) (rm : Rnd) (d a : VReg) (s : State) : Host.Outcome State Fault Refusal :=
  issueSlot (.flog2 h t rm d a) h s fun sl => fLanes1 sl h t rm d.val a.val log2V

/-- FCMP (R131). -/
def execFcmp (h : Hdr) (cc : FCc) (t : FTy) (odd : Bool) (d : PReg) (a b : VReg) (s : State) : Host.Outcome State Fault Refusal :=
  issueSlot (.fcmp h cc t odd d a b) h s fun sl => 
    let r := predLanes (FTy.width t) odd (sl.mask h) (sl.p d.val) fun j => fcmpV cc (fval t (sl.v a.val) j) (fval t (sl.v b.val) j)
    (sl.setPr d.val r.1).orFlags r.2

/-- FCLASS (R132). -/
def execFclass (h : Hdr) (t : FTy) (d a : VReg) (s : State) : Host.Outcome State Fault Refusal :=
  issueSlot (.fclass h t d a) h s fun sl => bitLanes sl h (FTy.width t) d.val fun j => (classBits (FTy.fmt t) (lane (sl.v a.val) (FTy.width t) j), 0)

/-- FSCALE (R128). -/
def execFscale (h : Hdr) (t : FTy) (rm : Rnd) (d a b : VReg) (s : State) : Host.Outcome State Fault Refusal :=
  issueSlot (.fscale h t rm d a b) h s fun sl => sl.putV d.val (lanewise (FTy.width t) (sl.mask h) (sl.v d.val) fun j =>
    let x := fval t (sl.v a.val) j
    fRes (FTy.fmt t) rm [x] (.val (scaleV x (toSigned (FTy.width t) (lane (sl.v b.val) (FTy.width t) j))), 0))

/-- FRED (R133). -/
def execFred (h : Hdr) (t : FTy) (rm : Rnd) (d : XReg) (a : VReg) (s : State) : Host.Outcome State Fault Refusal :=
  issueSlot (.fred h t rm d a) h s fun sl => sl.putRed d.val
    (tree (addBits (FTy.fmt t) rm) (levelsOf (FTy.width t))
      (redLanes (FTy.width t) (sl.mask h) (sl.v a.val) ((FTy.fmt t).pack rm (.val (sumIdentity rm))).1))

/-- FREDMAX (R133). -/
def execFredmax (h : Hdr) (t : FTy) (d : XReg) (a : VReg) (s : State) : Host.Outcome State Fault Refusal :=
  issueSlot (.fredmax h t d a) h s fun sl => sl.putRed d.val
    (tree (minmaxBits (FTy.fmt t) true) (levelsOf (FTy.width t))
      (redLanes (FTy.width t) (sl.mask h) (sl.v a.val) ((FTy.fmt t).infBits true)))

/-- FREDMIN (R133). -/
def execFredmin (h : Hdr) (t : FTy) (d : XReg) (a : VReg) (s : State) : Host.Outcome State Fault Refusal :=
  issueSlot (.fredmin h t d a) h s fun sl => sl.putRed d.val
    (tree (minmaxBits (FTy.fmt t) false) (levelsOf (FTy.width t))
      (redLanes (FTy.width t) (sl.mask h) (sl.v a.val) ((FTy.fmt t).infBits false)))

/-- FDOT (R133). -/
def execFdot (h : Hdr) (t : FTy) (rm : Rnd) (d : XReg) (a b : VReg) (s : State) : Host.Outcome State Fault Refusal :=
  issueSlot (.fdot h t rm d a b) h s fun sl => sl.putRed d.val (dotVal t rm (sl.mask h) (sl.v a.val) (sl.v b.val))

end Sys2Proof.Machine
end

