-- ==== Sys2Proof/Machine/Integer.lean ====
section
/-!
DEFINITION. Class 2: integer arithmetic and shifts (R77 to R81).
-/
set_option Elab.async false
namespace Sys2Proof.Machine

/-- The result of a class-2 function: wrapped to the width and sign-extended (R80). w: the .w form. -/
def wrapTo (w : Bool) (i : Int) : Word :=
  if w then sext64 (BitVec.ofInt 32 i) else BitVec.ofInt 64 i

def opWidth (w : Bool) : Nat := if w then 32 else 64

/-- An operand read as unsigned, in the width. -/
def uOp (w : Bool) (x : Word) : Nat := x.toNat % 2 ^ opWidth w

/-- An operand read as signed, in the width. -/
def sOp (w : Bool) (x : Word) : Int := toSigned (opWidth w) x.toNat

/-- A shift amount taken from a register or an immediate: the low 5 or 6 bits (R80). -/
def shAmt (w : Bool) (n : Nat) : Nat := n % opWidth w

/-- The quotient functions of R81, truncated towards zero. -/
def divS (w : Bool) (x y : Word) : Int :=
  if uOp w y = 0 then 2 ^ opWidth w - 1
  else if sOp w x = -(2 ^ (opWidth w - 1)) && sOp w y = -1 then sOp w x
  else (sOp w x).tdiv (sOp w y)

def divU (w : Bool) (x y : Word) : Int :=
  if uOp w y = 0 then 2 ^ opWidth w - 1 else ((uOp w x / uOp w y : Nat) : Int)

/-- The remainder takes the sign of the dividend (R81). -/
def remS (w : Bool) (x y : Word) : Int :=
  if uOp w y = 0 then sOp w x
  else if sOp w x = -(2 ^ (opWidth w - 1)) && sOp w y = -1 then 0
  else sOp w x - sOp w y * (sOp w x).tdiv (sOp w y)

def remU (w : Bool) (x y : Word) : Int :=
  if uOp w y = 0 then (uOp w x : Int) else ((uOp w x % uOp w y : Nat) : Int)

/-- The sum (R80). -/
def addVal (w : Bool) (x y : Word) : Word := wrapTo w (uOp w x + uOp w y : Nat)

/-- The difference (R80). -/
def subVal (w : Bool) (x y : Word) : Word := wrapTo w ((uOp w x : Int) - uOp w y)

/-- The product, low half (R80). -/
def mulVal (w : Bool) (x y : Word) : Word := wrapTo w (uOp w x * uOp w y : Nat)

/-- The high half of the signed product (R80). -/
def mulhVal (w : Bool) (x y : Word) : Word := wrapTo w (sOp w x * sOp w y / 2 ^ opWidth w)

/-- The high half of the unsigned product (R80). -/
def mulhnVal (w : Bool) (x y : Word) : Word := wrapTo w (uOp w x * uOp w y / 2 ^ opWidth w : Nat)

/-- The signed quotient (R80). -/
def divVal (w : Bool) (x y : Word) : Word := wrapTo w (divS w x y)

/-- The unsigned quotient (R80). -/
def divnVal (w : Bool) (x y : Word) : Word := wrapTo w (divU w x y)

/-- The signed remainder (R80). -/
def remVal (w : Bool) (x y : Word) : Word := wrapTo w (remS w x y)

/-- The unsigned remainder (R80). -/
def remnVal (w : Bool) (x y : Word) : Word := wrapTo w (remU w x y)

/-- A left shift (R80). -/
def shlVal (w : Bool) (x y : Word) : Word := wrapTo w (uOp w x * 2 ^ shAmt w y.toNat : Nat)

/-- A right shift with zeros (R80). -/
def shrVal (w : Bool) (x y : Word) : Word := wrapTo w (uOp w x / 2 ^ shAmt w y.toNat : Nat)

/-- A right shift with the sign (R80). -/
def sarVal (w : Bool) (x y : Word) : Word := wrapTo w (sOp w x / 2 ^ shAmt w y.toNat)

/-- A rotation to the left (R80). -/
def rolVal (w : Bool) (x y : Word) : Word := wrapTo w (uOp w x * 2 ^ shAmt w y.toNat + uOp w x / 2 ^ (opWidth w - shAmt w y.toNat) : Nat)

/-- The multiply-add (R80). -/
def madVal (w : Bool) (x y z : Word) : Word := wrapTo w (uOp w x * uOp w y + uOp w z : Nat)

/-- ADD: the sum (R80). -/
def execAdd (h : Hdr) (w : Bool) (d a b : XReg) (s : State) : Host.Outcome State Fault Refusal :=
  issueSlot (.add h w d a b) h s fun sl => sl.setX d.val (addVal w (sl.x a.val) (sl.x b.val))

/-- SUB: the difference (R80). -/
def execSub (h : Hdr) (w : Bool) (d a b : XReg) (s : State) : Host.Outcome State Fault Refusal :=
  issueSlot (.sub h w d a b) h s fun sl => sl.setX d.val (subVal w (sl.x a.val) (sl.x b.val))

/-- MUL: the product, low half (R80). -/
def execMul (h : Hdr) (w : Bool) (d a b : XReg) (s : State) : Host.Outcome State Fault Refusal :=
  issueSlot (.mul h w d a b) h s fun sl => sl.setX d.val (mulVal w (sl.x a.val) (sl.x b.val))

/-- MULH: the high half of the signed product (R80). -/
def execMulh (h : Hdr) (w : Bool) (d a b : XReg) (s : State) : Host.Outcome State Fault Refusal :=
  issueSlot (.mulh h w d a b) h s fun sl => sl.setX d.val (mulhVal w (sl.x a.val) (sl.x b.val))

/-- MULHN: the high half of the unsigned product (R80). -/
def execMulhn (h : Hdr) (w : Bool) (d a b : XReg) (s : State) : Host.Outcome State Fault Refusal :=
  issueSlot (.mulhn h w d a b) h s fun sl => sl.setX d.val (mulhnVal w (sl.x a.val) (sl.x b.val))

/-- DIV: the signed quotient (R80, R81). -/
def execDiv (h : Hdr) (w : Bool) (d a b : XReg) (s : State) : Host.Outcome State Fault Refusal :=
  issueSlot (.div h w d a b) h s fun sl => sl.setX d.val (divVal w (sl.x a.val) (sl.x b.val))

/-- DIVN: the unsigned quotient (R80, R81). -/
def execDivn (h : Hdr) (w : Bool) (d a b : XReg) (s : State) : Host.Outcome State Fault Refusal :=
  issueSlot (.divn h w d a b) h s fun sl => sl.setX d.val (divnVal w (sl.x a.val) (sl.x b.val))

/-- REM: the signed remainder (R80, R81). -/
def execRem (h : Hdr) (w : Bool) (d a b : XReg) (s : State) : Host.Outcome State Fault Refusal :=
  issueSlot (.rem h w d a b) h s fun sl => sl.setX d.val (remVal w (sl.x a.val) (sl.x b.val))

/-- REMN: the unsigned remainder (R80, R81). -/
def execRemn (h : Hdr) (w : Bool) (d a b : XReg) (s : State) : Host.Outcome State Fault Refusal :=
  issueSlot (.remn h w d a b) h s fun sl => sl.setX d.val (remnVal w (sl.x a.val) (sl.x b.val))

/-- SHL: a left shift (R80). -/
def execShl (h : Hdr) (w : Bool) (d a b : XReg) (s : State) : Host.Outcome State Fault Refusal :=
  issueSlot (.shl h w d a b) h s fun sl => sl.setX d.val (shlVal w (sl.x a.val) (sl.x b.val))

/-- SHR: a right shift with zeros (R80). -/
def execShr (h : Hdr) (w : Bool) (d a b : XReg) (s : State) : Host.Outcome State Fault Refusal :=
  issueSlot (.shr h w d a b) h s fun sl => sl.setX d.val (shrVal w (sl.x a.val) (sl.x b.val))

/-- SAR: a right shift with the sign (R80). -/
def execSar (h : Hdr) (w : Bool) (d a b : XReg) (s : State) : Host.Outcome State Fault Refusal :=
  issueSlot (.sar h w d a b) h s fun sl => sl.setX d.val (sarVal w (sl.x a.val) (sl.x b.val))

/-- ROL: a rotation to the left (R80). -/
def execRol (h : Hdr) (w : Bool) (d a b : XReg) (s : State) : Host.Outcome State Fault Refusal :=
  issueSlot (.rol h w d a b) h s fun sl => sl.setX d.val (rolVal w (sl.x a.val) (sl.x b.val))

/-- ADDI: the sum with a sign-extended immediate (R80). -/
def execAddi (h : Hdr) (w : Bool) (d a : XReg) (imm : BitVec 48) (s : State) : Host.Outcome State Fault Refusal :=
  issueSlot (.addi h w d a imm) h s fun sl => sl.setX d.val (addVal w (sl.x a.val) (sext64 imm))

/-- MAD: multiply and add (R80). -/
def execMad (h : Hdr) (w : Bool) (d a b c : XReg) (s : State) : Host.Outcome State Fault Refusal :=
  issueSlot (.mad h w d a b c) h s fun sl => sl.setX d.val (madVal w (sl.x a.val) (sl.x b.val) (sl.x c.val))

/-- AND: bitwise and (R80). -/
def execAnd (h : Hdr) (d a b : XReg) (s : State) : Host.Outcome State Fault Refusal :=
  issueSlot (.and h d a b) h s fun sl => sl.setX d.val (sl.x a.val &&& sl.x b.val)

/-- OR: bitwise or (R80). -/
def execOr (h : Hdr) (d a b : XReg) (s : State) : Host.Outcome State Fault Refusal :=
  issueSlot (.or h d a b) h s fun sl => sl.setX d.val (sl.x a.val ||| sl.x b.val)

/-- XOR: bitwise exclusive or (R80). -/
def execXor (h : Hdr) (d a b : XReg) (s : State) : Host.Outcome State Fault Refusal :=
  issueSlot (.xor h d a b) h s fun sl => sl.setX d.val (sl.x a.val ^^^ sl.x b.val)

/-- ANDN: and with the complement (R80). -/
def execAndn (h : Hdr) (d a b : XReg) (s : State) : Host.Outcome State Fault Refusal :=
  issueSlot (.andn h d a b) h s fun sl => sl.setX d.val (sl.x a.val &&& ~~~ (sl.x b.val))

/-- ORN: or with the complement (R80). -/
def execOrn (h : Hdr) (d a b : XReg) (s : State) : Host.Outcome State Fault Refusal :=
  issueSlot (.orn h d a b) h s fun sl => sl.setX d.val (sl.x a.val ||| ~~~ (sl.x b.val))

/-- SHLI: the shift by an immediate (R80). -/
def execShli (h : Hdr) (w : Bool) (d a : XReg) (n : BitVec 6) (s : State) : Host.Outcome State Fault Refusal :=
  issueSlot (.shli h w d a n) h s fun sl => sl.setX d.val (shlVal w (sl.x a.val) (zext64 n))

/-- SHRI: the shift by an immediate (R80). -/
def execShri (h : Hdr) (w : Bool) (d a : XReg) (n : BitVec 6) (s : State) : Host.Outcome State Fault Refusal :=
  issueSlot (.shri h w d a n) h s fun sl => sl.setX d.val (shrVal w (sl.x a.val) (zext64 n))

/-- SARI: the shift by an immediate (R80). -/
def execSari (h : Hdr) (w : Bool) (d a : XReg) (n : BitVec 6) (s : State) : Host.Outcome State Fault Refusal :=
  issueSlot (.sari h w d a n) h s fun sl => sl.setX d.val (sarVal w (sl.x a.val) (zext64 n))

end Sys2Proof.Machine
end

