-- ==== Sys2Proof/Machine/Predicate.lean ====
section
/-!
DEFINITION. Class 4: predicates (R85, R86).
-/
set_option Elab.async false
namespace Sys2Proof.Machine

/-- An integer condition of R85, on values of w bits. -/
def condHolds (cc : Cc) (w : Nat) (a b : Nat) : Bool :=
  let ua := a % 2 ^ w
  let ub := b % 2 ^ w
  let sa := toSigned w a
  let sb := toSigned w b
  match cc with
  | .eq => ua = ub
  | .ne => ua ≠ ub
  | .lt => sa < sb
  | .le => sa ≤ sb
  | .gt => sb < sa
  | .ge => sb ≤ sa
  | .ltn => ua < ub
  | .len => ua ≤ ub
  | .gtn => ub < ua
  | .gen => ub ≤ ua

/-- All eight lanes set to one truth value (R85). -/
def allLanes (b : Bool) : Pred := if b then 0xFF else 0

/-- CMP: a condition into every lane (R85). -/
def execCmp (h : Hdr) (cc : Cc) (w : Bool) (d : PReg) (a b : XReg) (s : State) : Host.Outcome State Fault Refusal :=
  issueSlot (.cmp h cc w d a b) h s fun sl => sl.setPr d.val (allLanes (condHolds cc (opWidth w) (sl.x a.val).toNat (sl.x b.val).toNat))

/-- CMPI: a condition on a sign-extended immediate (R85). -/
def execCmpi (h : Hdr) (cc : Cc) (w : Bool) (d : PReg) (a : XReg) (imm : BitVec 48) (s : State) : Host.Outcome State Fault Refusal :=
  issueSlot (.cmpi h cc w d a imm) h s fun sl => sl.setPr d.val (allLanes (condHolds cc (opWidth w) (sl.x a.val).toNat (sext64 imm).toNat))

/-- PAND: lane by lane (R86). -/
def execPand (h : Hdr) (d a b : PReg) (s : State) : Host.Outcome State Fault Refusal :=
  issueSlot (.pand h d a b) h s fun sl => sl.setPr d.val (sl.p a.val &&& sl.p b.val)

/-- POR: lane by lane (R86). -/
def execPor (h : Hdr) (d a b : PReg) (s : State) : Host.Outcome State Fault Refusal :=
  issueSlot (.por h d a b) h s fun sl => sl.setPr d.val (sl.p a.val ||| sl.p b.val)

/-- PXOR: lane by lane (R86). -/
def execPxor (h : Hdr) (d a b : PReg) (s : State) : Host.Outcome State Fault Refusal :=
  issueSlot (.pxor h d a b) h s fun sl => sl.setPr d.val (sl.p a.val ^^^ sl.p b.val)

/-- PNOT: lane by lane (R86). -/
def execPnot (h : Hdr) (d a : PReg) (s : State) : Host.Outcome State Fault Refusal :=
  issueSlot (.pnot h d a) h s fun sl => sl.setPr d.val (~~~ (sl.p a.val))

/-- PSET: an immediate (R86). -/
def execPset (h : Hdr) (d : PReg) (imm : BitVec 8) (s : State) : Host.Outcome State Fault Refusal :=
  issueSlot (.pset h d imm) h s fun sl => sl.setPr d.val (imm)

/-- PSETX: bits [7:0] of a register (R86). -/
def execPsetX (h : Hdr) (d : PReg) (a : XReg) (s : State) : Host.Outcome State Fault Refusal :=
  issueSlot (.psetX h d a) h s fun sl => sl.setPr d.val ((sl.x a.val).setWidth 8)

/-- PGET: a predicate into a register (R86). -/
def execPget (h : Hdr) (d : XReg) (a : PReg) (s : State) : Host.Outcome State Fault Refusal :=
  issueSlot (.pget h d a) h s fun sl => sl.setX d.val (zext64 (sl.p a.val))

end Sys2Proof.Machine
end

