-- ==== Sys2Proof/Machine/IntVec.lean ====
section
/-!
DEFINITION. Class 6: integer lanes, moves and permutes (R134 to R139).
-/
set_option Elab.async false
namespace Sys2Proof.Machine

def ITy.width : ITy → Nat
  | .i16 => 16
  | .n16 => 16
  | .i32 => 32
  | .n32 => 32

def ITy.signed : ITy → Bool
  | .i16 => true
  | .i32 => true
  | .n16 => false
  | .n32 => false

def LTy.width : LTy → Nat
  | .int t => ITy.width t
  | .flt t => FTy.width t

/-- A lane's integer, by type (R136). -/
def ilane (t : ITy) (v : Vec) (j : Nat) : Int :=
  if ITy.signed t then toSigned (ITy.width t) (lane v (ITy.width t) j) else (lane v (ITy.width t) j : Nat)

def ITy.lo (t : ITy) : Int := if ITy.signed t then -(2 ^ (ITy.width t - 1)) else 0
def ITy.hi (t : ITy) : Int := if ITy.signed t then 2 ^ (ITy.width t - 1) - 1 else 2 ^ ITy.width t - 1

def clampInt (lo hi i : Int) : Int := if i < lo then lo else if hi < i then hi else i

/-- An exact integer into a lane: clamped with sat, then wrapped (R136). -/
def intoLane (t : ITy) (sat : Bool) (e : Int) : Nat :=
  ofInt (ITy.width t) (if sat then clampInt (ITy.lo t) (ITy.hi t) e else e)

/-- The shift amount of a lane: the immediate, or vb's lane, reduced to the width (R136). -/
def laneShift (t : ITy) (imm : Option (BitVec 5)) (b : Vec) (j : Nat) : Nat :=
  match imm with
  | some i => i.toNat % ITy.width t
  | none => lane b (ITy.width t) j % ITy.width t

/-- VADD (R136). -/
def execVadd (h : Hdr) (t : ITy) (sat : Bool) (d a b : VReg) (s : State) : Host.Outcome State Fault Refusal :=
  issueSlot (.vadd h t sat d a b) h s fun sl => bitLanes sl h (ITy.width t) d.val fun j =>
    (intoLane t sat (ilane t (sl.v a.val) j + ilane t (sl.v b.val) j), 0)

/-- VSUB (R136). -/
def execVsub (h : Hdr) (t : ITy) (sat : Bool) (d a b : VReg) (s : State) : Host.Outcome State Fault Refusal :=
  issueSlot (.vsub h t sat d a b) h s fun sl => bitLanes sl h (ITy.width t) d.val fun j =>
    (intoLane t sat (ilane t (sl.v a.val) j - ilane t (sl.v b.val) j), 0)

/-- VMUL (R136). -/
def execVmul (h : Hdr) (t : ITy) (sat : Bool) (d a b : VReg) (s : State) : Host.Outcome State Fault Refusal :=
  issueSlot (.vmul h t sat d a b) h s fun sl => bitLanes sl h (ITy.width t) d.val fun j =>
    (intoLane t sat (ilane t (sl.v a.val) j * ilane t (sl.v b.val) j), 0)

/-- VMAD (R136). -/
def execVmad (h : Hdr) (t : ITy) (sat : Bool) (d a b c : VReg) (s : State) : Host.Outcome State Fault Refusal :=
  issueSlot (.vmad h t sat d a b c) h s fun sl => bitLanes sl h (ITy.width t) d.val fun j =>
    (intoLane t sat (ilane t (sl.v a.val) j * ilane t (sl.v b.val) j + ilane t (sl.v c.val) j), 0)

/-- VAND (R136). -/
def execVand (h : Hdr) (t : LTy) (d a b : VReg) (s : State) : Host.Outcome State Fault Refusal :=
  issueSlot (.vand h t d a b) h s fun sl => bitLanes sl h (LTy.width t) d.val fun j =>
    (lane (sl.v a.val) (LTy.width t) j &&& lane (sl.v b.val) (LTy.width t) j, 0)

/-- VOR (R136). -/
def execVor (h : Hdr) (t : LTy) (d a b : VReg) (s : State) : Host.Outcome State Fault Refusal :=
  issueSlot (.vor h t d a b) h s fun sl => bitLanes sl h (LTy.width t) d.val fun j =>
    (lane (sl.v a.val) (LTy.width t) j ||| lane (sl.v b.val) (LTy.width t) j, 0)

/-- VXOR (R136). -/
def execVxor (h : Hdr) (t : LTy) (d a b : VReg) (s : State) : Host.Outcome State Fault Refusal :=
  issueSlot (.vxor h t d a b) h s fun sl => bitLanes sl h (LTy.width t) d.val fun j =>
    (lane (sl.v a.val) (LTy.width t) j ^^^ lane (sl.v b.val) (LTy.width t) j, 0)

/-- VSHL (R136). -/
def execVshl (h : Hdr) (t : ITy) (imm : Option (BitVec 5)) (d a b : VReg) (s : State) : Host.Outcome State Fault Refusal :=
  issueSlot (.vshl h t imm d a b) h s fun sl => bitLanes sl h (ITy.width t) d.val fun j =>
    (lane (sl.v a.val) (ITy.width t) j * 2 ^ laneShift t imm (sl.v b.val) j, 0)

/-- VSHR (R136). -/
def execVshr (h : Hdr) (t : ITy) (imm : Option (BitVec 5)) (d a b : VReg) (s : State) : Host.Outcome State Fault Refusal :=
  issueSlot (.vshr h t imm d a b) h s fun sl => bitLanes sl h (ITy.width t) d.val fun j =>
    (lane (sl.v a.val) (ITy.width t) j / 2 ^ laneShift t imm (sl.v b.val) j, 0)

/-- VSAR (R136). -/
def execVsar (h : Hdr) (t : ITy) (imm : Option (BitVec 5)) (d a b : VReg) (s : State) : Host.Outcome State Fault Refusal :=
  issueSlot (.vsar h t imm d a b) h s fun sl => bitLanes sl h (ITy.width t) d.val fun j =>
    (ofInt (ITy.width t) (toSigned (ITy.width t) (lane (sl.v a.val) (ITy.width t) j) / 2 ^ laneShift t imm (sl.v b.val) j), 0)

/-- VMIN (R136). -/
def execVmin (h : Hdr) (t : ITy) (d a b : VReg) (s : State) : Host.Outcome State Fault Refusal :=
  issueSlot (.vmin h t d a b) h s fun sl => bitLanes sl h (ITy.width t) d.val fun j =>
    (ofInt (ITy.width t) (min (ilane t (sl.v a.val) j) (ilane t (sl.v b.val) j)), 0)

/-- VMAX (R136). -/
def execVmax (h : Hdr) (t : ITy) (d a b : VReg) (s : State) : Host.Outcome State Fault Refusal :=
  issueSlot (.vmax h t d a b) h s fun sl => bitLanes sl h (ITy.width t) d.val fun j =>
    (ofInt (ITy.width t) (max (ilane t (sl.v a.val) j) (ilane t (sl.v b.val) j)), 0)

/-- VCMP (R137). -/
def execVcmp (h : Hdr) (cc : Cc) (t : ITy) (odd : Bool) (d : PReg) (a b : VReg) (s : State) : Host.Outcome State Fault Refusal :=
  issueSlot (.vcmp h cc t odd d a b) h s fun sl => sl.setPr d.val (predLanes (ITy.width t) odd (sl.mask h) (sl.p d.val) fun j =>
    (condHolds cc (ITy.width t) (lane (sl.v a.val) (ITy.width t) j) (lane (sl.v b.val) (ITy.width t) j), 0)).1

/-- VRED (R138). -/
def execVred (h : Hdr) (t : ITy) (d : XReg) (a : VReg) (s : State) : Host.Outcome State Fault Refusal :=
  issueSlot (.vred h t d a) h s fun sl => sl.setX d.val (BitVec.ofInt 64 ((below (256 / ITy.width t)).foldl (fun n j =>
    if laneOn (sl.mask h) (ITy.width t) j then n + ilane t (sl.v a.val) j else n) 0))

/-- VBCAST (R139). -/
def execVbcast (h : Hdr) (t : LTy) (imm : Option (BitVec 32)) (d : VReg) (a : XReg) (s : State) : Host.Outcome State Fault Refusal :=
  issueSlot (.vbcast h t imm d a) h s fun sl => 
    let v := match imm with
      | some i => i.toNat
      | none => (sl.x a.val).toNat
    bitLanes sl h (LTy.width t) d.val fun _ => (v, 0)

/-- Lane k of the table of VPERM: va's lanes, then vc's (R139). -/
def permLane (w : Nat) (a c : Vec) (k : Nat) : Nat :=
  if k < 256 / w then lane a w k else lane c w (k - 256 / w)

/-- VPERM (R139). -/
def execVperm (h : Hdr) (t : LTy) (d a b c : VReg) (s : State) : Host.Outcome State Fault Refusal :=
  issueSlot (.vperm h t d a b c) h s fun sl => bitLanes sl h (LTy.width t) d.val fun j =>
    (permLane (LTy.width t) (sl.v a.val) (sl.v c.val) (lane (sl.v b.val) (LTy.width t) j % (512 / LTy.width t)), 0)

/-- VSEL (R139). -/
def execVsel (h : Hdr) (t : LTy) (d a b : VReg) (c : PReg) (s : State) : Host.Outcome State Fault Refusal :=
  issueSlot (.vsel h t d a b c) h s fun sl => bitLanes sl h (LTy.width t) d.val fun j =>
    (lane (if laneOn (sl.p c.val) (LTy.width t) j then sl.v a.val else sl.v b.val) (LTy.width t) j, 0)

/-- VINS (R139). -/
def execVins (h : Hdr) (t : LTy) (d : VReg) (a : XReg) (lane : BitVec 4) (s : State) : Host.Outcome State Fault Refusal :=
  issueSlot (.vins h t d a lane) h s fun sl => 
    if laneOn (sl.mask h) (LTy.width t) lane.toNat then
      sl.setV d.val (putLane (sl.v d.val) (LTy.width t) lane.toNat (sl.x a.val).toNat)
    else sl

/-- A lane extended by its type: signed for i types, else with zeros (R139). -/
def extLane (t : LTy) (v : Nat) : Word :=
  match t with
  | .int i => if ITy.signed i then BitVec.ofInt 64 (toSigned (ITy.width i) v) else BitVec.ofNat 64 v
  | .flt _ => BitVec.ofNat 64 v

/-- VEXT (R139). -/
def execVext (h : Hdr) (t : LTy) (d : XReg) (a : VReg) (n : BitVec 4) (s : State) : Host.Outcome State Fault Refusal :=
  issueSlot (.vext h t d a n) h s fun sl => sl.setX d.val (extLane t (lane (sl.v a.val) (LTy.width t) n.toNat))

/-- VMOVX, both directions (R139). -/
def execVmovx (h : Hdr) (toX : Bool) (v : VReg) (x : XReg) (s : State) : Host.Outcome State Fault Refusal :=
  issueSlot (.vmovx h toX v x) h s fun sl => 
    if toX then (below 4).foldl (fun (q : SlotSt) k => q.setX (x.val + k) ((sl.v v.val).extractLsb' (64 * k) 64)) sl
    else sl.setV v.val (sl.x (x.val + 3) ++ sl.x (x.val + 2) ++ sl.x (x.val + 1) ++ sl.x x.val)

end Sys2Proof.Machine
end

