-- ==== Sys2Proof/Machine/Convert.lean ====
section
/-!
DEFINITION. Class 7 without TBLLD: conversion, decoding, encoding, packing (R140 to R147).
-/
set_option Elab.async false
namespace Sys2Proof.Machine

def CTy.width : CTy → Nat
  | .f32 => 32
  | .e8m12 => 32
  | .f16 => 16
  | .bf16 => 16

/-- Source and destination lanes of a conversion (R141). -/
def convPairs (ws wd : Nat) (half : Bool) : List (Nat × Nat) :=
  if ws = wd then (below (256 / wd)).map fun j => (j, j)
  else if ws < wd then (below 8).map fun i => (8 * boolN half + i, i)
  else (below 8).map fun i => (i, 8 * boolN half + i)

/-- The destination lanes that the guard turns on, each from its source lane (R124, R141). -/
def convLanes (sl : SlotSt) (h : Hdr) (ws wd : Nat) (half : Bool) (d a : Nat) (f : Nat → Nat × Flags) : SlotSt :=
  sl.putV d ((convPairs ws wd half).foldl (fun (st : Vec × Flags) p =>
    let r := f (lane (sl.v a) ws p.1)
    if laneOn (sl.mask h) wd p.2 then (putLane st.1 wd p.2 r.1, st.2 ||| r.2) else st) (sl.v d, 0))

/-- CVT (R142). -/
def execCvt (h : Hdr) (dst src : CTy) (rm : Rnd) (half : Bool) (d a : VReg) (s : State) : Host.Outcome State Fault Refusal :=
  issueSlot (.cvt h dst src rm half d a) h s fun sl => convLanes sl h (CTy.width src) (CTy.width dst) half d.val a.val fun b =>
    fRes (CTy.fmt dst) rm [(CTy.fmt src).decode b] (.val ((CTy.fmt src).decode b), 0)

/-- CVTI (R143). -/
def execCvti (h : Hdr) (dst : ITy) (src : CTy) (rm : Rnd) (half : Bool) (d a : VReg) (s : State) : Host.Outcome State Fault Refusal :=
  issueSlot (.cvti h dst src rm half d a) h s fun sl => convLanes sl h (CTy.width src) (ITy.width dst) half d.val a.val fun b =>
    let r := toIntSat rm (ITy.lo dst) (ITy.hi dst) ((CTy.fmt src).decode b)
    (ofInt (ITy.width dst) r.1, r.2)

/-- CVTF (R144). -/
def execCvtf (h : Hdr) (dst : CTy) (src : ITy) (rm : Rnd) (half : Bool) (d a : VReg) (s : State) : Host.Outcome State Fault Refusal :=
  issueSlot (.cvtf h dst src rm half d a) h s fun sl => convLanes sl h (ITy.width src) (CTy.width dst) half d.val a.val fun b =>
    (CTy.fmt dst).pack rm (.val (ofIntV (if ITy.signed src then toSigned (ITy.width src) b else (b : Nat))))

/-- The decode table of a core that an instruction names (R148). -/
def tableOf (s : State) (tblB : Bool) : DecTable :=
  if tblB then (getCore s s.core).tblB else (getCore s s.core).tblA

/-- A decoded code in a format: a value of E8M12 as it stands, else rounded (R145). No NaN raises a flag. -/
def decLane (t : DecTable) (dst : CTy) (rm : Rnd) (code : Nat) : Nat × Flags :=
  match dst with
  | .e8m12 => ((CTy.fmt dst).pack rm (.val (t.value code))).1 |> fun b => (b, 0)
  | _ => (CTy.fmt dst).pack rm (.val (t.value code))

/-- DEC8 (R145). -/
def execDec8 (h : Hdr) (dst : CTy) (rm : Rnd) (grp : BitVec 2) (d a : VReg) (tblB : Bool) (s : State) :
    Host.Outcome State Fault Refusal :=
  issue (.dec8 h dst rm grp d a tblB) h s fun _ s => .ok (modCur s fun sl =>
    bitLanes sl h (CTy.width dst) d.val fun j =>
      decLane (tableOf s tblB) dst rm (lane (sl.v a.val) 8 (256 / CTy.width dst * grp.toNat + j)))

/-- One lane of ENC8: the code, NV for a signalling NaN, NX for a value that changes, OF for a saturated one (R146). -/
def encLane (t : DecTable) (x : FVal) : Nat × Flags :=
  let r := t.encode x
  let y := t.value r.1
  let nx := if x.isNan then false else y.isNan || cmpV x y ≠ 0
  (r.1, sigFlags [x] ||| (if nx then flNX else 0) ||| (if r.2 then flOF else 0))

/-- ENC8: the guard acts on the bytes written (R146). -/
def execEnc8 (h : Hdr) (src : CTy) (grp : BitVec 2) (d a : VReg) (tblB : Bool) (s : State) :
    Host.Outcome State Fault Refusal :=
  issue (.enc8 h src grp d a tblB) h s fun _ s => .ok (modCur s fun sl =>
    let n := 256 / CTy.width src
    let b0 := n * grp.toNat
    bitLanes sl h 8 d.val fun k =>
      if b0 ≤ k && k < b0 + n then encLane (tableOf s tblB) ((CTy.fmt src).decode (lane (sl.v a.val) (CTy.width src) (k - b0)))
      else (lane (sl.v d.val) 8 k, 0))

/-- Wide and narrow element widths of PACK and UNPACK (R147). -/
def wideOf (byte : Bool) : Nat := if byte then 16 else 32

/-- PACK (R147). -/
def execPack (h : Hdr) (byte hi : Bool) (d a b : VReg) (s : State) : Host.Outcome State Fault Refusal :=
  issueSlot (.pack h byte hi d a b) h s fun sl => 
    let e := wideOf byte
    bitLanes sl h (e / 2) d.val fun j =>
      let x := permLane e (sl.v a.val) (sl.v b.val) j
      (if hi then x / 2 ^ (e / 2) else x % 2 ^ (e / 2), 0)

/-- UNPACK (R147). -/
def execUnpack (h : Hdr) (byte hi x half : Bool) (d a : VReg) (s : State) : Host.Outcome State Fault Refusal :=
  issueSlot (.unpack h byte hi x half d a) h s fun sl => 
    let e := wideOf byte
    bitLanes sl h e d.val fun m =>
      let v := lane (sl.v a.val) (e / 2) (256 / e * boolN half + m)
      (if hi then v * 2 ^ (e / 2) else if x then ofInt e (toSigned (e / 2) v) else v, 0)

end Sys2Proof.Machine
end

