-- ==== Sys2Proof/Machine/LoadStore.lean ====
section
/-!
DEFINITION. Direct ordered operations: how they issue, wait, are performed and deliver their results; class 8, TBLLD and
the prefetches (R149, R158 to R174, R178, R349, R369).
-/
set_option Elab.async false
namespace Sys2Proof.Machine

/-! ### Locations -/

/-- The location k bytes further on. -/
def Loc.plus (l : Loc) (k : Nat) : Loc :=
  match l with
  | .loc c off => .loc c (off + k)
  | .glob a g => .glob a { g with va := g.va + k, pa := g.pa + k }

/-- The length of a location; a local one has the length that is given. -/
def Loc.len (total : Nat) : Loc → Nat
  | .loc _ _ => total
  | .glob _ g => g.len

def withLens (total : Nat) (ls : List Loc) : List (Loc × Nat) := ls.map fun l => (l, l.len total)

/-- The effective address of a location. -/
def Loc.ea : Loc → Nat
  | .loc _ off => winBase + off
  | .glob _ g => g.va

/-- A byte range cut at word boundaries, as offset and length. -/
def wordParts (a n : Nat) : List (Nat × Nat) :=
  (wordsOf a n).map fun w => (Nat.max a (4 * w) - a, Nat.min (a + n) (4 * w + 4) - Nat.max a (4 * w))

/-- The ASID of the current task. -/
def curAsid (s : State) : Nat :=
  match curSlot s with
  | some sl => (match getTask s sl.task with
    | some k => k.asid
    | none => 0)
  | none => 0

/-- Local memories numbered from here up stand for the mailbox entries that expert routines store into: that of command id
is number mailBase + id. -/
def mailBase : Nat := 2 ^ 40

/-- The address of a mailbox entry, which is aligned to its eight bytes (R199; log 7). -/
def mailboxEa (handle : Nat) : Nat := (Config.mailbox handle).toNat / 8 * 8

/-- The mailbox entry that a routine on a streamer stores its status word to (R199). -/
def mailboxOf (s : State) (ea : Word) : Option Loc :=
  if !isHart s.core then none
  else match curSlot s with
    | none => none
    | some sl => match tget s.cmds sl.task with
      | some m => if ea.toNat = mailboxEa m.handle then some (.loc (mailBase + sl.task) 0) else none
      | none => none

/-- An aligned access of n bytes at an effective address: checked and translated (R171). refuses: whether ALIAS is among its
causes. -/
def reachEa (s : State) (ea : Word) (n : Nat) (k : Acc4) (refuses : Bool := true) : Except Fail (State × Loc) :=
  match checkEa ea n k, mailboxOf s ea with
  | some t, _ => .error (.trap t)
  | none, some l => .ok (s, l)
  | none, none =>
    if inWin ea.toNat then .ok (s, .loc s.core (ea.toNat - winBase))
    else match reachPart s (curAsid s) ea.toNat n k refuses with
      | .error e => .error e
      | .ok (s, g) => .ok (s, .glob (curAsid s) g)

/-- The offset of the lowest poisoned byte among the parts of a location that a read touches (R334). read tells whether
a part is poisoned. -/
def firstBad (read : Loc → Nat → Bool) (l : Loc) (parts : List (Nat × Nat)) : Option Nat :=
  (parts.find? fun p => read (l.plus p.1) p.2).map fun p => p.1

/-- Whether a plain read by the current core would meet poison. -/
def badRead (s : State) (ro : Bool) (l : Loc) (n : Nat) : Bool := (coreRead s s.core ro l n none).2.2

/-- Whether a read at the slice or at local memory would meet poison. -/
def badPoint (s : State) (l : Loc) (n : Nat) : Bool := (pointRead s s.core l n none).2.2

def Sync.acquires : Sync → Bool
  | .acq => true
  | .acqrel => true
  | .none => false
  | .rel => false

def Sync.releases : Sync → Bool
  | .rel => true
  | .acqrel => true
  | .none => false
  | .acq => false

/-! ### Issue (R158 to R160) -/

/-- The KSENDTs still outstanding on whose predicates the instruction that issues, or a control transfer before it, depends
(R159 clause 3). -/
def flowDeps (s : State) (t : Nat) : List Nat :=
  match residence s t with
  | some (c, i) => (match slotAt s c i with
    | some sl => (sl.fed ++ sl.turned).eraseDups.filter fun n => (outstanding s t).any fun e => e.1 = n
    | none => [])
  | none => []

/-- The outstanding operations and commands of the streams that an after-mask names, and those ordered before by dataflow
(R159 clauses 1 and 3, R160). -/
def afterDeps (s : State) (t : Nat) (after : BitVec 8) : List Nat :=
  (((opsOf s t).filter fun o => after.getLsbD o.stream).map fun o => o.id) ++
  (((outstanding s t).filter fun e => after.getLsbD e.2.stream).map fun e => e.1) ++ flowDeps s t

def spansMeet (a b : List (Nat × Nat)) : Bool :=
  a.any fun x => b.any fun y => x.1 < y.1 + y.2 && y.1 < x.1 + x.2

/-- The bytes that a command accesses for R159 clause 2: a KSEND or KSENDT those of its record, another command none of the
task's (R205, R228, R277). -/
def Cmd.spans (m : Cmd) : List (Nat × Nat) :=
  match m.kind with
  | .ksend ls _ _ => ls.map fun l => (l.ea, 32)
  | _ => []

/-- The direct operations and commands still to be performed that share a byte (R159 clause 2). -/
def byteDeps (s : State) (t : Nat) (spans : List (Nat × Nat)) : List Nat :=
  (((opsOf s t).filter fun o => spansMeet o.spans spans).map fun o => o.id) ++
  (((outstanding s t).filter fun e => spansMeet e.2.spans spans).map fun e => e.1)

/-- What an operation about to issue has to wait for (R159). -/
def opDeps (s : State) (t : Nat) (o : Ord) (spans : List (Nat × Nat)) : List Nat :=
  (afterDeps s t o.after ++ byteDeps s t spans).eraseDups

/-- A direct operation that waits in the memory pipeline of the current slot. -/
def pushOp (s : State) (id : Nat) (o : Ord) (spans : List (Nat × Nat)) (kind : OpKind) : State :=
  match curSlot s with
  | none => s
  | some sl =>
    let op : MemOp :=
      { id, stream := o.stream.val, deps := opDeps s sl.task o spans, spans, sync := o.sync, scope := o.scope, kind
        pc := sl.pc - 16, mask := coreMask s s.core }
    setSlot s s.core s.slot { sl with ops := sl.ops ++ [op] }

/-- The memory as an operation would read it at its issue; none while something is still ordered before the operation, whose
poison is then judged when it is performed (R159, R171, R349). -/
def atIssue (s : State) (o : Ord) (spans : List (Nat × Nat)) : Option State :=
  match curSlot s with
  | none => none
  | some sl =>
    if !(opDeps s sl.task o spans).isEmpty then none
    else some (if Sync.acquires o.sync then acquireFlash s s.core o.scope else s)

/-- An aligned access as an operation: address, checks, poison of the bytes it reads, then its place in the pipeline. -/
def directEff (s : State) (id : Nat) (o : Ord) (a : XReg) (off : BitVec 32) (n : Nat) (k : Acc4)
    (parts : Nat → List (Nat × Nat)) (bad : State → Loc → Nat → Bool) (kind : SlotSt → Loc → OpKind)
    (refuses : Bool := true) : Eff :=
  match curSlot s with
  | none => .ok s
  | some sl =>
    let ea := eaOf (sl.x a.val) off
    match reachEa s ea n k refuses with
    | .error e => .fail e
    | .ok (s, l) =>
      let spans := (parts ea.toNat).map fun p => (ea.toNat + p.1, p.2)
      match (atIssue s o spans).bind fun u => firstBad (bad u) l (parts ea.toNat) with
      | some j => .trap { cause := .poison, detail := k.code, addr := ea + BitVec.ofNat 64 j }
      | none => .ok (pushOp s id o spans (kind sl l))

/-- Every byte of an access, cut into words. -/
def wholeParts (n : Nat) (a : Nat) : List (Nat × Nat) := wordParts a n

/-- The words of a vector access that are on (R172). -/
def maskParts (g : Pred) (_a : Nat) : List (Nat × Nat) :=
  (below 8).filterMap fun i => if g.getLsbD i then some (4 * i, 4) else none

def neverBad (_ : State) (_ : Loc) (_ : Nat) : Bool := false

/-! ### Class 8 (R170 to R174) -/

/-- LD: a load of 1 to 8 bytes (R172). -/
def execLd (h : Hdr) (o : Ord) (sz : Size) (ext : Bool) (d a : XReg) (off : BitVec 32) (s : State) :
    Host.Outcome State Fault Refusal :=
  issue (.ld h o sz ext d a off) h s fun id s =>
    directEff s id o a off sz.bytes .read (wholeParts sz.bytes) (fun s l n => badRead s false l n)
      fun sl l => .load false l sz.bytes ext (sl.px d.val)

/-- ST: a store of 1 to 8 bytes (R172). -/
def execSt (h : Hdr) (o : Ord) (sz : Size) (a b : XReg) (off : BitVec 32) (s : State) :
    Host.Outcome State Fault Refusal :=
  issue (.st h o sz a b off) h s fun id s =>
    directEff s id o a off sz.bytes .write (wholeParts sz.bytes) neverBad
      fun sl l => .store l sz.bytes (sl.x b.val)

/-- LDV: a vector load; bytes that are off are not read (R172). -/
def execLdv (h : Hdr) (o : Ord) (d : VReg) (a : XReg) (off : BitVec 32) (s : State) : Host.Outcome State Fault Refusal :=
  issue (.ldv h o d a off) h s fun id s =>
    let g := match curSlot s with | some sl => sl.mask h | none => 0
    directEff s id o a off 32 .read (maskParts g) (fun s l n => badRead s false l n) fun _ l => .loadV false l g d.val

/-- STV: a vector store; bytes that are off are not written (R172). -/
def execStv (h : Hdr) (o : Ord) (a : XReg) (b : VReg) (off : BitVec 32) (s : State) : Host.Outcome State Fault Refusal :=
  issue (.stv h o a b off) h s fun id s =>
    let g := match curSlot s with | some sl => sl.mask h | none => 0
    directEff s id o a off 32 .write (maskParts g) neverBad fun sl l => .storeV l g (sl.v b.val)

/-- LDRO: a load through the read-only cache, scalar or vector (R169, R172). -/
def execLdro (h : Hdr) (o : Ord) (sz : Size) (ext : Bool) (d a : XReg) (off : BitVec 32) (s : State) :
    Host.Outcome State Fault Refusal :=
  issue (.ldro h o sz ext d a off) h s fun id s =>
    let g := match curSlot s with | some sl => sl.mask h | none => 0
    if sz = .v then
      directEff s id o a off 32 .read (maskParts g) (fun s l n => badRead s true l n) fun _ l => .loadV true l g (d.val % 16)
    else
      directEff s id o a off sz.bytes .read (wholeParts sz.bytes) (fun s l n => badRead s true l n)
        fun sl l => .load true l sz.bytes ext (sl.px d.val)

/-- The lanes of LDG and STS that are on, with their addresses (R173). -/
def laneAddrs (sl : SlotSt) (g : Pred) (a : XReg) (b : VReg) (off : BitVec 32) (word sc : Bool) : List (Nat × Word) :=
  let w := if word then 32 else 16
  ((below (256 / w)).filter fun j => laneOn g w j).map fun j =>
    (j, eaOf (sl.x a.val) off + BitVec.ofNat 64 (lane (sl.v b.val) w j * (if sc then w / 8 else 1)))

/-- The trap of the first failing lane: ALIGN, then WINDOW (R173). -/
def laneTrap (e : Nat) (k : Acc4) (ls : List (Nat × Word)) : Option Trap :=
  ls.findSome? fun p =>
    if p.2.toNat % e ≠ 0 then some { cause := .align, detail := k.code, addr := p.2 }
    else if !inWin p.2.toNat then some { cause := .window, detail := k.code, addr := p.2 }
    else none

/-- The lowest address of a poisoned lane. -/
def lanePoison (s : State) (e : Nat) (ls : List (Nat × Word)) : Option Nat :=
  leastBy id ((ls.map fun p => p.2.toNat).filter fun a => (lmRead s s.core (a - winBase) e).2)

/-- LDG: a gather from local memory (R173). -/
def execLdg (h : Hdr) (o : Ord) (word sc : Bool) (d : VReg) (a : XReg) (b : VReg) (off : BitVec 32) (s : State) :
    Host.Outcome State Fault Refusal :=
  issue (.ldg h o word sc d a b off) h s fun id s =>
    match curSlot s with
    | none => .ok s
    | some sl =>
      let e := if word then 4 else 2
      let ls := laneAddrs sl (sl.mask h) a b off word sc
      match laneTrap e .read ls with
      | some t => .trap t
      | none =>
        let spans := ls.map fun p => (p.2.toNat, e)
        match (atIssue s o spans).bind fun u => lanePoison u e ls with
        | some x => .trap { cause := .poison, addr := BitVec.ofNat 64 x }
        | none => .ok (pushOp s id o spans (.gatherL s.core e (ls.map fun p => (p.1, p.2.toNat - winBase)) d.val))

/-- STS: a scatter into local memory (R173). -/
def execSts (h : Hdr) (o : Ord) (word sc : Bool) (d : VReg) (a : XReg) (b : VReg) (off : BitVec 32) (s : State) :
    Host.Outcome State Fault Refusal :=
  issue (.sts h o word sc d a b off) h s fun id s =>
    match curSlot s with
    | none => .ok s
    | some sl =>
      let e := if word then 4 else 2
      let ls := laneAddrs sl (sl.mask h) a b off word sc
      match laneTrap e .write ls with
      | some t => .trap t
      | none => .ok (pushOp s id o (ls.map fun p => (p.2.toNat, e))
          (.scatterL s.core e (ls.map fun p => (p.1, p.2.toNat - winBase, lane (sl.v d.val) (8 * e) p.1))))

/-- The lines that PFX asks for; those in the local window or past the address limit are skipped (R174). -/
def pfxLines (s : State) (t : PfxTarget) (ea : Word) (n : BitVec 4) : List Prefetch :=
  ((upFrom (ea.toNat / 128) (n.toNat + 1)).filter fun l => 128 * l < 2 ^ 56 && !inWin (128 * l)).map fun l =>
    match t with
    | .nc => .near s.core (curAsid s) l (coreMask s s.core) 0
    | .ro => .ro s.core (curAsid s) l (coreMask s s.core)
    | .sl => .slice s.core (curAsid s) l (coreMask s s.core)

/-- PFX: lines asked for; it orders nothing and never traps after issue (R174). -/
def execPfx (h : Hdr) (t : PfxTarget) (n : BitVec 4) (a : XReg) (off : BitVec 32) (s : State) :
    Host.Outcome State Fault Refusal :=
  issue (.pfx h t n a off) h s fun _ s =>
    match curSlot s with
    | none => .ok s
    | some sl => .ok (askFor s (pfxLines s t (eaOf (sl.x a.val) off) n))

/-! ### A range of bytes at issue -/

/-- The checks of a range that is one access: alignment, the address limit, the window, translation (R171). refuses: whether
ALIAS is among its causes (log 51). -/
def reachRange (s : State) (ea : Word) (n al : Nat) (k : Acc4) (refuses : Bool) : Except Fail (State × List (Loc × Nat)) :=
  match checkEa ea al k with
  | some t => .error (.trap t)
  | none =>
    if straddles ea.toNat n then .error (.trap { cause := .window, detail := k.code, addr := ea })
    else locate s s.core (curAsid s) ea.toNat n k refuses

/-- The places of n blocks of 64 bytes read as one load whose causes include neither WINDOW nor ALIAS (R256, R285): each lies
in the local window or is translated. DESIGN CHOICE: blocks past the address limit continue at address 0 (log 51). -/
def reachBlocks (s : State) (ea : Word) (n : Nat) : Except Fail (State × List Loc) :=
  match checkEa ea 64 .read with
  | some t => .error (.trap t)
  | none => (below n).foldl (fun r i => match r with
    | .error e => .error e
    | .ok (s, ls) =>
      let a := (ea.toNat + 64 * i) % 2 ^ 56
      if inWin a then .ok (s, ls ++ [.loc s.core (a - winBase)])
      else match reachPart s (curAsid s) a 64 .read false with
        | .error e => .error e
        | .ok (s, g) => .ok (s, ls ++ [.glob (curAsid s) g])) (.ok (s, []))

/-- The offset of the lowest poisoned byte of a range. -/
def rangeBad (read : Loc → Nat → Bool) : List (Loc × Nat) → Nat → Option Nat
  | [], _ => none
  | (l, n) :: ls, o =>
    match firstBad read l (wordParts l.ea n) with
    | some j => some (o + j)
    | none => rangeBad read ls (o + n)

/-- A record or an object read whole at a range of the current task: located, and free of poison. -/
def directRange (s : State) (id : Nat) (o : Ord) (ea : Word) (n al : Nat) (k : Acc4) (refuses : Bool)
    (read : State → Loc → Nat → Bool) (kind : List Loc → OpKind) : Eff :=
  match reachRange s ea n al k refuses with
  | .error e => .fail e
  | .ok (s, ls) =>
    match (atIssue s o [(ea.toNat, n)]).bind fun u => rangeBad (read u) ls 0 with
    | some j => .trap { cause := .poison, detail := k.code, addr := ea + BitVec.ofNat 64 j }
    | none => .ok (pushOp s id o [(ea.toNat, n)] (kind (ls.map fun l => l.1)))

/-- A decode table of a core replaced. -/
def setTable (s : State) (c : Nat) (tblB : Bool) (t : DecTable) : State :=
  modCore s c fun k => if tblB then { k with tblB := t } else { k with tblA := t }

/-- TBLLD: a decode table loaded from memory or from the shipped set (R149). -/
def execTblld (h : Hdr) (o : Ord) (src : TblSrc) (tblB : Bool) (a : XReg) (off : BitVec 32) (s : State) :
    Host.Outcome State Fault Refusal :=
  issue (.tblld h o src tblB a off) h s fun id s =>
    match src with
    | .q43 => .ok (setTable s s.core tblB .q43)
    | .q52 => .ok (setTable s s.core tblB .q52)
    | .mem =>
      match curSlot s with
      | none => .ok s
      | some sl => directRange s id o (eaOf (sl.x a.val) off) 1024 64 .read true (fun s l n => badRead s false l n)
          fun ls => .tblld ls tblB

/-! ### Delivery (R53, R159, R369) -/

/-- The places of a register in a record of ext 1: offset, length, and the bytes of a value there (R37). A cut handler's
shadow registers have none. -/
def recordPlaces (p : Put) : List (Nat × List Byte) :=
  match p.reg with
  | .x n => if n = 0 || 32 ≤ n then [] else [(160 + 8 * n, bytesOf 8 (p.val.toNat % 2 ^ 64))]
  | .v n => (below 8).filterMap fun i =>
      if p.mask.getLsbD i then some (416 + 32 * n + 4 * i, bytesOf 4 (lane p.val 32 i)) else none
  | .p n => if n = 0 then [] else [(928 + n, bytesOf 1 (p.val.toNat % 256))]
  | .tbl _ => []

/-- A value written into a saved record: the result, or the poison, of a detached access (R53, R368). Only an extension
has a place for every register. -/
def putRecord (s : State) (r : RecAt) (p : Put) : State :=
  match devRead s r.asid (r.va + 15) 1 with
  | .error _ => s
  | .ok (s, bs, _) =>
    if !bitN (natOf bs) 7 then s
    else (recordPlaces p).foldl (fun s q =>
      match p.bad with
      | some _ => devPoison s r.asid (r.va + q.1 / 4 * 4) q.2.length
      | none => match devWrite s r.asid (r.va + q.1) q.2 with
        | .ok s => s
        | .error _ => s) s

/-- Operations that change nothing but their destination: once performed, they can be performed again. -/
def OpKind.readsOnly : OpKind → Bool
  | .load _ _ _ _ _ => true
  | .loadV _ _ _ _ => true
  | .gatherL _ _ _ _ => true
  | .cntrd _ _ => true
  | _ => false

/-- An operation, command or entry has completed: its results reach the registers of its task, or its saved record, and
nothing of it is outstanding any more. -/
def deliver (s : State) (t id : Nat) (ps : List Put) : State :=
  match residence s t with
  | some (c, i) => modSlot s c i fun sl => sl.deliver id ps
  | none =>
    match getTask s t with
    | none => s
    | some k =>
      let s := match k.kept with
        | some (_, r) => ps.foldl (fun s p => putRecord s r p) s
        | none => s
      match k.detached.find? fun o => o.id = id with
      | some o => refreshRecord (modTask s t fun k => { k with detached := k.detached.filter fun o => o.id ≠ id }) t o.stream
      | none => s

/-- TSTAT.scopemiss set by an operation of a task (R166). -/
def markScope (s : State) (t id : Nat) : State :=
  match residence s t with
  | some (c, i) => modSlot s c i fun sl => { sl with
      scopemiss := true
      undo := sl.undo.map fun u => if id < u.id then { u with scopemiss := true } else u }
  | none =>
    match getTask s t with
    | none => s
    | some k => match k.kept with
      | none => s
      | some (_, r) => match devRead s r.asid (r.va + 15) 1 with
        | .ok (s, bs, _) => (match devWrite s r.asid (r.va + 15) [BitVec.ofNat 8 (natOf bs ||| 64)] with
          | .ok s => s
          | .error _ => s)
        | .error _ => s

/-- An outstanding operation of a task changed. -/
def modOp (s : State) (t id : Nat) (f : MemOp → MemOp) : State :=
  let g (l : List MemOp) : List MemOp := l.map fun o => if o.id = id then f o else o
  match residence s t with
  | some (c, i) => modSlot s c i fun sl => { sl with ops := g sl.ops }
  | none => modTask s t fun k => { k with detached := g k.detached }

/-- An operation that can fail no longer: its slot has nothing to go back to for it (R171). -/
def passed (s : State) (t id : Nat) : State :=
  match residence s t with
  | some (c, i) => modSlot s c i fun sl => { sl with undo := sl.undo.filter fun u => u.id ≠ id }
  | none => s

/-! ### Performing (R158, R164 to R168, R171 to R177) -/

/-- The core from which an operation of a task reaches memory: where it is resident, or where it was saved. -/
def homeCore (s : State) (t : Nat) : Nat :=
  match residence s t with
  | some (c, _) => c
  | none => match getTask s t with
    | some k => (match k.kept with
      | some (c, _) => c
      | none => k.home)
    | none => 0

/-- The cache action of an acquire, before it reads (R167). -/
def beforeAcquire (s : State) (c : Nat) (m : MemOp) : State :=
  if Sync.acquires m.sync then acquireFlash s c m.scope else s

/-- The judgement of an acquire by the releases that wrote what it reads (R166). (Log 36.) -/
def judgeAcquire (s : State) (c t : Nat) (m : MemOp) (tags : List RelTag) : State :=
  if Sync.acquires m.sync && scopeMiss s tags c m.scope then markScope s t m.id else s

/-- The releases that wrote what is read at the slices or in local memory. -/
def pointTags (s : State) (c : Nat) (ls : List (Loc × Nat)) : List RelTag :=
  (ls.map fun l => tagsRead s c false l.1 l.2).flatten

/-- A write as the release that its operation makes of it (R164). -/
def MemOp.release (m : MemOp) (c : Nat) : Option (Nat × Scope) :=
  if Sync.releases m.sync then some (c, m.scope) else none

/-- Poison met where an operation is performed: POISON, where its slot can go back to it (R171, R349). -/
def poisonPerformed (s : State) (t : Nat) (m : MemOp) (k : Acc4) (addr : Nat) : Option State :=
  failPerformed s t m.id (.trap { cause := .poison, detail := k.code, addr := BitVec.ofNat 64 addr })

/-- Whether an operation of a resident task has passed the point at which it could trap. -/
def opPast (s : State) (t id : Nat) : Bool :=
  match residence s t with
  | some (c, i) => (match slotAt s c i with
    | some sl => sl.isPast id
    | none => false)
  | none => false

/-- A read that is performed: without poison it goes on; with poison at an address it traps, or, where its task is not
resident, goes on with that address. Poison that reaches its bytes after it has passed the point at which it could trap is seen
after it (R171, R349; log 32). -/
def orPoison (s : State) (t : Nat) (m : MemOp) (k : Acc4) (bad : Option Nat) (go : Option Nat → State) : State :=
  match bad with
  | none => go none
  | some a => if opPast s t m.id then go none else (poisonPerformed s t m k a).getD (go (some a))

/-- The effective address of an operation. -/
def MemOp.ea (m : MemOp) : Nat := match m.spans with
  | (a, _) :: _ => a
  | [] => 0

/-- A scalar load performed (R172). -/
def performLoad (s : State) (c t : Nat) (m : MemOp) (ro : Bool) (l : Loc) (n : Nat) (ext : Bool) (dst : Nat) : State :=
  let u := beforeAcquire s c m
  let bad := (firstBad (fun l n => (coreRead u c ro l n m.mask).2.2) l (wordParts l.ea n)).map fun j => l.ea + j
  orPoison s t m .read bad fun bad =>
    let r := coreRead u c ro l n m.mask
    let s := judgeAcquire r.1 c t m (tagsRead r.1 c (!ro) l n)
    deliver s t m.id [putX dst (extendTo n ext (natOf r.2.1)) bad]

/-- A vector load performed: the words that are on, as one access of its slice (R172, R193). -/
def performLoadV (s : State) (c t : Nat) (m : MemOp) (ro : Bool) (l : Loc) (g : Pred) (dst : Nat) : State :=
  let bad := (firstBad (fun l n => (coreRead s c ro l n m.mask).2.2) l (maskParts g 0)).map fun j => l.ea + j
  orPoison s t m .read bad fun bad =>
    let r := (maskParts g 0).foldl (fun (st : State × Vec) p =>
      let q := corePart st.1 c ro (l.plus p.1) 4 m.mask
      (q.1, putLane st.2 32 (p.1 / 4) (natOf q.2.1))) (if g = 0 then s else readTouch s c l m.mask, 0)
    deliver r.1 t m.id [{ reg := .v dst, val := r.2, mask := g, bad }]

/-- The command whose mailbox entry a location is. -/
def Loc.mail : Loc → Option Nat
  | .loc c _ => if mailBase ≤ c then some (c - mailBase) else none
  | .glob _ _ => none

/-- A status word stored to a mailbox entry: the completion release is on its way, and a failure is logged (R198, R199,
R345). -/
def storeStatus (s : State) (id : Nat) (v : Word) : State :=
  match tget s.cmds id with
  | none => s
  | some m =>
    logEnd { s with cmds := tset s.cmds id { m with state := .releasing (fld v 63 60), offset := fld v 47 0 } } m
      (fld v 63 60) 0

/-- A scalar store performed (R167, R172). -/
def performStore (s : State) (c t : Nat) (m : MemOp) (l : Loc) (n : Nat) (v : Word) : State :=
  match l.mail with
  | some id => deliver (storeStatus s id v) t m.id []
  | none => deliver (tagStore (coreWrite s c l (bytesOf n v.toNat) m.mask) c l n (m.release c)) t m.id []

/-- A vector store performed: the words that are on, as one access of its slice (R172, R193). -/
def performStoreV (s : State) (c t : Nat) (m : MemOp) (l : Loc) (g : Pred) (v : Vec) : State :=
  deliver ((maskParts g 0).foldl (fun s p =>
    tagStore (storePart s c (l.plus p.1) (bytesOf 4 (lane v 32 (p.1 / 4))) m.mask) c (l.plus p.1) 4 (m.release c))
      (if g = 0 then s else storeTouch s c l m.mask)) t m.id []

/-- LDG performed (R173). -/
def performGather (s : State) (t : Nat) (m : MemOp) (core e : Nat) (ls : List (Nat × Nat)) (dst : Nat) : State :=
  let w := 8 * e
  let bad := leastBy id ((ls.filter fun p => (lmRead s core p.2 e).2).map fun p => winBase + p.2)
  orPoison s t m .read bad fun bad =>
    let v := ls.foldl (fun (v : Vec) p => putLane v w p.1 (natOf (lmRead s core p.2 e).1)) 0
    let g := ls.foldl (fun (g : Pred) p => g ||| ((1 : Pred) <<< (w * p.1 / 32))) 0
    deliver s t m.id [{ reg := .v dst, val := v, mask := g, bad }]

/-- STS performed, lanes in ascending order; a word whose four bytes its lanes write between them loses its poison (R173,
R349). -/
def performScatter (s : State) (t : Nat) (m : MemOp) (core e : Nat) (ls : List (Nat × Nat × Nat)) : State :=
  let whole (w : Nat) : Bool := (upFrom (4 * w) 4).all fun b => ls.any fun p => p.2.1 ≤ b && b < p.2.1 + e
  let s := ls.foldl (fun s p => lmWrite s core p.2.1 (bytesOf e p.2.2)) s
  let s := if ls.isEmpty then s
    else modCore s core fun k => { k with lpoison := k.lpoison.filter fun w => !whole w }
  deliver s t m.id []

/-- The address of the lowest poisoned byte among located ranges. -/
def poisonIn (read : Loc → Nat → Bool) (ls : List (Loc × Nat)) : Option Nat :=
  ls.findSome? fun l => (firstBad read l.1 (wordParts l.1.ea l.2)).map fun j => l.1.ea + j

/-- TBLLD performed: the table changes after all its words have been read, and not when one of them is poisoned (R149,
R349). -/
def performTblld (s : State) (c t : Nat) (m : MemOp) (src : List Loc) (tblB : Bool) : State :=
  let u := beforeAcquire s c m
  let ls := withLens 1024 src
  orPoison s t m .read (poisonIn (fun l n => (coreRead u c false l n m.mask).2.2) ls) fun bad =>
    let r := readLocs u c false m.mask ls
    let s := judgeAcquire r.1 c t m ((ls.map fun l => tagsRead r.1 c true l.1 l.2).flatten)
    let img := (below 256).map fun i => BitVec.ofNat 32 (natOf ((r.2.1.drop (4 * i)).take 4))
    deliver (if bad.isSome then s else setTable s c tblB (.img img)) t m.id []

/-! ### Prefetches (R93, R174) -/

/-- Where a line that can be filled without a fault lies, and the state that records its tag. -/
def linePlace (s : State) (c asid line : Nat) : Option (State × Seg) :=
  if (getCore s c).owner ≠ some asid && !isHart c then none
  else match reachPart s asid (128 * line) 128 .read true with
    | .error _ => none
    | .ok (s, g) => if memBad s g.pa 128 then none else some (s, g)

/-- A line filled from where it lies; one whose translation would fault and a poisoned one are skipped (R174). -/
def fillAt (s : State) (c asid line : Nat) (fill : State → Seg → State) : State :=
  match linePlace s c asid line with
  | none => s
  | some (s, g) => fill s g

/-- A line that has been filled, without the words that an INVR met while the fill was in flight: those are not made valid
(R191). -/
def NearLine.without (l : NearLine) (dead : BitVec 32) : NearLine :=
  { l with
    valid := l.valid &&& ~~~ dead, poison := l.poison &&& ~~~ dead
    rel := l.rel.filter fun t => !(l.pa ≤ t.addr && t.addr < l.pa + 128 && dead.getLsbD ((t.addr - l.pa) / 4)) }

/-- A near-cache line filled ahead of use (R174, R191). -/
def fillNear (s : State) (cl asid : Nat) (g : Seg) (mask : Option Word) (dead : BitVec 32) : State :=
  let old := match nearFind s cl asid (g.va / 128) with
    | some l => l.valid
    | none => 0
  let s := (nearRead s cl asid g mask).1
  match nearFind s cl asid (g.va / 128) with
  | some l => putNear s cl (l.without (dead &&& ~~~ old))
  | none => s

/-- A prefetched line arrives under the mask that its request carried; one that is present is skipped (R174, R192). (Log
39.) -/
def fillLine (s : State) (p : Prefetch) : State :=
  match p with
  | .near c asid line mask dead =>
    let cl := clusterOf s c
    if uncached c || (match nearFind s cl asid line with | some l => l.valid = 0xFFFFFFFF | none => false) then s
    else fillAt s c asid line fun s g => fillNear s cl asid g mask dead
  | .ro c asid line mask =>
    let cl := clusterOf s c
    if uncached c || (getCluster s cl).ro.any (fun l => l.asid = asid && l.line = line) then s
    else fillAt s c asid line fun s g => (roRead s cl asid g mask).1
  | .slice c asid line mask =>
    if atSlice s asid line then s else fillAt s c asid line fun s g => touchSlice s asid line g.cls mask
  | .code c asid blk mask =>
    let cl := clusterOf s c
    if uncached c || (blockFind s cl (some asid) blk).isSome then s
    else match blockAt s (some asid) blk with
      | .ok (s, g) =>
        if memBad s g.pa 64 then s
        else blockAdd (fetchTouch s (some asid) g mask) cl (blockRead s (some asid) blk g.pa)
      | .error _ => s

/-- Whether a requested code block has to wait: it has lower precedence than the demand fetches of its cluster (R50, R93). -/
def givesPrecedence (s : State) (p : Prefetch) : Bool :=
  match p with
  | .code c _ _ _ => !(pendingFetches s (clusterOf s c)).isEmpty
  | .near _ _ _ _ _ => false
  | .ro _ _ _ _ => false
  | .slice _ _ _ _ => false

/-- PREFETCH_FILL: one requested line or block arrives (R93, R174). -/
def execPrefetchFill (id : Nat) (s : State) : Host.Outcome State Fault Refusal :=
  match tget s.fetches id with
  | none => .next s
  | some p => .next (if givesPrecedence s p then s else fillLine { s with fetches := tdel s.fetches id } p)

end Sys2Proof.Machine
end

