-- ==== Sys2Proof/Machine/Atomic.lean ====
section
/-!
DEFINITION. Class 9: the atomics (R175 to R177) and the region and locking instructions (R184 to R197).
-/
set_option Elab.async false
namespace Sys2Proof.Machine

/-! ### AMO and CAS (R175, R176) -/

/-- The new value of an AMO over n bytes (R175). -/
def amoNew (op : AmoOp) (n old opd : Nat) : Nat :=
  let so := toSigned (8 * n) old
  let sd := toSigned (8 * n) opd
  match op with
  | .add => (old + opd) % 2 ^ (8 * n)
  | .and => old &&& opd
  | .or => old ||| opd
  | .xor => old ^^^ opd
  | .min => if so ≤ sd then old else opd
  | .max => if so ≤ sd then opd else old
  | .minn => Nat.min old opd
  | .maxn => Nat.max old opd
  | .swap => opd

def atomBytes (dword : Bool) : Nat := if dword then 8 else 4

/-- AMO (R175). -/
def execAmo (h : Hdr) (o : Ord) (op : AmoOp) (dword ext : Bool) (d a b : XReg) (off : BitVec 32) (s : State) :
    Host.Outcome State Fault Refusal :=
  issue (.amo h o op dword ext d a b off) h s fun id s =>
    let n := atomBytes dword
    directEff s id o a off n .rmw (wholeParts n) badPoint
      fun sl l => .amo l op n ext (BitVec.ofNat 64 ((sl.x b.val).toNat % 2 ^ (8 * n))) (sl.px d.val)

/-- CAS: x[d] is compared, then receives the old value (R176). -/
def execCas (h : Hdr) (o : Ord) (dword ext : Bool) (d a b : XReg) (off : BitVec 32) (s : State) :
    Host.Outcome State Fault Refusal :=
  issue (.cas h o dword ext d a b off) h s fun id s =>
    let n := atomBytes dword
    directEff s id o a off n .rmw (wholeParts n) badPoint
      fun sl l => .cas l n ext (BitVec.ofNat 64 ((sl.x d.val).toNat % 2 ^ (8 * n)))
        (BitVec.ofNat 64 ((sl.x b.val).toNat % 2 ^ (8 * n))) (sl.px d.val)

/-- The lowest poisoned byte of a location that an atomic step would read. -/
def pointBad (s : State) (c : Nat) (m : MemOp) (l : Loc) (n : Nat) : Option Nat :=
  poisonIn (fun l n => (pointRead s c l n m.mask).2.2) [(l, n)]

/-- An AMO performed: read, modify, write as one step at local memory or at the slice (R175, R177). -/
def performAmo (s : State) (c t : Nat) (m : MemOp) (l : Loc) (op : AmoOp) (n : Nat) (ext : Bool) (v : Word) (dst : Nat) :
    State :=
  let u := beforeAcquire s c m
  orPoison s t m .rmw (pointBad u c m l n) fun bad =>
    let r := pointRead u c l n m.mask
    let old := natOf r.2.1
    let s := judgeAcquire r.1 c t m (pointTags r.1 c [(l, n)])
    let s := if bad.isSome then s
      else tagHere (pointWrite s l (bytesOf n (amoNew op n old v.toNat))) l n (m.release c)
    deliver s t m.id [putX dst (extendTo n ext old) bad]

/-- A CAS performed; a failed one writes nothing and is no release (R176). -/
def performCas (s : State) (c t : Nat) (m : MemOp) (l : Loc) (n : Nat) (ext : Bool) (cmp new : Word) (dst : Nat) : State :=
  let u := beforeAcquire s c m
  orPoison s t m .rmw (pointBad u c m l n) fun bad =>
    let r := pointRead u c l n m.mask
    let old := natOf r.2.1
    let s := judgeAcquire r.1 c t m (pointTags r.1 c [(l, n)])
    let s := if bad.isNone && old = cmp.toNat then tagHere (pointWrite s l (bytesOf n new.toNat)) l n (m.release c) else s
    deliver s t m.id [putX dst (extendTo n ext old) bad]

/-! ### Region instructions (R184 to R189) -/

/-- A range translated; what it fills is tagged when it is filled. Only PAGE, and PERMISSION where it is written (R185,
R197). -/
def xlateParts (s : State) (asid : Nat) (k : Acc4) : List (Nat × Nat) → Except Fail (State × List Seg)
  | [] => .ok (s, [])
  | (va, n) :: ps =>
    match translate s asid va with
    | .error e => .error (failX va k va e)
    | .ok (s, p) =>
      if k.writes && !p.w then
        .error (.trap { cause := .permission, detail := k.code, addr := BitVec.ofNat 64 va })
      else match xlateParts s asid k ps with
        | .error e => .error e
        | .ok (s, gs) => .ok (s, ⟨va, p.addr va, n, p.swm, p.cls, p.w⟩ :: gs)

/-- The bytes that one execution covers (R185). -/
def regionLen (len : Word) : Nat := Nat.min len.toNat 65536

/-- A region's places, after the checks of R185. (Log 51.) -/
def regionLocs (s : State) (ea len : Word) (k : Acc4) : Except Fail (State × List Loc) :=
  let m := regionLen len
  if (ea + BitVec.ofNat 64 (m - 1)).toNat / 2 ^ 56 ≠ 0 || fld ea 63 56 ≠ 0 then
    .error (.trap { cause := .address, detail := k.code, addr := ea })
  else if straddles ea.toNat m then .error (.trap { cause := .window, detail := k.code, addr := ea })
  else if inWin ea.toNat then .ok (s, [.loc s.core (ea.toNat - winBase)])
  else match xlateParts s (curAsid s) k (partsOf ea.toNat m) with
    | .error e => .error e
    | .ok (s, gs) => .ok (s, gs.map fun g => .glob (curAsid s) g)

/-- The first poisoned byte that a write-back of a range would read: a dirty byte whose word is poisoned in the near cache, or,
where the slice has to fill the line that it writes to, a byte of that line in memory (R197). -/
def dirtyBad (s : State) (c : Nat) (ls : List Loc) : Option Nat :=
  if uncached c then none
  else ls.findSome? fun l => match l with
    | .loc _ _ => none
    | .glob asid g =>
      match nearFind s (clusterOf s c) asid (g.va / 128) with
      | none => none
      | some n =>
        let dirty := (upFrom (g.va % 128) g.len).filter fun k => n.dirty.getLsbD k
        let bad := match dirty.find? fun k => n.poison.getLsbD (k / 4) with
          | some k => some k
          | none => if dirty.isEmpty || atSlice s asid n.line then none else memBadAt s n.pa 128
        bad.map fun k => g.va / 128 * 128 + k

/-- The first poisoned byte that a fill for zeroed words would read: zeros written through to a line that its slice does not
hold make the slice fill it, and what they do not cover is read (R189, R197). DESIGN CHOICE: of the fills that write through,
only those of ZEROR raise POISON, since R197 names no other (log 39). -/
def zeroBad (s : State) (c : Nat) (ls : List Loc) : Option Nat :=
  ls.findSome? fun l => match l with
    | .loc _ _ => none
    | .glob asid g =>
      let zeroed := wordRange (g.va % 128) (g.va % 128 + g.len)
      if (g.swm && !uncached c) || atSlice s asid (g.va / 128) then none
      else ((below 32).find? fun w => !zeroed.getLsbD w && memBad s (g.pa / 128 * 128 + 4 * w) 4).map fun w =>
        g.va / 128 * 128 + 4 * w

/-- No poison is read. -/
def noneBad (_ : State) (_ : Nat) (_ : List Loc) : Option Nat := none

/-- A region instruction at issue: alignment, the empty range, the other checks, then the operation; the remaining length
goes to x[d] when it is performed (R185, R190). bad: the poison that it would read. atOnce: in the local
window it is performed at issue (R186). -/
def regionEff (s : State) (id : Nat) (o : Ord) (d a b : XReg) (off : BitVec 32) (k : Acc4)
    (bad : State → Nat → List Loc → Option Nat) (atOnce : Bool) (kind : List Loc → Word → Nat → OpKind) : Eff :=
  match curSlot s with
  | none => .ok s
  | some sl =>
    let len := sl.x b.val
    let ea := eaOf (sl.x a.val) off
    let m := regionLen len
    let rem := len - BitVec.ofNat 64 m
    if ea.toNat % 4 ≠ 0 || len.toNat % 4 ≠ 0 then .trap { cause := .align, detail := k.code, addr := ea }
    else if m = 0 then .ok (deliver s sl.task id [putX (sl.px d.val) 0 none])
    else match regionLocs s ea len k with
      | .error e => .fail e
      | .ok (s, ls) =>
        if inWin ea.toNat && atOnce then .ok (deliver s sl.task id [putX (sl.px d.val) rem none])
        else match (atIssue s o [(ea.toNat, m)]).bind fun u => bad u u.core ls with
          | some x => .trap { cause := .poison, detail := k.code, addr := BitVec.ofNat 64 x }
          | none => .ok (pushOp s id o [(ea.toNat, m)] (kind ls rem (sl.px d.val)))

/-- WBR (R186). -/
def execWbr (h : Hdr) (o : Ord) (d a b : XReg) (off : BitVec 32) (s : State) : Host.Outcome State Fault Refusal :=
  issue (.wbr h o d a b off) h s fun id s => regionEff s id o d a b off .read dirtyBad true .wbr

/-- INVR (R187). -/
def execInvr (h : Hdr) (o : Ord) (d a b : XReg) (off : BitVec 32) (s : State) : Host.Outcome State Fault Refusal :=
  issue (.invr h o d a b off) h s fun id s => regionEff s id o d a b off .read noneBad false (.invr false)

/-- INVR.ro (R187). -/
def execInvrRo (h : Hdr) (o : Ord) (d a b : XReg) (off : BitVec 32) (s : State) : Host.Outcome State Fault Refusal :=
  issue (.invrRo h o d a b off) h s fun id s => regionEff s id o d a b off .read noneBad false (.invr true)

/-- WBINVR (R188). -/
def execWbinvr (h : Hdr) (o : Ord) (d a b : XReg) (off : BitVec 32) (s : State) : Host.Outcome State Fault Refusal :=
  issue (.wbinvr h o d a b off) h s fun id s => regionEff s id o d a b off .read dirtyBad false .wbinvr

/-- ZEROR (R189). -/
def execZeror (h : Hdr) (o : Ord) (d a b : XReg) (off : BitVec 32) (s : State) : Host.Outcome State Fault Refusal :=
  issue (.zeror h o d a b off) h s fun id s => regionEff s id o d a b off .write zeroBad false .zeror

/-- The dirty bytes of one part of a range written back and clean (R182, R186). DESIGN CHOICE: WBR, INVR and what an AMO does
to a near line are uses of it for R179's replacement, and move it to the front; the spec does not say (log 39). -/
def wbPart (s : State) (c : Nat) (l : Loc) (mask : Option Word) : State :=
  match l with
  | .loc _ _ => s
  | .glob asid g =>
    let cl := clusterOf s c
    let o := g.va % 128
    match nearFind s cl asid (g.va / 128) with
    | none => s
    | some n =>
      if !n.swm then s
      else putNear (writeBack s n o (o + g.len) mask) cl { n with dirty := n.dirty &&& ~~~ maskRange o (o + g.len) }

/-- The fills of a near line that are in flight told of words that an INVR meets (R191). -/
def markFills (s : State) (cl asid line : Nat) (w : BitVec 32) : State :=
  { s with fetches := s.fetches.map fun e => match e.2 with
      | .near c a n mask dead =>
        if clusterOf s c = cl && a = asid && n = line then (e.1, .near c a n mask (dead ||| w)) else e
      | _ => e }

/-- One part of a range invalidated in the near cache, and in the fills of its line that are in flight (R187, R191). -/
def invPart (s : State) (c : Nat) (l : Loc) : State :=
  match l with
  | .loc _ _ => s
  | .glob asid g =>
    let cl := clusterOf s c
    let o := g.va % 128
    let s := markFills s cl asid (g.va / 128) (if g.swm then wordRange o (o + g.len) else 0xFFFFFFFF)
    match nearFind s cl asid (g.va / 128) with
    | none => s
    | some n => if !n.swm then dropNear s cl asid (g.va / 128) else putNear s cl (n.invalidate o (o + g.len))

/-- One part of a range dropped from the read-only cache (R187). -/
def roPart (s : State) (c : Nat) (l : Loc) : State :=
  match l with
  | .loc _ _ => s
  | .glob asid g => roDrop s (clusterOf s c) asid (g.va / 128) (g.va / 128)

/-- The tag under which a location's line is filled, recorded (R348). -/
def tagLine (s : State) (l : Loc) : State :=
  match l with
  | .loc _ _ => s
  | .glob asid g => tagPresent s (g.pa / 128) asid (g.va / 128) g.w

/-- One part of a range zeroed, as a store (R189). -/
def zeroPart (s : State) (c : Nat) (l : Loc) (n : Nat) (mask : Option Word) : State :=
  tagStore (coreWrite (tagLine s l) c l (bytesOf n 0) mask) c l n none

def regionDone (s : State) (t : Nat) (m : MemOp) (rem : Word) (dst : Nat) : State :=
  deliver s t m.id [putX dst rem none]

/-- The length of a region operation. -/
def MemOp.total (m : MemOp) : Nat := match m.spans with
  | (_, n) :: _ => n
  | [] => 0

/-- A region operation that writes back: each part of its range in turn, unless it would read poison (R197). -/
def writesBack (s : State) (c t : Nat) (m : MemOp) (ls : List Loc) (rem : Word) (dst : Nat) (f : State → Loc → State) :
    State :=
  orPoison s t m .read (dirtyBad s c ls) fun bad =>
    deliver (if uncached c then s else ls.foldl f s) t m.id [putX dst rem bad]

/-- WBR performed. DESIGN CHOICE: the whole range is acted on in one event; R186 and R191 leave open when each word is (log
39). -/
def performWbr (s : State) (c t : Nat) (m : MemOp) (ls : List Loc) (rem : Word) (dst : Nat) : State :=
  writesBack s c t m ls rem dst fun s l => wbPart s c l m.mask

def performInvr (s : State) (c t : Nat) (m : MemOp) (ro : Bool) (ls : List Loc) (rem : Word) (dst : Nat) : State :=
  regionDone (if uncached c then s else ls.foldl (fun s l => if ro then roPart s c l else invPart s c l) s) t m rem dst

def performWbinvr (s : State) (c t : Nat) (m : MemOp) (ls : List Loc) (rem : Word) (dst : Nat) : State :=
  writesBack s c t m ls rem dst fun s l => invPart (wbPart s c l m.mask) c l

def performZeror (s : State) (c t : Nat) (m : MemOp) (ls : List Loc) (rem : Word) (dst : Nat) : State :=
  orPoison s t m .write (zeroBad s c ls) fun bad =>
    deliver (if bad.isSome then s else (withLens m.total ls).foldl (fun s l => zeroPart s c l.1 l.2 m.mask) s) t m.id
      [putX dst rem bad]

/-! ### Locked lines (R195, R196) -/

/-- How many lines an ASID holds locked in a slice, and how many ways of a set are locked. -/
def usedBy (sl : SliceSt) (asid : Nat) : Nat :=
  sl.sets.foldl (fun n e => n + (e.2.filter fun w => w.2.locked && w.2.asid = asid).length) 0
def lockedIn (set : Tab Way) : Nat := (set.filter fun w => w.2.locked).length

/-- What LOCKL or UNLOCKL makes of a line at its slice: it leaves it, fails, changes the lock of its way, or fills a way and
locks it (R195). -/
inductive LockStep where
  | keep
  | fail
  | change (way : Nat)
  | fill (way : Nat)
  deriving DecidableEq, Repr

/-- The ways of the set of a line at its slice. -/
def setWays (s : State) (line : Nat) : Tab Way := (tget (getSlice s (sliceOf s.gw.slhash line)).sets (setOf line)).getD []

/-- The decision of R195 for a line, under the mask that the request carries, none for the slice's own (R193). -/
def lockStep (s : State) (lock : Bool) (mask : Option Word) (asid : Nat) (g : Seg) : LockStep :=
  let sl := getSlice s (sliceOf s.gw.slhash (g.va / 128))
  let set := setWays s (g.va / 128)
  let full := (tget sl.quota asid).getD 0 ≤ usedBy sl asid || lockedIn set = 12
  let locked (w : Nat) : Bool := match tget set w with | some x => x.locked | none => false
  match lock, findWay set asid (g.va / 128) with
  | true, some w => if locked w then .keep else if full then .fail else .change w
  | true, none => if full then .fail else (match pickWay set (maskOf (mask.getD sl.dmask) g.cls) with
      | some w => .fill w
      | none => .fail)
  | false, some w => if locked w then .change w else .fail
  | false, none => .fail

/-- LOCKL or UNLOCKL of one line at its slice: the state, and whether the line failed (R195, R348). DESIGN CHOICE: the recency
of a line that is present stays as it was; the spec does not say whether these renew it (log 39). -/
def lockLine (s : State) (lock : Bool) (mask : Option Word) (asid : Nat) (g : Seg) : State × Bool :=
  let line := g.va / 128
  let k := sliceOf s.gw.slhash line
  let set := setWays s line
  let put (s : State) (set : Tab Way) : State :=
    let sl := getSlice s k
    setSlice s k { sl with sets := tset sl.sets (setOf line) set }
  match lockStep s lock mask asid g with
  | .keep => (s, false)
  | .fail => (s, true)
  | .change w => (put s (tmod set w fun x => { x with locked := lock }), false)
  | .fill w => (put (tagLine (bump s) (.glob asid g)) (tset set w ⟨asid, line, g.cls, true, s.seq⟩), false)

/-- The lowest poisoned byte that the lock-fills of a run would read (R197). A line that fails is not filled (R352). -/
def lockBad (s : State) (lock : Bool) (mask : Option Word) : List Loc → Option Nat
  | [] => none
  | .loc _ _ :: ls => lockBad s lock mask ls
  | .glob asid g :: ls =>
    match lockStep s lock mask asid g, memBadAt s g.pa 128 with
    | .fill _, some o => some (g.va + o)
    | _, _ => lockBad (lockLine s lock mask asid g).1 lock mask ls

/-- LOCKL and UNLOCKL at issue (R195). -/
def lockEff (s : State) (id : Nat) (o : Ord) (lock : Bool) (n : BitVec 6) (d a : XReg) (off : BitVec 32) : Eff :=
  match curSlot s with
  | none => .ok s
  | some sl =>
    let ea := eaOf (sl.x a.val) off
    let len := 128 * (n.toNat + 1)
    if ea.toNat % 128 ≠ 0 then .trap { cause := .align, addr := ea }
    else if fld ea 63 56 ≠ 0 || (ea + BitVec.ofNat 64 (len - 1)).toNat / 2 ^ 56 ≠ 0 then .trap { cause := .address, addr := ea }
    else if ea.toNat < winBase + 65536 && winBase < ea.toNat + len then .trap { cause := .window, addr := ea }
    else match xlateParts s (curAsid s) .read (partsOf ea.toNat len) with
      | .error e => .fail e
      | .ok (s, gs) =>
        let ls := gs.map fun g => Loc.glob (curAsid s) g
        match (atIssue s o [(ea.toNat, len)]).bind fun u => lockBad u lock (coreMask s s.core) ls with
        | some x => .trap { cause := .poison, addr := BitVec.ofNat 64 x }
        | none => .ok (pushOp s id o [(ea.toNat, len)] (.lockl lock ls 0 0 (sl.px d.val)))

/-- LOCKL (R195). -/
def execLockl (h : Hdr) (o : Ord) (n : BitVec 6) (d a : XReg) (off : BitVec 32) (s : State) :
    Host.Outcome State Fault Refusal :=
  issue (.lockl h o n d a off) h s fun id s => lockEff s id o true n d a off

/-- UNLOCKL (R195). -/
def execUnlockl (h : Hdr) (o : Ord) (n : BitVec 6) (d a : XReg) (off : BitVec 32) (s : State) :
    Host.Outcome State Fault Refusal :=
  issue (.unlockl h o n d a off) h s fun id s => lockEff s id o false n d a off

/-- A line of LOCKL or UNLOCKL handled at its slice, after n lines of which bm names those that failed; with the last one
the operation is performed (R195). -/
def performLock (s : State) (t : Nat) (m : MemOp) (lock : Bool) (ls : List Loc) (n bm dst : Nat) : State :=
  orPoison s t m .read (lockBad s lock m.mask ls) fun bad =>
    let go (s : State) (rest : List Loc) (bm : Nat) : State :=
      if rest.isEmpty || bad.isSome then deliver s t m.id [putX dst (BitVec.ofNat 64 bm) bad]
      else modOp s t m.id fun o => { o with kind := .lockl lock rest (n + 1) bm dst }
    match ls with
    | .glob asid g :: rest =>
      let q := lockLine s lock m.mask asid g
      go q.1 rest (if q.2 then bm + 2 ^ n else bm)
    | .loc _ _ :: rest => go s rest bm
    | [] => go s [] bm

/-! ### Evictions (R183) -/

/-- NEAR_CACHE_EVICT: a line leaves a near cache; a software-managed one writes its dirty bytes back first (R183). DESIGN
CHOICE: as no access caused it, the write-back carries no WAYMASK, and the slice's SLDMASK selects (log 39). -/
def execNearCacheEvict (cluster asid line : Nat) (s : State) : Host.Outcome State Fault Refusal :=
  match nearFind s cluster asid line with
  | none => .next s
  | some l => .next (dropNear (writeBack s l 0 128 none) cluster asid line)

end Sys2Proof.Machine
end

