-- ==== Sys2Proof/Machine/BitMove.lean ====
section
/-!
DEFINITION. Class 3: bit, address and move instructions (R82 to R84).
-/
set_option Elab.async false
namespace Sys2Proof.Machine

/-- The number of leading zero bits among the lowest n of v. -/
def clzN (v : Nat) : Nat → Nat
  | 0 => 0
  | n + 1 => if bitN v n then 0 else 1 + clzN v n

/-- The number of trailing zero bits among n bits from bit i up. -/
def ctzN (v i : Nat) : Nat → Nat
  | 0 => 0
  | n + 1 => if bitN v i then 0 else 1 + ctzN v (i + 1) n

/-- The bits of a dword in reverse order (R82). -/
def brevVal (x : Word) : Word := BitVec.ofNat 64 ((below 64).foldl (fun n i => n + boolN (bitN x.toNat i) * 2 ^ (63 - i)) 0)

/-- The length of a field cut at bit 63 (R83). -/
def fieldLen (pos len : BitVec 6) : Nat := Nat.min (len.toNat + 1) (64 - pos.toNat)

/-- The field of BFX and BFXZ (R83). -/
def fieldOf (x : Word) (pos len : BitVec 6) : Nat := x.toNat / 2 ^ pos.toNat % 2 ^ fieldLen pos len

def bfxVal (x : Word) (pos len : BitVec 6) : Word := BitVec.ofInt 64 (toSigned (fieldLen pos len) (fieldOf x pos len))

def bfxzVal (x : Word) (pos len : BitVec 6) : Word := BitVec.ofNat 64 (fieldOf x pos len)

/-- The low bits of y put over the field of x (R83). -/
def bfiVal (x y : Word) (pos len : BitVec 6) : Word :=
  let m : Word := BitVec.ofNat 64 ((2 ^ fieldLen pos len - 1) * 2 ^ pos.toNat)
  (x &&& ~~~ m) ||| (BitVec.ofNat 64 (y.toNat * 2 ^ pos.toNat) &&& m)

/-- The address of LEA (R84). -/
def leaVal (base index : Word) (sh : BitVec 3) (imm : BitVec 48) : Word :=
  base + BitVec.ofNat 64 (index.toNat * 2 ^ sh.toNat) + sext64 imm

/-- MIN: the signed minimum (R82). -/
def execMin (h : Hdr) (d a b : XReg) (s : State) : Host.Outcome State Fault Refusal :=
  issueSlot (.min h d a b) h s fun sl => sl.setX d.val (if (sl.x a.val).slt (sl.x b.val) then sl.x a.val else sl.x b.val)

/-- MAX: the signed maximum (R82). -/
def execMax (h : Hdr) (d a b : XReg) (s : State) : Host.Outcome State Fault Refusal :=
  issueSlot (.max h d a b) h s fun sl => sl.setX d.val (if (sl.x a.val).slt (sl.x b.val) then sl.x b.val else sl.x a.val)

/-- MINN: the unsigned minimum (R82). -/
def execMinn (h : Hdr) (d a b : XReg) (s : State) : Host.Outcome State Fault Refusal :=
  issueSlot (.minn h d a b) h s fun sl => sl.setX d.val (if sl.x a.val < sl.x b.val then sl.x a.val else sl.x b.val)

/-- MAXN: the unsigned maximum (R82). -/
def execMaxn (h : Hdr) (d a b : XReg) (s : State) : Host.Outcome State Fault Refusal :=
  issueSlot (.maxn h d a b) h s fun sl => sl.setX d.val (if sl.x a.val < sl.x b.val then sl.x b.val else sl.x a.val)

/-- CLZ: the count of leading zeros (R82). -/
def execClz (h : Hdr) (d a : XReg) (s : State) : Host.Outcome State Fault Refusal :=
  issueSlot (.clz h d a) h s fun sl => sl.setX d.val (BitVec.ofNat 64 (clzN (sl.x a.val).toNat 64))

/-- CTZ: the count of trailing zeros (R82). -/
def execCtz (h : Hdr) (d a : XReg) (s : State) : Host.Outcome State Fault Refusal :=
  issueSlot (.ctz h d a) h s fun sl => sl.setX d.val (BitVec.ofNat 64 (ctzN (sl.x a.val).toNat 0 64))

/-- POPC: the count of ones (R82). -/
def execPopc (h : Hdr) (d a : XReg) (s : State) : Host.Outcome State Fault Refusal :=
  issueSlot (.popc h d a) h s fun sl => sl.setX d.val (BitVec.ofNat 64 (popN (sl.x a.val).toNat 64))

/-- BREV: the bits in reverse order (R82). -/
def execBrev (h : Hdr) (d a : XReg) (s : State) : Host.Outcome State Fault Refusal :=
  issueSlot (.brev h d a) h s fun sl => sl.setX d.val (brevVal (sl.x a.val))

/-- BFX: a field extracted (R83). -/
def execBfx (h : Hdr) (d a : XReg) (pos len : BitVec 6) (s : State) : Host.Outcome State Fault Refusal :=
  issueSlot (.bfx h d a pos len) h s fun sl => sl.setX d.val (bfxVal (sl.x a.val) pos len)

/-- BFXZ: a field extracted (R83). -/
def execBfxz (h : Hdr) (d a : XReg) (pos len : BitVec 6) (s : State) : Host.Outcome State Fault Refusal :=
  issueSlot (.bfxz h d a pos len) h s fun sl => sl.setX d.val (bfxzVal (sl.x a.val) pos len)

/-- BFI: a field inserted (R83). -/
def execBfi (h : Hdr) (d a b : XReg) (pos len : BitVec 6) (s : State) : Host.Outcome State Fault Refusal :=
  issueSlot (.bfi h d a b pos len) h s fun sl => sl.setX d.val (bfiVal (sl.x a.val) (sl.x b.val) pos len)

/-- LEA: address arithmetic; the pc is that of the LEA itself (R84). -/
def execLea (h : Hdr) (d a b : XReg) (pcrel : Bool) (sh : BitVec 3) (imm : BitVec 48) (s : State) :
    Host.Outcome State Fault Refusal :=
  issueSlot (.lea h d a b pcrel sh imm) h s fun sl =>
    sl.setX d.val (leaVal (if pcrel then sl.pc - 16 else sl.x a.val) (sl.x b.val) sh imm)

/-- LI: a sign-extended immediate (R82). -/
def execLi (h : Hdr) (d : XReg) (imm : BitVec 48) (s : State) : Host.Outcome State Fault Refusal :=
  issueSlot (.li h d imm) h s fun sl => sl.setX d.val (sext64 imm)

/-- LIH: bits [63:48] replaced (R82). -/
def execLih (h : Hdr) (d a : XReg) (imm : BitVec 16) (s : State) : Host.Outcome State Fault Refusal :=
  issueSlot (.lih h d a imm) h s fun sl => sl.setX d.val ((imm ++ (sl.x a.val).setWidth 48 : BitVec 64))

/-- MOV: a copy (R82). -/
def execMov (h : Hdr) (d a : XReg) (s : State) : Host.Outcome State Fault Refusal :=
  issueSlot (.mov h d a) h s fun sl => sl.setX d.val (sl.x a.val)

/-- SEL: a choice by lane 0 of a predicate (R82). -/
def execSel (h : Hdr) (d a b : XReg) (c : PReg) (s : State) : Host.Outcome State Fault Refusal :=
  issueSlot (.sel h d a b c) h s fun sl => sl.setX d.val (if (sl.p c.val).getLsbD 0 then sl.x a.val else sl.x b.val)

end Sys2Proof.Machine
end

