-- ==== Sys2Proof/Machine/Streamer.lean ====
section
/-!
DEFINITION. Class A: engine commands, the streamers that serve them, their status (R198 to R216, R345 to R347, R350).
-/
set_option Elab.async false
namespace Sys2Proof.Machine

/-! ### Handles and status (R200, R201) -/

/-- The first number from start up, modulo 4,096, that a list does not hold. -/
def firstFree (used : List Nat) (start : Nat) : Nat → Nat
  | 0 => start % 4096
  | n + 1 => if used.contains (start % 4096) then firstFree used (start + 1) n else start % 4096

/-- A descriptor index of an engine that no live command has (log 8). -/
def descFor (s : State) (engine id : Nat) : Nat :=
  if 112 ≤ engine then 0
  else
    let used := (s.cmds.filter fun e => e.2.engine = engine).map fun e => e.2.handle / 4096 % 4096
    firstFree used (Config.descriptor id) (used.length + 1)

/-- The sequence number after n (R200). -/
def nextSeq (n : Nat) : Nat := if 4095 ≤ n then 1 else n + 1

def handleOf (engine desc seq : Nat) : Nat := engine * 2 ^ 24 + desc * 2 ^ 12 + seq

/-- An engine command of the current task issued: its handle, XFERID.last, its place in the stream (R160, R200, R205). -/
def issueCmd (s : State) (id : Nat) (o : Ord) (engine : Nat) (kind : CmdKind) : State :=
  match curSlot s with
  | none => s
  | some sl =>
    match getTask s sl.task with
    | none => s
    | some k =>
      let q := nextSeq k.seq
      let h := handleOf engine (descFor s engine id) q
      let m : Cmd :=
        { core := s.core, task := some sl.task, asid := k.asid, handle := h, stream := o.stream.val
          deps := (afterDeps s sl.task o.after).eraseDups, engine, kind, mask := coreMask s s.core }
      let s := setTask s sl.task { k with seq := q }
      modCur { s with cmds := tset s.cmds id m } fun sl => { sl with xlast := BitVec.ofNat 32 h }

/-- The state code of a status word (R201, R345). -/
def CmdState.code : CmdState → Nat
  | .issued => 1
  | .queued => 1
  | .running => 2
  | .waiting _ => 2
  | .saved => 4
  | .releasing _ => 2
  | .done st _ => st

def Cmd.status (m : Cmd) : Word := put m.state.code 60 ||| put (m.offset % 2 ^ 48) 0

/-- A command ends with a status and an offset; a failure is logged (R345, R367). -/
def cmdEnd (s : State) (id : Nat) (status offset addr : Nat) : State :=
  match tget s.cmds id with
  | none => s
  | some m =>
    logEnd { s with cmds := tset s.cmds id { m with state := .releasing status, offset, buf := [], idx := [] } } m status addr

/-- Whether everything that an operation waits for has been performed (R159). -/
def depsGone (s : State) (t : Nat) (deps : List Nat) : Bool :=
  deps.all fun d => !((opsOf s t).any fun o => o.id = d) &&
    (match tget s.cmds d with
     | some m => m.state.isDone
     | none => true)

/-! ### Issue (R209 to R214) -/

/-- The streamer of the die of a core: streamer 0 of a gateway die for a control core (R210). -/
def dieEngine (c : Nat) : Nat :=
  if isHart c then (let e := c - hartBase; if e < 64 then e / 8 * 8 else e)
  else if 56 ≤ dieOf c then 8 * (dieOf c - 56) else 64 + dieOf c

/-- The streamer that serves a source address (R210). -/
def engineFor (s : State) (c va : Nat) : Nat :=
  if inWin va then dieEngine c
  else let k := sliceOf s.gw.slhash (va / 128); 8 * (k / 32) + k % 32 / 4

/-- The first of some checked values that lies past the address limit (R334). -/
def limitTrap (vs : List Word) : Option Trap :=
  (vs.find? fun v => fld v 63 56 ≠ 0).map fun v => { cause := .address, addr := v }

/-- CPY and CPYI at issue (R210, R211). -/
def copyEff (s : State) (id : Nat) (o : Ord) (intr : Bool) (rtn : BitVec 4) (d a b : XReg) (off : BitVec 32) : Eff :=
  match curSlot s with
  | none => .ok s
  | some sl =>
    let src := eaOf (sl.x a.val) off
    let dst := sl.x d.val
    let pr := sl.x b.val
    if pr.toNat % 64 ≠ 0 then .trap { cause := .align, addr := pr }
    else match limitTrap [pr, dst, src] with
      | some t => .trap t
      | none => .ok (issueCmd s id o (engineFor s s.core src.toNat) (.cpy dst src pr rtn.toNat intr))

/-- CPY (R210). -/
def execCpy (h : Hdr) (o : Ord) (rtn : BitVec 4) (d a b : XReg) (off : BitVec 32) (s : State) :
    Host.Outcome State Fault Refusal :=
  issue (.cpy h o rtn d a b off) h s fun id s => copyEff s id o false rtn d a b off

/-- CPYI (R211). -/
def execCpyi (h : Hdr) (o : Ord) (rtn : BitVec 4) (d a b : XReg) (off : BitVec 32) (s : State) :
    Host.Outcome State Fault Refusal :=
  issue (.cpyi h o rtn d a b off) h s fun id s => copyEff s id o true rtn d a b off

/-- GATHER and SCATTER at issue: the lanes that are on, their addresses captured (R213). toNear: gather. -/
def laneCopyEff (s : State) (id : Nat) (h : Hdr) (o : Ord) (sz : Size) (ix sc toNear : Bool) (d a : XReg) (b : VReg)
    (off : BitVec 32) : Eff :=
  match curSlot s with
  | none => .ok s
  | some sl =>
    let e := sz.bytes
    let w := if ix then 32 else 16
    let base := eaOf (sl.x a.val) off
    match limitTrap [sl.x d.val, base] with
    | some t => .trap t
    | none =>
      let moves := ((below (256 / w)).filter fun j => laneOn (sl.mask h) w j).map fun j =>
        let far := base + BitVec.ofNat 64 (lane (sl.v b.val) w j * (if sc then e else 1))
        let near := sl.x d.val + BitVec.ofNat 64 (e * j)
        if toNear then (far, near) else (near, far)
      .ok (issueCmd s id o (engineFor s s.core base.toNat) (.lanes e moves))

/-- GATHER (R213). -/
def execGather (h : Hdr) (o : Ord) (sz : Size) (ix sc : Bool) (d a : XReg) (b : VReg) (off : BitVec 32) (s : State) :
    Host.Outcome State Fault Refusal :=
  issue (.gather h o sz ix sc d a b off) h s fun id s => laneCopyEff s id h o sz ix sc true d a b off

/-- SCATTER (R213). -/
def execScatter (h : Hdr) (o : Ord) (sz : Size) (ix sc : Bool) (d a : XReg) (b : VReg) (off : BitVec 32) (s : State) :
    Host.Outcome State Fault Refusal :=
  issue (.scatter h o sz ix sc d a b off) h s fun id s => laneCopyEff s id h o sz ix sc false d a b off

/-- The geometry of HALO (R214). -/
structure Halo where
  w  : Nat
  p  : Nat
  r  : Nat
  h  : Nat
  hc : Nat
  deriving DecidableEq, Repr

def Halo.ofWord (x : Word) : Halo := ⟨fld x 15 0, fld x 31 16, fld x 43 32, fld x 51 44, fld x 59 52⟩

/-- The geometries of R214. -/
def Halo.ok (g : Halo) : Bool := 1 ≤ g.w && 1 ≤ g.r && g.h ≤ g.r && g.hc ≤ g.w && g.w + 2 * g.hc ≤ g.p

/-- HALO (R214). -/
def execHalo (h : Hdr) (o : Ord) (dirs : BitVec 4) (a b : XReg) (off : BitVec 32) (s : State) :
    Host.Outcome State Fault Refusal :=
  issue (.halo h o dirs a b off) h s fun id s =>
    match curSlot s with
    | none => .ok s
    | some sl =>
      let ea := eaOf (sl.x a.val) off
      let g := Halo.ofWord (sl.x b.val)
      if !g.ok then .trap { cause := .illegal, detail := 8 }
      else if !(winBase ≤ ea.toNat && ea.toNat + (g.r + 2 * g.h) * g.p ≤ winBase + 65536) then
        .trap { cause := .window, addr := ea }
      else .ok (issueCmd s id o (dieEngine s.core) (.halo dirs.toNat ea (sl.x b.val)))

/-- CPYQ: a direct operation that reads a command's status (R215). -/
def execCpyq (h : Hdr) (o : Ord) (d b : XReg) (s : State) : Host.Outcome State Fault Refusal :=
  issue (.cpyq h o d b) h s fun id s =>
    match curSlot s with
    | none => .ok s
    | some sl => .ok (pushOp s id o [] (.cpyq ((sl.x b.val).toNat % 2 ^ 32) (sl.px d.val)))

/-- CPYQ performed: RETIRED when the handle names no live descriptor of the task; a final status that is read frees the
descriptor (R201, R215). -/
def performCpyq (s : State) (t : Nat) (m : MemOp) (handle dst : Nat) : State :=
  match s.cmds.find? fun e => e.2.task = some t && e.2.handle = handle with
  | none => deliver s t m.id [putX dst 0 none]
  | some (id, c) =>
    let s := if c.state.isDone then { s with cmds := tdel s.cmds id } else s
    deliver s t m.id [putX dst c.status none]

/-! ### Kicks (R198, R205) -/

def CmdKind.streams : CmdKind → Bool
  | .cpy _ _ _ _ _ => true
  | .lanes _ _ => true
  | .halo _ _ _ => true
  | .exch _ _ => false
  | .mcmd _ => false
  | .ksend _ _ _ => false

def cmdReady (s : State) (m : Cmd) : Bool :=
  match m.task with
  | some t => depsGone s t m.deps
  | none => true

/-- STREAMER_KICK: a kick reaches its engine; a full table makes it wait. A command keeps its place from its first kick until
its descriptor is freed (R198, R205, R207). -/
def execStreamerKick (id : Nat) (s : State) : Host.Outcome State Fault Refusal :=
  match tget s.cmds id with
  | none => .next s
  | some m =>
    let full := m.arr = 0 && 4096 ≤ (s.cmds.filter fun e => e.2.engine = m.engine && e.2.arr ≠ 0).length
    if m.state = .issued && m.kind.streams && cmdReady s m && !full then
      .next { bump s with cmds := tset s.cmds id { m with state := .queued, arr := s.seq + 1 } }
    else .next s

/-! ### Pattern records (R202, R203) -/

structure Pat where
  counts : List Nat
  ss : List Int
  ds : List Int
  ixlist : Nat
  dc : Bool
  elog : Nat
  ndim : Nat
  ind : Bool
  isize : Nat
  side : Bool
  shift : Nat
  nidx : Nat
  dcoord : Nat
  deriving DecidableEq, Repr

def Pat.ofBytes (bs : List Byte) : Pat :=
  let n := natOf (bs.take 64)
  let dims := below 6
  { counts := dims.map fun j => bitsN n (64 * j + 15) (64 * j) + 1
    ss := dims.map fun j => toSigned 24 (bitsN n (64 * j + 39) (64 * j + 16))
    ds := dims.map fun j => toSigned 24 (bitsN n (64 * j + 63) (64 * j + 40))
    ixlist := bitsN n 431 384, dc := bitN n 432, elog := bitsN n 442 440, ndim := bitsN n 445 443, ind := bitN n 446
    isize := bitsN n 448 447, side := bitN n 449, shift := bitsN n 453 450, nidx := bitsN n 485 454
    dcoord := bitsN n 503 486 }

def Pat.iw (p : Pat) : Nat := 2 * 2 ^ p.isize

/-- Whether the record is one that R202 allows. -/
def Pat.ok (s : State) (p : Pat) : Bool :=
  p.isize ≠ 3 && p.ndim ≤ 5 && p.elog ≤ 7 && (!p.ind || (p.ixlist % p.iw = 0 && 1 ≤ p.nidx)) && (!p.dc || coreOk s p.dcoord)

def Pat.esz (p : Pat) : Nat := 2 ^ p.elog

/-- Elements of one pass over the dimensions, and of the whole pattern. -/
def Pat.per (p : Pat) : Nat := (p.counts.take (p.ndim + 1)).foldl (· * ·) 1
def Pat.total (p : Pat) : Nat := p.per * (if p.ind then p.nidx else 1)

/-- Source and destination offsets of element r of a pass, dimension 0 fastest (R203). -/
def patOffs : List (Nat × Int × Int) → Nat → Int × Int
  | [], _ => (0, 0)
  | (c, a, b) :: ds, r =>
    let t := patOffs ds (r / c)
    (a * (r % c : Nat) + t.1, b * (r % c : Nat) + t.2)

def Pat.dims (p : Pat) : List (Nat × Int × Int) :=
  (p.counts.zip (p.ss.zip p.ds)).take (p.ndim + 1)

/-! ### What an engine meets when it walks (R204, R345, R346, R350) -/

/-- One element to move: its number, its addresses and size. -/
structure Elem where
  q   : Nat
  src : Nat
  dst : Nat
  n   : Nat
  deriving DecidableEq, Repr

/-- Why a chunk cannot go on. -/
inductive Halt where
  | fault (f : Fail)            -- a page to wait for
  | stop (addr : Nat)           -- FAULTED
  deriving DecidableEq, Repr

def failHalt : Fail → Halt
  | .trap t => .stop (t.addr.toNat % 2 ^ 56)
  | .page va t => .fault (.page va t)
  | .stage2 va g t => .fault (.stage2 va g t)

/-- Whether an element address breaks alignment, the address limit or the window boundary (R203, R345). -/
def badElem (a n : Nat) : Bool := a % Nat.min n 32 ≠ 0 || 2 ^ 56 ≤ a || straddles a n

/-- A read by an engine for a command of a core: its bytes; none when they are poisoned. DESIGN CHOICE: a range that straddles
an end of the local window, as a parameter block of CPYI may, is read whole where its first byte lies (log 31). -/
def engRead (s : State) (c asid va n : Nat) : Except Halt (State × Option (List Byte)) :=
  if inWin va then
    (let r := lmRead s c (va - winBase) n; .ok (s, if r.2 then none else some r.1))
  else match devRead s asid va n with
    | .error e => .error (failHalt e)
    | .ok (s, bs, none) => .ok (s, some bs)
    | .ok (s, _, some _) => .ok (s, none)

/-- A destination translated before the chunk's first write (R346). (Log 31.) -/
def engDst (s : State) (asid va n : Nat) : Except Halt State :=
  if inWin va then .ok s
  else match reach s asid va n .write true with
    | .error e => .error (failHalt e)
    | .ok (s, _) => .ok s

/-- A chunk being read: the bytes so far, by element number, destination and bytes (none: poison); the index entries so
far; the pages met that fault; the failure that ends the command. -/
structure Walk where
  s     : State
  buf   : List (Nat × Word × List Byte)
  idx   : List (Nat × List Byte) := []
  faults : List Fail := []
  stop  : Option Nat := none
  deriving DecidableEq, Repr

/-- Whether two failures are accesses of one kind to one page. -/
def samePage : Fail → Fail → Bool
  | .page a t, .page b u => a / 65536 = b / 65536 && t.detail = u.detail
  | .stage2 _ a t, .stage2 _ b u => a / 65536 = b / 65536 && t.detail = u.detail
  | _, _ => false

def Walk.halt (w : Walk) : Halt → Walk
  | .fault f => if w.faults.any (samePage f) then w else { w with faults := w.faults ++ [f] }
  | .stop a => { w with stop := w.stop <|> some a }

/-- One element's destination checked and source read, unless the descriptor already keeps its bytes (R346). -/
def Walk.elem (w : Walk) (c asid : Nat) (e : Elem) : Walk :=
  if badElem e.src e.n then w.halt (.stop (e.src % 2 ^ 56))
  else if badElem e.dst e.n then w.halt (.stop (e.dst % 2 ^ 56))
  else
    let w := match engDst w.s asid e.dst e.n with
      | .ok s => { w with s }
      | .error h => w.halt h
    if w.buf.any fun b => b.1 = e.q then w
    else match engRead w.s c asid e.src e.n with
      | .error h => w.halt h
      | .ok (s, bs) => { w with s, buf := w.buf ++ [(e.q, BitVec.ofNat 64 e.dst, bs.getD [])] }

/-- An index entry read, unless the descriptor already keeps it (R204, R346). -/
def Walk.entry (w : Walk) (c asid : Nat) (p : Pat) (k : Nat) : Walk :=
  if w.idx.any fun b => b.1 = k then w
  else match engRead w.s c asid (p.ixlist + k * p.iw) p.iw with
    | .error h => w.halt h
    | .ok (s, bs) => { w with s, idx := w.idx ++ [(k, bs.getD [])] }

/-- An element of a pattern: its index entry read, then the element itself (R203, R204). An element selected through a
poisoned entry counts as poisoned (R350). -/
def Walk.patElem (w : Walk) (c asid : Nat) (p : Pat) (dst src : Word) (q : Nat) : Walk :=
  let offs := patOffs p.dims (q % p.per)
  let go (w : Walk) (io : Nat) : Walk :=
    let a (base : Word) (o : Int) (mine : Bool) : Nat := ofInt 64 (base.toNat + o + (if mine then (io : Int) else 0))
    w.elem c asid ⟨q, a src offs.1 (!p.side), a dst offs.2 p.side, p.esz⟩
  if !p.ind then go w 0
  else
    let w := w.entry c asid p (q / p.per)
    match w.idx.find? fun b => b.1 = q / p.per with
    | none => w
    | some (_, []) => if w.buf.any fun b => b.1 = q then w else { w with buf := w.buf ++ [(q, 0, [])] }
    | some (_, b :: bs) => go w (natOf (b :: bs) * 2 ^ p.shift)

/-- A write by an engine: local addresses name the memory of a core, whoever owns it (R204; R370 drops messages only; log
31). -/
def engWrite (s : State) (k : Nat) (m : Cmd) (va : Nat) (bs : List Byte) : State :=
  if inWin va then lmWrite s k (va - winBase) bs
  else match devWrite s m.asid va bs with
    | .ok s => s
    | .error _ => s

/-- The elements written in pattern order up to the first poisoned one (R204, R350): the state and that element. -/
def writeElems (s : State) (k : Nat) (m : Cmd) : List (Nat × Word × List Byte) → State × Option Nat
  | [] => (s, none)
  | (q, _, []) :: _ => (s, some q)
  | (_, d, b :: bs) :: r => writeElems (engWrite s k m d.toNat (b :: bs)) k m r

def setCmd (s : State) (id : Nat) (m : Cmd) : State := { s with cmds := tset s.cmds id m }

/-- The page faults of a command posted, one after the other, and the command made to wait on all of them; one that cannot be
posted ends it (R341, R346; log 13). recs: the fault records that it waits on so far. -/
def engFaults (id : Nat) (m : Cmd) : State → List Nat → List Fail → State
  | s, recs, [] => setCmd s id { m with state := .waiting recs.eraseDups }
  | s, _, .trap t :: _ => cmdEnd (dropPageWaits s [id]) id 6 m.offset (t.addr.toNat % 2 ^ 56)
  | s, recs, .page va t :: fs =>
    (match faultPost s m.asid va (8 ||| kindsOfDetail t.detail) with
     | (s, none) => cmdEnd (dropPageWaits s [id]) id 6 m.offset (va % 2 ^ 56)
     | (s, some r) => engFaults id m s (r :: recs) fs)
  | s, recs, .stage2 _ gpa t :: fs =>
    let vf := vfOf s m.asid
    let kinds := 8 ||| kindsOfDetail t.detail
    match pagePost s vf m.asid gpa kinds with
    | (s, some tag) =>
      let q := getPrq s vf
      engFaults id m (setPrq s vf { q with cmds := q.cmds ++ [(tag, id)] }) recs fs
    | (s, none) => engFaults id m (retryLater s vf m.asid gpa kinds (.cmd id)) recs fs

/-- One page fault of a command. -/
def engFault (s : State) (id : Nat) (m : Cmd) (f : Fail) : State := engFaults id m s [] [f]

/-- A chunk after its walk: it waits, ends, or writes its elements and goes on. esz: element size; next: the offset after
the chunk; last: whether it is the last one. -/
def finishChunk (id : Nat) (m : Cmd) (w : Walk) (k esz next : Nat) (last : Bool) : State :=
  match w.stop, w.faults with
  | some a, _ => cmdEnd w.s id 6 m.offset a
  | none, f :: fs => engFaults id { m with buf := w.buf, idx := w.idx } w.s [] (f :: fs)
  | none, [] =>
    let els := sortBy (fun b => b.1) w.buf
    match writeElems w.s k m els with
    | (s, some q) => cmdEnd s id 5 (q * esz) 0
    | (s, none) =>
      let m := { m with offset := next, buf := [], idx := [], state := .running }
      if last then cmdEnd (setCmd s id m) id 3 next 0 else setCmd s id m

/-- The pattern record, or the parameter block, read once before the first chunk (R204, R211). DESIGN CHOICE: the handler's
bits [3:0] are taken as zero, and a CPYI whose parameter block cannot be read has no handler, so its completion makes no
user-level interrupt pending (log 31). -/
def readPattern (s : State) (id : Nat) (m : Cmd) (pr : Nat) (intr : Bool) : Except State (State × Cmd × List Byte) :=
  match m.pat with
  | some bs => .ok (s, m, bs)
  | none =>
    match engRead s m.core m.asid pr (if intr then 128 else 64) with
    | .error (.stop a) => .error (cmdEnd s id 6 0 a)
    | .error (.fault f) => .error (engFault s id m f)
    | .ok (s, none) => .error (cmdEnd s id 5 0 (pr % 2 ^ 56))
    | .ok (s, some bs) =>
      let x : Option UserInt := if intr then
          some ⟨put (bitsN (wordAt bs 8) 55 4) 4, BitVec.ofNat 32 (wordAt bs 9)⟩ else none
      .ok (s, { m with pat := some bs, xid := x }, bs)

/-- One chunk of a copy by routine 0 (R203, R204). -/
def copyChunk (s : State) (id : Nat) (m : Cmd) (dst src pr : Word) (intr : Bool) : State :=
  if pr.toNat % 64 ≠ 0 then cmdEnd s id 7 0 0
  else match readPattern s id m pr.toNat intr with
  | .error s => s
  | .ok (s, m, bs) =>
    let s := setCmd s id m
    let p := Pat.ofBytes bs
    if !p.ok s then cmdEnd s id 7 0 0
    else
      let q0 := m.offset / p.esz
      let n := Nat.min (4096 / p.esz) (p.total - q0)
      let w := (upFrom q0 n).foldl (fun (w : Walk) q => w.patElem m.core m.asid p dst src q) { s, buf := m.buf, idx := m.idx }
      finishChunk id m w (if p.dc then p.dcoord else m.core) p.esz ((q0 + n) * p.esz) (q0 + n = p.total)

/-- The one chunk of a GATHER or SCATTER (R213). -/
def laneChunk (s : State) (id : Nat) (m : Cmd) (e : Nat) (moves : List (Word × Word)) : State :=
  let els := (moves.zip (below moves.length)).map fun x => (⟨x.2, x.1.1.toNat, x.1.2.toNat, e⟩ : Elem)
  let w := els.foldl (fun (w : Walk) x => w.elem m.core m.asid x) { s, buf := m.buf }
  finishChunk id m w m.core e (e * moves.length) true

/-- The neighbour of a core in a direction: N, E, S, W; none where the coordinate names no core (R16, R214). -/
def neighbour (s : State) (c d : Nat) : Option Nat :=
  let r := rowOf c
  let k := colOf c
  let n := match d with
    | 0 => if r = 0 then none else some (packCoord (dieOf c) (r - 1) k)
    | 1 => if k = 63 then none else some (packCoord (dieOf c) r (k + 1))
    | 2 => if r = 63 then none else some (packCoord (dieOf c) (r + 1) k)
    | _ => if k = 0 then none else some (packCoord (dieOf c) r (k - 1))
  match n with
  | some q => if coreOk s q then some q else none
  | none => none

/-- The rows that a direction sends: offsets in the tile from and to, and length (R214). -/
def Halo.rows (g : Halo) (d : Nat) : List (Nat × Nat × Nat) :=
  match d with
  | 0 => (below g.h).map fun i => ((g.h + i) * g.p + g.hc, (g.r + g.h + i) * g.p + g.hc, g.w)
  | 1 => (below g.r).map fun i => ((g.h + i) * g.p + g.w, (g.h + i) * g.p, g.hc)
  | 2 => (below g.h).map fun i => ((g.r + i) * g.p + g.hc, i * g.p + g.hc, g.w)
  | _ => (below g.r).map fun i => ((g.h + i) * g.p + g.hc, (g.h + i) * g.p + g.hc + g.w, g.hc)

/-- The counter that tells a neighbour of a direction's bytes (R214). -/
def haloCtr : Nat → Nat
  | 0 => 14
  | 1 => 15
  | 2 => 12
  | _ => 13

/-- Rows copied from one local memory to another until a poisoned one: bytes moved, and whether it stopped. -/
def haloRows (s : State) (c k base : Nat) : List (Nat × Nat × Nat) → State × Nat × Bool
  | [] => (s, 0, false)
  | (a, b, n) :: rs =>
    let r := lmRead s c (base + a) n
    if r.2 then (s, 0, true)
    else
      let t := haloRows (lmWrite s k (base + b) r.1) c k base rs
      (t.1, n + t.2.1, t.2.2)

/-- Whether every increment of a HALO has been performed. -/
def haloQuiet (s : State) (id : Nat) : Bool := !(s.cmsgs.any fun e => e.2.halo = some id)

/-- A HALO looked at after a direction or an increment: it completes when nothing of it is left (R214). -/
def haloCheck (s : State) (id : Nat) : State :=
  match tget s.cmds id with
  | none => s
  | some m => match m.kind, m.state with
    | .halo _ _ _, .running => if m.sel = 4 && haloQuiet s id then cmdEnd s id 3 m.offset 0 else s
    | _, _ => s

/-- One direction of a HALO: its rows, then its increment (R214, R370). DESIGN CHOICE: a chunk of a HALO is one direction, however
many bytes it has, in the order N, E, S, W: R204 defines chunks for patterns only, and R214 gives no order (log 38). -/
def haloChunk (s : State) (id : Nat) (m : Cmd) (dirs : Nat) (ea x : Word) : State :=
  let g := Halo.ofWord x
  match (upFrom m.sel (4 - m.sel)).find? fun d => bitN dirs d with
  | none => haloCheck (setCmd s id { m with sel := 4, state := .running }) id
  | some d =>
    match neighbour s m.core d with
    | none => haloCheck (setCmd s id { m with sel := d + 1, state := .running }) id
    | some k =>
      if (getCore s k).owner ≠ some m.asid then
        haloCheck (setCmd (errPost s 0x03 m.core m.asid 0 k) id { m with sel := d + 1, state := .running }) id
      else
        match haloRows s m.core k (ea.toNat - winBase) (g.rows d) with
        | (s, n, true) => cmdEnd s id 5 (m.offset + n) 0
        | (s, n, false) =>
          let s := sendMsg s { coord := k, ctr := haloCtr d, add := 1, asid := some m.asid, halo := some id }
          setCmd s id { m with sel := d + 1, offset := m.offset + n, state := .running }

/-! ### Serving (R198, R199) -/

/-- An expert routine started on its streamer: the registers of R199. Its task has the number of its command. (Log 7.) -/
def startRoutine (s : State) (id : Nat) (m : Cmd) (dst src pr : Word) (rtn : Nat) : State :=
  let c := hartBase + m.engine
  match (below (slotsOf c)).find? fun i => (tget (getCore s c).slots i).isNone with
  | none => s
  | some i =>
    let regs : List Word := [dst, src, pr, BitVec.ofNat 64 m.handle, BitVec.ofNat 64 (mailboxEa m.handle),
      BitVec.ofNat 64 m.core]
    let sl := (regs.zip (upFrom 1 6)).foldl (fun (sl : SlotSt) e => sl.setP e.2 e.1)
      ({ task := id, pc := BitVec.ofNat 64 (4096 * rtn) } : SlotSt)
    let k : TaskSt := { launch := 65536, asid := m.asid, home := c, place := .resident c i }
    setCmd (setTask (setSlot s c i sl) id k) id { m with state := .running }

/-- Whether a command is one that its streamer may serve now. -/
def servable (m : Cmd) : Bool :=
  m.kind.streams && (match m.kind, m.state with
    | .cpy _ _ _ rtn _, .running => rtn = 0
    | .halo _ _ _, .running => m.sel < 4
    | _, .queued => true
    | _, .running => true
    | _, _ => false)

/-- Whether a command is one that its streamer runs or is about to run; a waiting one is not (R198, R346). -/
def Cmd.runs (m : Cmd) : Bool := m.kind.streams && (m.state = .queued || m.state = .running)

/-- The commands that a streamer runs: up to 8, in arrival order, those of expert routines among them (R198). -/
def activeCmds (s : State) (engine : Nat) : List (Nat × Cmd) :=
  (sortBy (fun e => e.2.arr) (s.cmds.filter fun e => e.2.engine = engine && e.2.runs)).take 8

/-- The command whose chunk comes next, round-robin in arrival order. -/
def nextCmd (s : State) (engine : Nat) : Option (Nat × Cmd) :=
  let l := (activeCmds s engine).filter fun e => servable e.2
  let last := (tget s.robin engine).getD 0
  match l.find? fun e => last < e.2.arr with
  | some e => some e
  | none => l.head?

/-- STREAMER_CHUNK: a streamer moves one chunk of the command whose turn it is (R198, R204). -/
def execStreamerChunk (engine : Nat) (s : State) : Host.Outcome State Fault Refusal :=
  match nextCmd s engine with
  | none => .next s
  | some (id, m) =>
    let s := { s with robin := tset s.robin engine m.arr }
    match m.kind with
    | .cpy dst src pr rtn intr =>
      if rtn = 0 then .next (copyChunk s id m dst src pr intr)
      else
        -- an expert routine's parameter block is read for its interrupt only
        (match (if intr then readPattern s id m pr.toNat true else .ok (s, m, [])) with
         | .error s => .next s
         | .ok (s, m, _) => .next (startRoutine s id m dst src pr rtn))
    | .lanes e moves => .next (laneChunk s id m e moves)
    | .halo dirs ea x => .next (haloChunk s id m dirs ea x)
    | .exch _ _ => .next s
    | .mcmd _ => .next s
    | .ksend _ _ _ => .next s

/-! ### Completion (R198, R201, R206, R208, R226) -/

/-- What the completion release of a task's command does at its core (R206, R211). -/
def completeTask (s : State) (id t : Nat) (m : Cmd) : State :=
  let s := if uncached m.core then s else flashCoherent s (clusterOf s m.core) (some m.asid)
  let s := match m.xid with
    | some u => modTask s t fun k => { k with ints := k.ints ++ [u] }
    | none => s
  let s := match m.kind with
    | .exch _ dst => deliver s t id [putX dst (BitVec.ofNat 64 m.sel) none]
    | _ => s
  refreshRecord s t m.stream

/-- COMPLETION_RELEASE: the completion release of a command is applied (R206). -/
def execCompletionRelease (id : Nat) (s : State) : Host.Outcome State Fault Refusal :=
  match tget s.cmds id with
  | none => .next s
  | some m =>
    match m.state with
    | .releasing st =>
      (match m.task, m.trig with
       | some t, _ => .next (completeTask (setCmd s id { m with state := .done st s.now }) id t m)
       | none, some i =>
         .next (modCore { s with cmds := tdel s.cmds id } m.core fun k =>
           { k with trig := tmod k.trig i fun g => { g with complete := true } })
       | none, none => .next { s with cmds := tdel s.cmds id })
    | _ => .next s

/-- DESCRIPTOR_FREE_TIMEOUT: 4,096 router cycles after its release a descriptor is freed (R201). -/
def execDescriptorFreeTimeout (task handle : Nat) (s : State) : Host.Outcome State Fault Refusal :=
  match s.cmds.find? fun e => e.2.task = some task && e.2.handle = handle with
  | none => .next s
  | some (id, m) => match m.state with
    | .done _ t => if t + 4096 ≤ s.now then .next { s with cmds := tdel s.cmds id } else .next s
    | _ => .next s

end Sys2Proof.Machine
end

