-- ==== Sys2Proof/Machine/System.lean ====
section
/-!
DEFINITION. Class 0: traps and their return, control registers, HALT, SLEEP (R94 to R105).
-/
set_option Elab.async false
namespace Sys2Proof

/-- What a level may do with a control register (R94). -/
inductive Access where
  | none | ro | rw
  deriving DecidableEq, Repr

/-- The access that a level has to a register (R94). -/
def CReg.access (r : CReg) (level : BitVec 2) : Access :=
  let from1 : Access := if level = 0 then .none else .rw
  let from2 : Access := if level.toNat < 2 then .none else .rw
  match r with
  | .ident => .ro
  | .feat => .ro
  | .asid => .ro
  | .hintctl => .rw
  | .fpstat => .rw
  | .tstat => .rw
  | .strmsnap => .ro
  | .shares => .ro
  | .opnow => .ro
  | .time => .ro
  | .xferid => .ro
  | .uepc => .rw
  | .tvec => from1
  | .uvec => if level = 0 then .ro else .rw
  | .tframe => from1
  | .slhash => if level.toNat < 2 then .ro else .rw
  | .waymask => from1
  | .rtcode => from1
  | .rtlimit => from1
  | .fwvec => from2
  | .fwframe => from2
  | .upcode => if level = 0 then .ro else .rw
  | .uplimit => if level = 0 then .ro else .rw

/-- The bits of a register that software may set (R7, R72, R95, R97, R125, R156). -/
def CReg.rwMask : CReg → Word
  | .hintctl => 0xFFFFFFFFFFFF0001
  | .fpstat => 0x1F
  | .uepc => 0x00FFFFFFFFFFFFF0
  | .tvec => 0x00FFFFFFFFFFFFF0
  | .uvec => 0x00FFFFFFFFFFFFF0
  | .tframe => 0x00FFFFFFFFFFF800
  | .slhash => 0x000FFFFFFFFFFF0F
  | .waymask => 0xFFFFFFFFFFFFFFFF
  | .rtcode => 0x00FFFFFFFFFFFFF0
  | .rtlimit => 0x00FFFFFFFFFFFFF0
  | .fwvec => 0x00FFFFFFFFFFFFF0
  | .fwframe => 0x00FFFFFFFFFFF800
  | .upcode => 0x00FFFFFFFFFFFFF0
  | .uplimit => 0x00FFFFFFFFFFFFF0
  | .ident => 0
  | .feat => 0
  | .asid => 0
  | .tstat => 0
  | .strmsnap => 0
  | .shares => 0
  | .opnow => 0
  | .time => 0
  | .xferid => 0

/-- The bits that clear when one is written to them (R7, R95). -/
def CReg.w1c : CReg → Word
  | .tstat => 1
  | _ => 0

end Sys2Proof

namespace Sys2Proof.Machine

/-- A word that is no instruction traps ILLEGAL, the detail being the reason (R74, R321). -/
def execIllegal (w : BitVec 128) (s : State) : Host.Outcome State Fault Refusal :=
  match curSlot s with
  | none => .fault .noTask
  | some sl =>
    match getTask s sl.task with
    | none => .fault .noTask
    | some _ =>
      let d := match decode w with
        | .error r => r.detail
        | .ok _ => 3
      .next (raiseTrap (picked s false) s.core s.slot { cause := .illegal, detail := d, word := w })

/-- NOP: no effect (R92). -/
def execNop (h : Hdr) (s : State) : Host.Outcome State Fault Refusal := issueSlot (.nop h) h s fun sl => sl

/-- BREAK: a trap that saves its own pc (R100). -/
def execBrk (h : Hdr) (code : BitVec 16) (s : State) : Host.Outcome State Fault Refusal :=
  issue (.brk h code) h s fun _ _ => .trap { cause := .brk, code := code.toNat }

/-- TRAP: a trap that saves the pc of the next word (R100). -/
def execTrap (h : Hdr) (code : BitVec 16) (s : State) : Host.Outcome State Fault Refusal :=
  issue (.trap h code) h s fun _ _ => .trap { cause := .trap, code := code.toNat, nextPc := true }

/-- The level of the current slot. -/
def curLevel (s : State) : BitVec 2 :=
  match curSlot s with
  | some sl => sl.level
  | none => 0

/-- TRAPRET, whatever its frame asks for (R102, R320). -/
def trapretEff (i : Instr) (s : State) : Eff :=
  if curLevel s = 0 then .trap { cause := .privileged, detail := 1 }
  else .ok (holdThen s s.core s.slot (.returning (wordOf i)))

/-- TRAPRET: return from a handler (R102). -/
def execTrapret (h : Hdr) (s : State) : Host.Outcome State Fault Refusal :=
  issue (.trapret h) h s fun _ s => trapretEff (.trapret h) s

/-- TRAPRET whose frame has disp 1: the trapped task is saved with origin 3 (R320). The frame decides, so the word's
meaning is that of TRAPRET. -/
def execTrapretMove (h : Hdr) (s : State) : Host.Outcome State Fault Refusal :=
  issue (.trapretMove h) h s fun _ s => trapretEff (.trapretMove h) s

/-- TRAPRET whose frame has disp 2 or 3: the trapped task ends (R320). -/
def execTrapretEnd (h : Hdr) (s : State) : Host.Outcome State Fault Refusal :=
  issue (.trapretEnd h) h s fun _ s => trapretEff (.trapretEnd h) s

/-- UPRET: return from a user-level interrupt handler (R103). -/
def execUpret (h : Hdr) (s : State) : Host.Outcome State Fault Refusal :=
  issue (.upret h) h s fun _ s =>
    match curSlot s with
    | none => .ok s
    | some sl =>
      if !sl.inh then .trap { cause := .noHandler }
      else .ok (modCur s fun q => { q.fresh with pc := q.uepc, inh := false, bank := false, upcall := false, handlers := [] })

/-! ### Control registers (R94 to R99) -/

/-- A control register as the code in a slot reads it (R94). -/
def crRead (s : State) (c i : Nat) (sl : SlotSt) (k : TaskSt) (r : CReg) : Word :=
  let core := getCore s c
  match r with
  | .ident => identWord c i k
  | .feat => featWord core
  | .asid => put k.asid 0
  | .hintctl => sl.hintctl
  | .fpstat => sl.fpstat.setWidth 64
  | .tstat => sl.tstat
  | .strmsnap => strmsnap s sl.task
  | .shares => sharesWord s k.group
  | .opnow => opnowWord s c
  | .time => BitVec.ofNat 64 s.now
  | .xferid => sl.xferid
  | .uepc => sl.uepc
  | .tvec => core.tvec
  | .uvec => core.uvec
  | .tframe => core.tframe
  | .slhash => s.gw.slhash
  | .waymask => core.waymask
  | .rtcode => core.rtcode
  | .rtlimit => core.rtlimit
  | .fwvec => core.fwvec
  | .fwframe => core.fwframe
  | .upcode => core.upcode
  | .uplimit => core.uplimit

/-- A new value put into a control register of the current slot or core. -/
def crPut (s : State) (r : CReg) (v : Word) : State :=
  let core (f : CoreSt → CoreSt) : State := modCore s s.core f
  match r with
  | .hintctl => modCur s fun sl => { sl with
      misses := BitVec.ofNat 32 (fld v 63 32), slips := BitVec.ofNat 16 (fld v 31 16), strict := fld v 0 0 = 1 }
  | .fpstat => modCur s fun sl => { sl with fpstat := v.setWidth 5 }
  | .tstat => modCur s fun sl => { sl with scopemiss := fld v 0 0 = 1 }
  | .uepc => modCur s fun sl => { sl with uepc := v }
  | .tvec => core fun k => { k with tvec := v }
  | .uvec => core fun k => { k with uvec := v }
  | .tframe => core fun k => { k with tframe := v }
  | .slhash => { s with gw := { s.gw with slhash := v } }
  | .waymask => core fun k => { k with waymask := v }
  | .rtcode => core fun k => { k with rtcode := v }
  | .rtlimit => core fun k => { k with rtlimit := v }
  | .fwvec => core fun k => { k with fwvec := v }
  | .fwframe => core fun k => { k with fwframe := v }
  | .upcode => core fun k => { k with upcode := v }
  | .uplimit => core fun k => { k with uplimit := v }
  | .ident => s
  | .feat => s
  | .asid => s
  | .strmsnap => s
  | .shares => s
  | .opnow => s
  | .time => s
  | .xferid => s

/-- The four access instructions: read, modify and write in one step (R98). new gives the register's next value from the
old one, its settable bits and its write-one-to-clear bits. -/
def crAccess (r : CReg) (d : Option XReg) (new : Word → Word → Word → Word) (s : State) : Eff :=
  match curSlot s with
  | none => .ok s
  | some sl =>
    match getTask s sl.task with
    | none => .ok s
    | some k =>
      let acc := r.access sl.level
      if acc = .none then .trap { cause := .privileged, detail := 3 }
      else
        let old := crRead s s.core s.slot sl k r
        let s := if acc = .rw then crPut s r (new old r.rwMask r.w1c) else s
        match d with
        | some d => .ok (modCur s fun q => q.setX d.val old)
        | none => .ok s

/-- The value of x n of the current slot. -/
def curX (s : State) (n : XReg) : Word :=
  match curSlot s with
  | some sl => sl.x n.val
  | none => 0

/-- CRRD: a control register read (R98). -/
def execCrrd (h : Hdr) (d : XReg) (r : CReg) (s : State) : Host.Outcome State Fault Refusal :=
  issue (.crrd h d r) h s fun _ s => crAccess r (some d) (fun old _ _ => old) s

/-- CRWR: a control register written (R98). -/
def execCrwr (h : Hdr) (a : XReg) (r : CReg) (s : State) : Host.Outcome State Fault Refusal :=
  issue (.crwr h a r) h s fun _ s =>
    crAccess r none (fun old rw w1c => (old &&& ~~~ rw ||| curX s a &&& rw) &&& ~~~ (curX s a &&& w1c)) s

/-- CRSET: bits set (R98). -/
def execCrset (h : Hdr) (d a : XReg) (r : CReg) (s : State) : Host.Outcome State Fault Refusal :=
  issue (.crset h d a r) h s fun _ s =>
    crAccess r (some d) (fun old rw w1c => (old ||| curX s a &&& rw) &&& ~~~ (curX s a &&& w1c)) s

/-- CRCLR: bits cleared (R98). -/
def execCrclr (h : Hdr) (d a : XReg) (r : CReg) (s : State) : Host.Outcome State Fault Refusal :=
  issue (.crclr h d a r) h s fun _ s => crAccess r (some d) (fun old rw _ => old &&& ~~~ (curX s a &&& rw)) s

/-- IDENT: the identity of the task (R31, R99). -/
def execIdent (h : Hdr) (d : XReg) (s : State) : Host.Outcome State Fault Refusal :=
  issue (.ident h d) h s fun _ s => crAccess .ident (some d) (fun old _ _ => old) s

/-- FEAT: the functions of the core (R96, R99). -/
def execFeat (h : Hdr) (d : XReg) (s : State) : Host.Outcome State Fault Refusal :=
  issue (.feat h d) h s fun _ s => crAccess .feat (some d) (fun old _ _ => old) s

/-! ### HALT and SLEEP (R104, R105) -/

/-- HALT: every other resident is pre-empted, the task ends, the core leaves service (R104). -/
def execHalt (h : Hdr) (s : State) : Host.Outcome State Fault Refusal :=
  issue (.halt h) h s fun _ s =>
    if curLevel s ≠ 2 then .trap { cause := .privileged, detail := 2 }
    else
      let s := (below 4).foldl (fun s i => if i = s.slot then s else askPreempt s s.core i) s
      .ok (holdThen s s.core s.slot .halting)

/-- The value of a counter of a core. -/
def ctrOf (s : State) (c n : Nat) : BitVec 32 := ((getCore s c).ctrs[n]?).getD 0

/-- SLEEP: the slot is held while a counter keeps a value (R105). -/
def execSleep (h : Hdr) (d : XReg) (c : CtrReg) (b : XReg) (timeout : BitVec 32) (s : State) :
    Host.Outcome State Fault Refusal :=
  issue (.sleep h d c b timeout) h s fun _ s =>
    match curSlot s with
    | none => .ok s
    | some sl =>
      let v : BitVec 32 := (sl.x b.val).setWidth 32
      let s := setHold s s.core s.slot (.sleep c.val v s.now timeout.toNat (sl.px d.val))
      if ctrOf s s.core c.val = v then .ok s else .ok (wakeSleep s s.core s.slot)

/-- SLEEP_TIMEOUT: a sleep whose time has run out ends (R105). -/
def execSleepTimeout (core slot : Nat) (s : State) : Host.Outcome State Fault Refusal :=
  match slotAt s core slot with
  | none => .next s
  | some sl => match sl.hold with
    | .sleep _ _ t0 timeout _ => if timeout ≠ 0 && t0 + timeout ≤ s.now then .next (wakeSleep s core slot) else .next s
    | _ => .next s

end Sys2Proof.Machine
end

