-- ==== Sys2Proof/Machine/Counter.lean ====
section
/-!
DEFINITION. Class B: counters, messages, the waiting-task table, triggers, launches by instruction, votes, the network
(R44 to R46, R217 to R227, R232 to R234, R370, R374).
-/
set_option Elab.async false
namespace Sys2Proof.Machine

/-! ### Counters (R45, R105, R217, R226, R298) -/

/-- The table entries and triggers that watch a counter, brought up to date with its value (R45, R226). (Log 37.) -/
def readyUp (now n : Nat) (v : BitVec 32) (k : CoreSt) : CoreSt :=
  { k with
    wt := k.wt.map fun e => (e.1, if e.2.valid && e.2.ctr = n then
      { e.2 with ready := if e.2.thresh ≤ v then e.2.ready <|> some now else none } else e.2)
    trig := k.trig.map fun e => (e.1, if !e.2.started && e.2.ctr = n then
      { e.2 with ready := if e.2.thresh ≤ v then e.2.ready <|> some now else none } else e.2) }

/-- A counter of a core set: entries and triggers become ready, and parked tasks wake. -/
def ctrSet (s : State) (c n : Nat) (v : BitVec 32) : State :=
  wakeReplies (modCore s c fun k => readyUp s.now n v { k with ctrs := k.ctrs.setIfInBounds n v }) c n

/-- An increment applied; its router cycle is noted (R217). -/
def ctrAdd (s : State) (c n : Nat) (d : BitVec 32) : State :=
  ctrSet (modCore s c fun k => { k with incAt := tset k.incAt n s.now }) c n (ctrOf s c n + d)

/-- Whether a slot sleeps on a counter whose value is no longer the one it keeps (R105). -/
def sleepOver (k : CoreSt) (sl : SlotSt) : Bool :=
  match sl.hold with
  | .sleep c w _ _ _ => (k.ctrs[c]?).getD 0 ≠ w
  | _ => false

/-- The sleeps of a core that its counters end, looked at once a router cycle, after its updates (R105). -/
def wakeSleepers (s : State) (c : Nat) : State :=
  (below (slotsOf c)).foldl (fun s i => match slotAt s c i with
    | some sl => if sleepOver (getCore s c) sl then wakeSleep s c i else s
    | none => s) s

/-- What the completion of a counter message does for its sender; a launch whose done increment it is gives up its number
(R31, R214, R221, R222, R226, R286). -/
def msgDone (s : State) (m : CMsg) : State :=
  let s := match m.op with
    | some (t, id) => deliver s t id []
    | none => s
  let s := match m.trig with
    | some (c, i) => modCore s c fun k => { k with trig := tmod k.trig i fun g => { g with complete := true } }
    | none => s
  let s := match m.launch with
    | some n => releaseLaunch s n
    | none => s
  match m.halo with
  | some id => haloCheck s id
  | none => s

/-- Whether a message carries an ASID that does not own its target (R34, R370). (Log 35.) -/
def CMsg.misowned (s : State) (m : CMsg) : Bool :=
  match m.asid, (getCore s m.coord).owner with
  | some _, none => true
  | some a, some o => m.judged && decide (o ≠ a)
  | none, _ => false

/-- A message at its target: its bytes, then its increment; misdirected ones have no effect there (R221, R370). -/
def msgApply (s : State) (m : CMsg) : State :=
  let asid := m.asid.getD 0
  if !coreOk s m.coord then errPost s 0x02 m.coord asid 0 m.coord
  else if m.misowned s then
    errPost s 0x03 m.coord asid 0 m.coord
  else
    let s := if m.data.isEmpty then s
      else
        let s := lmWrite s m.coord m.toff m.data
        if m.bad then lmPoison s m.coord m.toff m.data.length else s
    ctrAdd s m.coord m.ctr m.add

/-- COUNTER_UPDATE: a counter message is applied; one to a core that freezes is held at its router (R217, R218, R375). -/
def execCounterUpdate (id : Nat) (s : State) : Host.Outcome State Fault Refusal :=
  match tget s.cmsgs id with
  | none => .next s
  | some m =>
    if m.link.isSome || tableFired s m.coord || (getCore s m.coord).freezing then .next s
    else .next (msgDone (msgApply { s with cmsgs := tdel s.cmsgs id } m) m)

/-! ### SEND, SENDI, CNTRD, CNTADD, CNTSET (R221, R222) -/

/-- Names for the bytes of local memories of other cores, above every address of a task. -/
def remoteBase : Nat := 2 ^ 64

/-- The bytes that a message writes, as R159 clause 2 counts them. -/
def targetSpan (s : State) (coord toff n : Nat) : Nat × Nat :=
  if coord = s.core then (winBase + toff, n) else (remoteBase + coord * 65536 + toff, n)

/-- SEND (R221). -/
def execSend (h : Hdr) (o : Ord) (d a b : XReg) (c : CtrReg) (toff : BitVec 16) (s : State) :
    Host.Outcome State Fault Refusal :=
  issue (.send h o d a b c toff) h s fun id s =>
    match curSlot s with
    | none => .ok s
    | some sl =>
      let coord := fld (sl.x a.val) 17 0
      let n := (sl.x b.val).toNat
      let src := (sl.x d.val).toNat
      if n = 0 || 4096 < n then .trap { cause := .illegal, detail := 8 }
      else if !(winBase ≤ src && src + n ≤ winBase + 65536) then .trap { cause := .window, addr := sl.x d.val }
      else if 65536 < toff.toNat + n then .trap { cause := .window, detail := 2, addr := zext64 toff }
      else .ok (pushOp s id o [(src, n), targetSpan s coord toff.toNat n]
        (.send coord toff.toNat c.val [] (some (src - winBase, n))))

/-- SENDI (R221). -/
def execSendi (h : Hdr) (o : Ord) (sz : Size) (a b : XReg) (c : CtrReg) (toff : BitVec 16) (s : State) :
    Host.Outcome State Fault Refusal :=
  issue (.sendi h o sz a b c toff) h s fun id s =>
    match curSlot s with
    | none => .ok s
    | some sl =>
      let coord := fld (sl.x a.val) 17 0
      let n := sz.bytes
      if toff.toNat % n ≠ 0 then .trap { cause := .align, detail := 2, addr := zext64 toff }
      else if 65536 < toff.toNat + n then .trap { cause := .window, detail := 2, addr := zext64 toff }
      else .ok (pushOp s id o [targetSpan s coord toff.toNat n]
        (.send coord toff.toNat c.val (bytesOf n (sl.x b.val).toNat) none))

/-- CNTRD (R222). -/
def execCntrd (h : Hdr) (o : Ord) (d : XReg) (c : CtrReg) (s : State) : Host.Outcome State Fault Refusal :=
  issue (.cntrd h o d c) h s fun id s =>
    match curSlot s with
    | none => .ok s
    | some sl => .ok (pushOp s id o [] (.cntrd c.val (sl.px d.val)))

/-- CNTADD and CNTADD.self (R222). -/
def execCntadd (h : Hdr) (o : Ord) (self : Bool) (a b : XReg) (c : CtrReg) (k : BitVec 32) (s : State) :
    Host.Outcome State Fault Refusal :=
  issue (.cntadd h o self a b c k) h s fun id s =>
    match curSlot s with
    | none => .ok s
    | some sl =>
      let coord := if self then s.core else fld (sl.x a.val) 17 0
      .ok (pushOp s id o [] (.cntadd coord c.val ((sl.x b.val).setWidth 32 + k)))

/-- CNTSET (R222). -/
def execCntset (h : Hdr) (o : Ord) (b : XReg) (c : CtrReg) (s : State) : Host.Outcome State Fault Refusal :=
  issue (.cntset h o b c) h s fun id s =>
    match curSlot s with
    | none => .ok s
    | some sl => .ok (pushOp s id o [] (.cntset c.val ((sl.x b.val).setWidth 32)))

/-- An operation whose message is on its way (R221). -/
def markSent (s : State) (t id : Nat) : State := passed (modOp s t id fun o => { o with sent := true }) t id

def taskAsid (s : State) (t : Nat) : Nat := match getTask s t with
  | some k => k.asid
  | none => 0

/-- SEND and SENDI sent: the source bytes are read, poison travels with them (R221, R349). -/
def performSend (s : State) (c t : Nat) (m : MemOp) (coord toff ctr : Nat) (data : List Byte) (src : Option (Nat × Nat)) :
    State :=
  let r := match src with
    | some (off, n) => lmRead s c off n
    | none => (data, false)
  sendMsg (markSent s t m.id)
    { coord, ctr, add := 1, asid := some (taskAsid s t), toff, data := r.1, bad := r.2, op := some (t, m.id) }

/-- CNTRD performed: an acquire at device scope from the counter (R218, R222). -/
def performCntrd (s : State) (c t : Nat) (m : MemOp) (n dst : Nat) : State :=
  deliver (acquireFlash s c .device) t m.id [putX dst (zext64 (ctrOf s c n)) none]

def performCntadd (s : State) (t : Nat) (m : MemOp) (coord ctr : Nat) (v : BitVec 32) : State :=
  sendMsg (markSent s t m.id) { coord, ctr, add := v, asid := some (taskAsid s t), op := some (t, m.id) }

/-- CNTSET performed; none in a router cycle that has already incremented the counter or in which the table has fired, since
it applies before the increments, and these before the firing (R45, R217, R222). -/
def performCntset (s : State) (c t : Nat) (m : MemOp) (ctr : Nat) (v : BitVec 32) : Option State :=
  if tget (getCore s c).incAt ctr = some s.now || tableFired s c then none else some (deliver (ctrSet s c ctr v) t m.id [])

/-! ### The waiting-task table (R44 to R46, R223) -/

/-- A value into x[d] of the current slot. -/
def curSetX (s : State) (d : XReg) (v : Word) : State := modCur s fun q => q.setX d.val v

/-- WTSET in its three forms (R223). DESIGN CHOICE: from a WTSET.s to the writing of its record the entry is taken but not
valid: WTSET and WTCLR of it both answer 0. R223's pseudocode makes it valid at once, its text arms it only once the record has
been written (log 33). -/
def wtsetEff (s : State) (l sv : Bool) (d : XReg) (e : BitVec 4) (c : CtrReg) (a b : XReg) : Eff :=
  match curSlot s with
  | none => .ok s
  | some sl =>
    match getTask s sl.task with
    | none => .ok s
    | some k =>
      let rec_ := sl.x b.val
      let thresh : BitVec 32 := (sl.x a.val).setWidth 32
      if (tget (getCore s s.core).wt e.toNat).isSome then .ok (curSetX s d 0)
      else if rec_.toNat % (if l then 128 else 32) ≠ 0 then .trap { cause := .align, addr := rec_ }
      else if !l && !sv && sl.level = 0 then .trap { cause := .privileged, detail := 4 }
      else if sv && sl.inh then .ok (curSetX s d 0)
      else
        let w : WtEntry :=
          { valid := !sv, launchRec := l, ctr := c.val, thresh, recVa := rec_.toNat % 2 ^ 56, asid := k.asid
            task := if sv then some sl.task else none, level := sl.level, launch := k.launch
            ready := if !sv && thresh ≤ ctrOf s s.core c.val then some s.now else none }
        let s := modCore (curSetX s d 1) s.core fun m => { m with wt := tset m.wt e.toNat w }
        .ok (if sv then holdThen s s.core s.slot (.wtSave e.toNat rec_) else s)

/-- WTSET: an existing continuation record armed (R223). -/
def execWtset (h : Hdr) (d : XReg) (e : BitVec 4) (c : CtrReg) (a b : XReg) (s : State) :
    Host.Outcome State Fault Refusal :=
  issue (.wtset h d e c a b) h s fun _ s => wtsetEff s false false d e c a b

/-- WTSET.s: this task saved and suspended (R223). -/
def execWtsetS (h : Hdr) (d : XReg) (e : BitVec 4) (c : CtrReg) (a b : XReg) (s : State) :
    Host.Outcome State Fault Refusal :=
  issue (.wtsetS h d e c a b) h s fun _ s => wtsetEff s false true d e c a b

/-- WTSET.l: a launch record armed (R223). -/
def execWtsetL (h : Hdr) (d : XReg) (e : BitVec 4) (c : CtrReg) (a b : XReg) (s : State) :
    Host.Outcome State Fault Refusal :=
  issue (.wtsetL h d e c a b) h s fun _ s => wtsetEff s true false d e c a b

/-- WTCLR (R223). -/
def execWtclr (h : Hdr) (d : XReg) (e : BitVec 4) (s : State) : Host.Outcome State Fault Refusal :=
  issue (.wtclr h d e) h s fun _ s =>
    match tget (getCore s s.core).wt e.toNat with
    | some w => if w.valid then .ok (modCore (curSetX s d 1) s.core fun m => { m with wt := tdel m.wt e.toNat })
        else .ok (curSetX s d 0)
    | none => .ok (curSetX s d 0)

/-- The ready entry that fires next: the earliest, then the lowest counter, then the lowest index (R45). -/
def firstReady (k : CoreSt) : Option Nat :=
  (leastBy (fun e : Nat × WtEntry => (e.2.ready.getD 0) * 256 + e.2.ctr * 16 + e.1)
    (k.wt.filter fun e => e.2.valid && e.2.ready.isSome)).map fun e => e.1

/-- The task that a continuation record belongs to. -/
def taskOfRecord (s : State) (r : RecAt) : Option (Nat × TaskSt) :=
  s.tasks.find? fun e => match e.2.kept with
    | some (_, q) => q = r
    | none => false

/-- The task that is being pre-empted and whose record this will be (R46). -/
def savingTo (s : State) (r : RecAt) : Option Nat :=
  (s.tasks.find? fun e => match e.2.place with
    | .resident c i => saveSlot s e.2 = r && (match slotAt s c i with | some sl => sl.preReq.isSome | none => false)
    | _ => false).map fun e => e.1

/-- A fired entry of kind 0: its continuation is queued, a task that WTSET.s suspended on its own coordinate, another record
on the core of the entry (R39, R46). A parked task waits for nothing more; one that is being pre-empted is queued once it is
saved. A record that is no known task's becomes a new task of the writer's launch (log 18). DESIGN CHOICE: a firing for a record
whose task is already queued or has ended has no effect, since a continuation is queued once (log 18). -/
def fireRecord (s : State) (c : Nat) (w : WtEntry) : State :=
  let r : RecAt := ⟨w.asid, w.recVa⟩
  match w.task with
  | some t => enqueue s t (.record r) true
  | none =>
    match taskOfRecord s r, savingTo s r with
    | some (t, k), _ =>
      (match k.place with
       | .saved _ _ => queueFired s t c r
       | .parked _ _ =>
         let s := match k.wait with
           | some w => unwait s w
           | none => s
         queueFired (dropEdges (modTask s t fun k => { k with wait := none }) t) t c r
       | _ => s)
    | none, some t => modTask s t fun k => { k with fired := some c }
    | none, none =>
      let t := s.seq
      let k : TaskSt := { launch := w.launch, asid := w.asid, home := c, level0 := w.level, place := .saved c r }
      queueFired { bump s with tasks := tset s.tasks t k } t c r

/-- WT_ENTRY_FIRE: the entry whose turn it is fires; one a router cycle, before a trigger starts in it (R45, R46, R226). -/
def execWtEntryFire (core e : Nat) (s : State) : Host.Outcome State Fault Refusal :=
  match tget (getCore s core).wt e with
  | none => .next s
  | some w =>
    if firstReady (getCore s core) ≠ some e || tableFired s core || (getCore s core).freezing then .next s
    else
      let s := modCore s core fun k => { k with wt := tdel k.wt e, firedAt := some s.now }
      .next (if w.launchRec then launchFromEntry s w.asid w.recVa w.level else fireRecord s core w)

/-! ### NSEND (R233, R374) -/

/-- A network descriptor (R233). -/
structure NetDesc where
  src : Nat
  len : Nat
  port : Nat
  redop : Nat
  dcoord : Nat
  dctr : Nat
  den : Bool
  deriving DecidableEq, Repr

def NetDesc.ofBytes (bs : List Byte) : NetDesc :=
  let n := natOf bs
  { src := bitsN n 503 448, len := bitsN n 359 336, port := bitsN n 303 300, redop := bitsN n 295 292
    dcoord := bitsN n 291 274, dctr := bitsN n 273 270, den := bitN n 269 }

/-- Why a gateway refuses a message: 0 when it does not (R374). -/
def netReason (s : State) (c asid : Nat) (d : NetDesc) : Nat :=
  if 4 ≤ d.redop then 1
  else if d.len = 0 then 2
  else if bitN (s.gw.bootstat.toNat / 2 ^ 40) (d.port / 2) then 3
  else if badElem d.src 1 || straddles d.src d.len then 4
  else match engRead s c asid d.src d.len with
    | .ok (_, some _) => 0
    | .ok (_, none) => 4
    | .error _ => 4

/-- A gateway reads a descriptor and its payload: the message is sent, or refused (R233, R374). -/
def netSend (s : State) (c asid : Nat) (d : NetDesc) : State :=
  let why := netReason s c asid d
  if why = 0 then { bump s with nets := tset s.nets s.seq ⟨d.den, d.dcoord, d.dctr, asid⟩ }
  else
    let s := errPost s 0x09 c asid d.src why
    let s := { s with gw := { s.gw with refused := tset s.gw.refused d.port (satInc ((tget s.gw.refused d.port).getD 0)) } }
    if d.den then sendDone s asid d.dcoord d.dctr else s

/-- NSEND at issue (R233). -/
def execNsend (h : Hdr) (o : Ord) (a : XReg) (off : BitVec 32) (s : State) : Host.Outcome State Fault Refusal :=
  issue (.nsend h o a off) h s fun id s =>
    match curSlot s with
    | none => .ok s
    | some sl => directRange s id o (eaOf (sl.x a.val) off) 64 64 .read false (fun s l n => badRead s false l n)
        fun ls => .nsend (ls.headD (.loc s.core 0))

/-- The lowest poisoned byte of a record that an operation reads. -/
def recordBad (s : State) (c : Nat) (m : MemOp) (l : Loc) (n : Nat) : Option Nat :=
  poisonIn (fun l n => (coreRead s c false l n m.mask).2.2) [(l, n)]

/-- NSEND performed once the gateway has read the descriptor and the payload; a descriptor that is poisoned by then is
refused as its payload is (R233, R374; log 32). -/
def performNsend (s : State) (c t : Nat) (m : MemOp) (l : Loc) : State :=
  orPoison s t m .read (recordBad s c m l 64) fun bad =>
    let r := coreRead s c false l 64 m.mask
    deliver (if bad.isSome then errPost r.1 0x09 c (taskAsid s t) m.ea 4
      else netSend r.1 c (taskAsid s t) (NetDesc.ofBytes r.2.1)) t m.id []

/-- NSEND_ACK: the acknowledgement of a message arrives (R233). -/
def execNsendAck (id : Nat) (s : State) : Host.Outcome State Fault Refusal :=
  match tget s.nets id with
  | none => .next s
  | some n =>
    let s := { s with nets := tdel s.nets id }
    .next (if n.den then sendDone s n.asid n.dcoord n.dctr else s)

/-- One element of a reduction at the endpoint, rounded RNE (R374). -/
def netReduce (redop old new : Nat) : Nat :=
  match redop with
  | 1 => (addBits fmtF32 .rne old new).1
  | 2 => (addBits fmtBF16 .rne old new).1
  | _ => (minmaxBits fmtF32 true old new).1

def netElem (redop : Nat) : Nat := if redop = 2 then 2 else 4

/-- Elements of a payload applied one by one to the bytes there. -/
def netApply (redop : Nat) (old new : List Byte) : Nat → List Byte
  | 0 => []
  | f + 1 =>
    let e := netElem redop
    if new.length < e then new
    else bytesOf e (netReduce redop (natOf (old.take e)) (natOf (new.take e))) ++ netApply redop (old.drop e) (new.drop e) f

/-- NSEND_ARRIVAL: a message from a peer package: its bytes, reduced at the endpoint on an encrypted traffic class, then
its increment (R233, R374). -/
def execNsendArrival (m : NetMsg) (s : State) : Host.Outcome State Fault Refusal :=
  let va := m.raddr.toNat
  let enc := ((tget s.gw.netenc m.port).getD 0xFFFF).getLsbD m.tc
  let reduce := m.redop ≠ 0 && m.redop < 4 && enc
  let s := if reduce then
      (match devRead s m.asid va m.data.length with
       | .ok (s, old, none) =>
         let s := match devWrite s m.asid va (netApply m.redop old m.data m.data.length) with
           | .ok s => s
           | .error _ => s
         let s := { s with gw := { s.gw with
           endpoint := tset s.gw.endpoint m.port (satInc ((tget s.gw.endpoint m.port).getD 0)) } }
         errPost s 0x0A m.rcoord m.asid va (m.port + 256 * m.tc)
       | _ => s)
    else (match devWrite s m.asid va m.data with
      | .ok s => s
      | .error _ => s)
  .next (if m.ren then sendDone s m.asid m.rcoord m.rctr else s)

/-! ### Triggers (R224 to R226) -/

/-- A trigger as its descriptor gives it; none when it is invalid (R224). -/
def trigOf (bs : List Byte) (asid : Nat) : Option Trigger :=
  let n := natOf bs
  let p (hi lo : Nat) : Nat := bitsN n (hi + 64) (lo + 64)
  let act : Option TrigAction := match bitsN n 18 16 with
    | 0 =>
      let len := p 49 38 + 1
      if 65536 < p 33 18 + len || 65536 < p 65 50 + len then none else some (.send (p 17 0) (p 33 18) (p 37 34) len (p 65 50))
    | 1 => some (.cpy (BitVec.ofNat 64 (p 55 0)) (BitVec.ofNat 64 (p 119 64)) (BitVec.ofNat 64 (p 183 128)) (p 195 192))
    | 2 => some (.cntadd (p 17 0) (p 21 18) (BitVec.ofNat 32 (p 63 32)))
    | 3 => some (.nsend (p 55 0))
    | _ => none
  act.map fun a =>
    { ctr := bitsN n 27 24, thresh := BitVec.ofNat 32 (bitsN n 63 32), doneEn := bitN n 23, doneCtr := bitsN n 22 19
      action := a, asid }

/-- ARM at issue (R224, R225). -/
def execArm (h : Hdr) (o : Ord) (d a : XReg) (off : BitVec 32) (s : State) : Host.Outcome State Fault Refusal :=
  issue (.arm h o d a off) h s fun id s =>
    match curSlot s with
    | none => .ok s
    | some sl => directRange s id o (eaOf (sl.x a.val) off) 64 64 .read false (fun s l n => badRead s false l n)
        fun ls => .arm (ls.headD (.loc s.core 0)) (sl.px d.val)

/-- ARM performed: the trigger installed in a free entry of the table of 32 (R225). DESIGN CHOICE: the free entry with the
lowest index; R225 does not say which (log 33). -/
def performArm (s : State) (c t : Nat) (m : MemOp) (l : Loc) (dst : Nat) : State :=
  orPoison s t m .read (recordBad s c m l 64) fun bad =>
    let r := coreRead s c false l 64 m.mask
    let free := (below 32).find? fun i => (tget (getCore s c).trig i).isNone
    match (if bad.isSome then none else trigOf r.2.1 (taskAsid s t)), free with
    | none, _ => deliver r.1 t m.id [putX dst 0xFFFFFFFFFFFFFFFE bad]
    | some _, none => deliver r.1 t m.id [putX dst 0xFFFFFFFFFFFFFFFF none]
    | some g, some i =>
      let g := { g with ready := if g.thresh ≤ ctrOf s c g.ctr then some (s.now + boolN (tableFired s c)) else none }
      deliver (modCore r.1 c fun k => { k with trig := tset k.trig i g }) t m.id [putX dst (BitVec.ofNat 64 i) none]

/-- DISARM (R225). -/
def execDisarm (h : Hdr) (d : XReg) (i : BitVec 5) (s : State) : Host.Outcome State Fault Refusal :=
  issue (.disarm h d i) h s fun _ s =>
    match tget (getCore s s.core).trig i.toNat with
    | some g => if g.started then .ok (curSetX s d 0)
        else .ok (modCore (curSetX s d 1) s.core fun k => { k with trig := tdel k.trig i.toNat })
    | none => .ok (curSetX s d 0)

/-- The ready trigger that starts next (R226). -/
def firstTrigger (k : CoreSt) : Option Nat :=
  (leastBy (fun e : Nat × Trigger => (e.2.ready.getD 0) * 1024 + e.2.ctr * 32 + e.1)
    (k.trig.filter fun e => e.2.ready.isSome && !e.2.started)).map fun e => e.1

/-- A triggered action begun (R226). (Log 38.) -/
def runAction (s : State) (c i : Nat) (g : Trigger) : State :=
  match g.action with
  | .send coord toff ctr len src =>
    let r := lmRead s c src len
    sendMsg s { coord, ctr, add := 1, asid := some g.asid, toff, data := r.1, bad := r.2, trig := some (c, i) }
  | .cntadd coord ctr v => sendMsg s { coord, ctr, add := v, asid := some g.asid, trig := some (c, i) }
  | .cpy dst src pr rtn =>
    let e := engineFor s c src.toNat
    let m : Cmd :=
      { core := c, task := none, trig := some i, asid := g.asid, handle := handleOf e (descFor s e s.seq) 0, engine := e
        kind := .cpy dst src pr rtn false }
    { bump s with cmds := tset s.cmds s.seq m }
  | .nsend va =>
    let s := match engRead s c g.asid va 64 with
      | .ok (s, some bs) => netSend s c g.asid (NetDesc.ofBytes bs)
      | .ok (s, none) => errPost s 0x09 c g.asid va 4
      | .error _ => errPost s 0x09 c g.asid va 4
    modCore s c fun k => { k with trig := tmod k.trig i fun g => { g with complete := true } }

/-- Whether an entry of a core's table has still to fire in this router cycle (R45). -/
def fireDue (s : State) (c : Nat) : Bool := (getCore s c).firedAt ≠ some s.now && (firstReady (getCore s c)).isSome

/-- TRIGGER_START: the ready trigger whose turn it is starts its action; one a router cycle, after the table has fired
(R226). -/
def execTriggerStart (core i : Nat) (s : State) : Host.Outcome State Fault Refusal :=
  match tget (getCore s core).trig i with
  | none => .next s
  | some g =>
    if firstTrigger (getCore s core) ≠ some i || (getCore s core).trigAt = some s.now || fireDue s core
        || (getCore s core).freezing then .next s
    else .next (runAction (modCore s core fun k => { k with
      trig := tset k.trig i { g with started := true }, trigAt := some s.now }) core i g)

/-- TRIGGER_COMPLETE: the done increment of a completed action, then its index is free (R226). -/
def execTriggerComplete (core i : Nat) (s : State) : Host.Outcome State Fault Refusal :=
  match tget (getCore s core).trig i with
  | none => .next s
  | some g =>
    if !g.complete || g.doneEn && tableFired s core then .next s
    else
      let s := modCore s core fun k => { k with trig := tdel k.trig i }
      .next (if g.doneEn then ctrAdd s core g.doneCtr 1 else s)

/-! ### LAUNCH, VOTE, TTSEL (R227, R232) -/

/-- LAUNCH at issue (R227). -/
def execLaunch (h : Hdr) (o : Ord) (d a : XReg) (off : BitVec 32) (s : State) : Host.Outcome State Fault Refusal :=
  issue (.launch h o d a off) h s fun id s =>
    match curSlot s with
    | none => .ok s
    | some sl => directRange s id o (eaOf (sl.x a.val) off) 128 128 .read false (fun s l n => badRead s false l n)
        fun ls => .launch (ls.headD (.loc s.core 0)) (sl.px d.val)

/-- The level of a task where it runs. -/
def levelOf (s : State) (t : Nat) : BitVec 2 :=
  match residence s t with
  | some (c, i) => (match slotAt s c i with
    | some sl => sl.level
    | none => 0)
  | none => match getTask s t with
    | some k => k.level0
    | none => 0

/-- LAUNCH performed: the launch fires or is refused, its result in the register (R42, R227, R328); none while a binding that
is not refused has to wait (R236). -/
def performLaunch (s : State) (c t : Nat) (m : MemOp) (l : Loc) (dst : Nat) : Option State :=
  let q := coreRead s c false l 128 m.mask
  let r := LaunchRec.ofBytes q.2.1
  let answer (s : State) (v : Word) : State := deliver s t m.id [putX dst v none]
  match (if opPast s t m.id then none else recordBad s c m l 128) with
  | some a => some (orPoison s t m .read (some a) fun bad => deliver q.1 t m.id [putX dst 0 bad])
  | none => match fireLaunch q.1 r (levelOf s t) (taskAsid s t) with
    | .error st => some (answer q.1 (0x8000000000000000 + BitVec.ofNat 64 st))
    | .ok (u, n) => if launchWaits s r then none else some (answer u (BitVec.ofNat 64 n))

/-- VOTE: the greatest contribution counts (R232). -/
def execVote (h : Hdr) (a : XReg) (s : State) : Host.Outcome State Fault Refusal :=
  issue (.vote h a) h s fun _ s =>
    match curSlot s with
    | none => .ok s
    | some sl => .ok (modTask s sl.task fun k => { k with vote := Nat.max k.vote (fld (sl.x a.val) 2 0) })

/-- TTSEL: the core's selection map (R232). -/
def execTtsel (h : Hdr) (a : XReg) (s : State) : Host.Outcome State Fault Refusal :=
  issue (.ttsel h a) h s fun _ s =>
    .ok (modCore s s.core fun k => { k with exch := { k.exch with map := (curX s a).setWidth 24 } })

end Sys2Proof.Machine
end

