-- ==== Sys2Proof/Machine/Exchange.lean ====
section
/-!
DEFINITION. Exchange phases: arrival, release, timetables and the flits they move (R15, R228 to R232, R371, R372).
-/
set_option Elab.async false
namespace Sys2Proof.Machine

/-! ### EXCH and its barrier (R228, R232) -/

def CmdKind.isExch : CmdKind → Bool
  | .exch _ _ => true
  | _ => false

/-- The EXCH commands of a launch's tasks. -/
def exchCmds (s : State) (n : Nat) : List (Nat × Cmd) :=
  s.cmds.filter fun e => e.2.kind.isExch && (match e.2.task with
    | some t => (match getTask s t with
      | some k => k.launch = n
      | none => false)
    | none => false)

/-- Those that have arrived at the barrier and are not released. (Log 40.) -/
def arrivedAt (s : State) (n : Nat) : List (Nat × Cmd) :=
  (exchCmds s n).filter fun e => e.2.arrived && e.2.state = .issued

/-- An EXCH arrives: the task's vote goes with it, and the core's first arrival of a phase takes its map (R228, R232). DESIGN
CHOICE: a VOTE executed after the EXCH has issued and before it arrives counts in this phase; R232 says only the task's next
phase (log 40). -/
def exchArrive (s : State) (n id : Nat) (m : Cmd) : State :=
  match m.task with
  | none => s
  | some t =>
    let mine := arrivedAt s n
    if mine.any fun e => e.2.task = some t then s
    else
      let first := !(mine.any fun e => e.2.core = m.core)
      let v := match getTask s t with
        | some k => k.vote
        | none => 0
      let s := modTask s t fun k => { k with vote := 0 }
      let taken := if first then some (getCore s m.core).exch.map else none
      setCmd s id { m with arrived := true, vote := v, taken }

/-- EXCH at issue: an inherited command of the timetable engine (R228). -/
def execExch (h : Hdr) (o : Ord) (d a : XReg) (off : BitVec 32) (s : State) : Host.Outcome State Fault Refusal :=
  issue (.exch h o d a off) h s fun id s =>
    match curSlot s with
    | none => .ok s
    | some sl =>
      let ea := eaOf (sl.x a.val) off
      match checkEa ea 32 .read with
      | some t => .trap t
      | none =>
        if !inWin ea.toNat then .trap { cause := .window, addr := ea }
        else
          let s := issueCmd s id o 112 (.exch (ea.toNat - winBase) (sl.px d.val))
          match tget s.cmds id, getTask s sl.task with
          | some m, some k => .ok (if m.deps.isEmpty then exchArrive s k.launch id m else s)
          | _, _ => .ok s

/-- Whether every task of a launch has arrived or ended, and some have arrived (R228). -/
def phaseFull (s : State) (n : Nat) : Bool :=
  let arr := arrivedAt s n
  !arr.isEmpty && (tasksOfLaunch s n).all fun e => e.2.place.isEnded || arr.any fun a => a.2.task = some e.1

/-- The map that the first arrival of a core took, by the arrivals of its phase (R232). -/
def mapTaken (arr : List (Nat × Cmd)) (c : Nat) : BitVec 24 :=
  ((arr.filter fun e => e.2.core = c).findSome? fun e => e.2.taken).getD 0xFAC688

/-- EXCH_PHASE_RELEASE: the EXCHs whose earlier operations are performed arrive; when every task has arrived or ended, the
phase releases and Trel is fixed (R228). -/
def execExchPhaseRelease (launch : Nat) (s : State) : Host.Outcome State Fault Refusal :=
  match tget s.launches launch with
  | none => .next s
  | some l =>
    let s := (exchCmds s launch).foldl (fun s e =>
      if !e.2.arrived && e.2.state = .issued && cmdReady s e.2 then exchArrive s launch e.1 e.2 else s) s
    if l.trel.isSome || !phaseFull s launch then .next s
    else
      let arr := arrivedAt s launch
      let v := arr.foldl (fun v e => Nat.max v e.2.vote) 0
      let s := arr.foldl (fun s e => setCmd s e.1 { e.2 with
        state := .queued, phase := some { vote := v, map := mapTaken arr e.2.core } }) s
      .next { s with launches := tset s.launches launch { l with
        trel := some (s.now + 1024), combined := v, phase := l.phase + 1 } }

/-! ### Timetables (R229, R371) -/

structure XEntry where
  offset : Nat
  port   : Nat
  port2  : Nat
  op     : Nat
  addr   : Nat
  len    : Nat
  deriving DecidableEq, Repr

def XEntry.ofNat (w : Nat) : XEntry :=
  ⟨bitsN w 63 40, bitsN w 39 37, bitsN w 36 34, bitsN w 33 32, bitsN w 31 16, bitsN w 11 0⟩

/-- The faults of an entry, its predecessor's offset given (R371). -/
def XEntry.bad (e : XEntry) (prev : Nat) : Bool :=
  e.port = 7 || (e.op = 2 && (e.port2 = 7 || e.port2 = e.port)) || 2047 < e.len
    || e.addr % 32 ≠ 0 || 65536 < e.addr + 32 * (e.len + 1) || e.offset < prev

/-- The units of an entry that is reached: what each of its flits does in its router cycle (R230). -/
def XEntry.units (e : XEntry) (trel idx : Nat) : List XUnit :=
  (below (e.len + 1)).map fun k =>
    { at_ := trel + e.offset + k, op := e.op, idx, port := e.port, port2 := e.port2, addr := e.addr + 32 * k }

/-- The local offset of the timetable that a vote selects, by the directory's word map[vote]; none: the word is faulty
(R229, R232, R371). -/
def tableAt (s : State) (c dir vote : Nat) (map : BitVec 24) : Option Nat :=
  let r := bitsN map.toNat (3 * vote + 2) (3 * vote)
  let w := rdNat (getCore s c).lmem (dir + 4 * r) 4
  if bitsN w 31 16 ≠ 0 || w % 8 ≠ 0 then none else some w

/-! ### Routers and links (R15, R20, R230) -/

/-- The physical site of a core, packed like a coordinate (R20). -/
def physSite (s : State) (c : Nat) : Nat :=
  if uncached c then c
  else match (getDie s (dieOf c)).coreMap.find? fun e => e.valid && e.lrow = rowOf c && e.lcol = colOf c with
  | some e => packCoord (dieOf c) e.prow e.pcol
  | none =>
    let cl := clusterOf s c % 1024
    packCoord (dieOf c) (2 * (cl / 32) + rowOf c % 2) (2 * (cl % 32) + colOf c % 2)

/-- Where a flit driven on a port of a site's router appears: site, input port, delay (R15, R230). The die-up and die-down
links join routers of the same position; column k of a core die's edge is attached to router k / 4 of its gateway die (log
19). -/
def linkTo (s : State) (site port : Nat) : Option (Nat × Nat × Nat) :=
  let d := dieOf site
  let r := rowOf site
  let k := colOf site
  let cross (d2 r2 k2 inp lat : Nat) : Option (Nat × Nat × Nat) :=
    if (getDie s (dieKey site)).links.contains port then none else some (packCoord d2 r2 k2, inp, lat)
  if port = 6 then some (site, 6, 0)
  else if 56 ≤ d then
    if 2 ≤ port then none
    else if d < 60 then cross (2 * (d - 56) + port) 0 (4 * k) 0 24
    else cross (32 + 2 * (d - 60) + port) 63 (4 * k) 2 24
  else match port with
  | 0 =>
    if r ≠ 0 then some (packCoord d (r - 1) k, 2, 2)
    else if d < 8 then cross (56 + d / 2) 0 (k / 4) (d % 2) 24
    else cross (d - 8) 63 k 2 24
  | 1 => if k ≠ 63 then some (packCoord d r (k + 1), 3, 2) else if d % 8 = 7 then none else cross (d + 1) r 0 3 24
  | 2 =>
    if r ≠ 63 then some (packCoord d (r + 1) k, 0, 2)
    else if 32 ≤ d then cross (60 + (d - 32) / 2) 0 (k / 4) (d % 2) 24
    else cross (d + 8) 0 k 0 24
  | 3 => if k ≠ 0 then some (packCoord d r (k - 1), 1, 2) else if d % 8 = 0 then none else cross (d - 1) r 63 1 24
  | 4 => if d < 39 then cross (d + 1) r k 5 32 else none
  | 5 => if 0 < d then cross (d - 1) r k 4 32 else none
  | _ => none

/-! ### The movement of one phase (R230, R231, R371) -/

/-- The sideband tag of a launch and a phase count (R230). -/
def sideTag (launch phase : Nat) : Nat := 16 * (phase % 16) + launch % 16

/-- The check of a flit: the xor of its bytes (R230). -/
def flitCheck (bs : List Byte) : Byte := bs.foldl (· ^^^ ·) 0

/-- What becomes of the running EXCHs of a core when its timetable for a launch ends or meets a fault. -/
def exchMark (s : State) (launch core : Nat) (f : XPhase → XPhase) : State :=
  (exchCmds s launch).foldl (fun s e =>
    if e.2.core = core && e.2.state = .running then setCmd s e.1 { e.2 with phase := e.2.phase.map f } else s) s

/-- A fault of a timetable logged at its core, in the ASID of its launch, and noted for its EXCHs (R371, R372). -/
def exchFault (s : State) (code launch core idx : Nat) : State :=
  let asid := match tget s.launches launch with
    | some l => l.r.asid
    | none => 0
  exchMark (errPost s code core asid 0 idx) launch core fun p => { p with fault := true }

/-- A timetable ended at the entry that its engine has reached. -/
def XEng.finish (s : State) (e : XEng) : State × XEng :=
  (exchMark s e.launch e.core fun p => { p with endAt := some s.now }, { e with ended := true })

/-- The entries that an engine reaches in the present cycle: each is read in the cycle that its offset names, and a faulty
one ends the timetable (R229, R230, R371; log 20). -/
def XEng.reach (s : State) (e : XEng) : Nat → State × XEng
  | 0 => (s, e)
  | n + 1 =>
    if e.ended then (s, e)
    else
      let a := e.base + 8 * e.idx
      let x := XEntry.ofNat (rdNat (getCore s e.core).lmem a 8)
      if e.idx = 4096 || 65536 < a + 8 then XEng.finish (exchFault s 0x04 e.launch e.core e.idx) e
      else if e.prev ≤ x.offset && s.now < e.trel + x.offset then (s, e)
      else if x.bad e.prev then XEng.finish (exchFault s 0x04 e.launch e.core e.idx) e
      else if x.op = 3 then XEng.finish s e
      else XEng.reach s { e with idx := e.idx + 1, prev := x.offset, units := e.units ++ x.units e.trel e.idx } n

/-- Every engine brought to the present cycle, in order. -/
def reachAll (s : State) : State :=
  s.engines.foldl (fun s e => let (s, e) := e.reach s 4097; { s with engines := s.engines ++ [e] }) { s with engines := [] }

/-- A unit that moves in the present cycle, with what earlier entries of its core do in it: use the same side of local
memory, or drive the same port (R371). -/
structure XMove where
  eng    : XEng
  unit   : XUnit
  again  : Bool
  driven : Bool
  deriving DecidableEq, Repr

/-- The order within a cycle: sends, forwards onto port 6, other forwards, receives. -/
def XMove.rank (m : XMove) : Nat := match m.unit.op with
  | 0 => 0
  | 2 => if m.unit.port = 6 then 1 else 2
  | _ => 3

def judged (seen : List (Nat × XUnit)) : List (XEng × XUnit) → List XMove
  | [] => []
  | (e, u) :: ms =>
    let mine := seen.filter fun v => v.1 = e.core
    ⟨e, u, mine.any fun v => v.2.op = u.op, mine.any fun v => v.2.op ≠ 1 && v.2.port = u.port⟩
      :: judged ((e.core, u) :: seen) ms

/-- The units of the present cycle in order. -/
def movesNow (s : State) : List XMove :=
  sortBy XMove.rank (judged [] ((s.engines.map fun e => (e.units.filter fun u => u.at_ = s.now).map fun u => (e, u)).flatten))

def XMove.conflict (m : XMove) (s : State) : State := exchFault s 0x05 m.eng.launch m.eng.core m.unit.idx

/-- A flit driven on an output port; the later entry of a double drive loses its flit. -/
def XMove.drive (m : XMove) (s : State) (f : Flit) : State :=
  if m.driven then m.conflict s
  else match linkTo s m.eng.site m.unit.port with
    | some (site, port, lat) => { s with wires := s.wires ++ [⟨site, port, m.unit.at_ + lat, f⟩] }
    | none => s

/-- The flit at an input port in the present cycle, taken. -/
def takeFlit (s : State) (site port : Nat) : State × Option Flit :=
  match s.wires.find? fun w => w.site = site && w.port = port && w.at_ = s.now with
  | some w => ({ s with wires := s.wires.erase w }, some w.flit)
  | none => (s, none)

/-- The 32 bytes of a receive written poisoned, and the conflict logged. -/
def XMove.spoil (m : XMove) (s : State) : State := lmPoison (m.conflict s) m.eng.core m.unit.addr 32

/-- A flit received: its bytes written, with their poison; one whose sideband is not that of the launch and phase, or whose
check is not that of its bytes, spoils them (R230, R371). -/
def XMove.receive (m : XMove) (s : State) (f : Flit) : State :=
  let s := lmWrite s m.eng.core m.unit.addr f.data
  if f.tag ≠ m.eng.tag || f.check ≠ flitCheck f.data then m.spoil s
  else if f.bad then lmPoison s m.eng.core m.unit.addr 32 else s

/-- One unit performed (R230, R371). -/
def XMove.perform (s : State) (m : XMove) : State :=
  match m.unit.op with
  | 0 =>
    let r := lmRead s m.eng.core m.unit.addr 32
    m.drive (if m.again then m.conflict s else s) ⟨r.1, r.2 || m.again, m.eng.tag, flitCheck r.1⟩
  | 2 =>
    (match takeFlit s m.eng.site m.unit.port2 with
     | (s, some f) => m.drive s f
     | (s, none) => s)
  | _ =>
    match takeFlit s m.eng.site m.unit.port with
    | (s, none) => m.spoil s
    | (s, some f) => if m.again then m.conflict s else m.receive s f

/-- The flits of the present cycle that no receive or forward took: discarded, a fault of the timetable that runs where they
arrived (R371). -/
def dropFlits (s : State) : State :=
  let gone := s.wires.filter fun w => w.at_ ≤ s.now
  gone.foldl (fun s w => match s.engines.find? fun e => e.site = w.site with
    | some e => exchFault s 0x05 e.launch e.core (e.idx - 1)
    | none => s) { s with wires := s.wires.filter fun w => s.now < w.at_ }

/-- The engines whose timetables have ended and whose units have all moved stop. -/
def stopEngines (s : State) : State :=
  { s with engines := (s.engines.map fun e => { e with units := e.units.filter fun u => s.now < u.at_ }).filter fun e =>
      !(e.ended && e.units.isEmpty) }

/-- The EXCH commands of a launch that the current phase has released. -/
def releasedIn (s : State) (n : Nat) : List (Nat × Cmd) := (exchCmds s n).filter fun e => e.2.state = .queued

/-- The EXCH whose directory a core runs from: that of the lowest-numbered layer (R228). -/
def leader (s : State) (cmds : List (Nat × Cmd)) (c : Nat) : Option Cmd :=
  (leastBy (fun e : Nat × Cmd => match e.2.task with
    | some t => (match getTask s t with
      | some k => k.layer
      | none => 0)
    | none => 0) (cmds.filter fun e => e.2.core = c)).map fun e => e.2

/-- The result of an EXCH: the combined vote and the fault bit (R372). -/
def exchResult (v : Nat) (fault : Bool) : Nat := v % 8 + (if fault then 2 ^ 63 else 0)

/-- Whether a die's topology generation is no longer the one the launch noted (R372). -/
def topoChanged (s : State) (l : LaunchSt) (c : Nat) : Bool :=
  match tget l.topo (dieKey c) with
  | some g => g ≠ (getDie s (dieKey c)).topo
  | none => false

/-- The combined vote that a released EXCH answers with. -/
def Cmd.combined (m : Cmd) : Nat := match m.phase with
  | some p => p.vote
  | none => 0

/-- An EXCH completed with its result (R228, R372). -/
def exchEnd (s : State) (id : Nat) (m : Cmd) (fault : Bool) : State :=
  setCmd s id { m with state := .releasing 3, sel := exchResult m.combined fault }

/-- A core's EXCHs of a phase run: its engine starts at the timetable that the phase selects, which is over at once where the
directory's word is faulty (R228, R232, R371). -/
def startTable (launch : Nat) (l : LaunchSt) (trel : Nat) (cmds : List (Nat × Cmd)) (s : State) (c : Nat) : State :=
  let mine := cmds.filter fun e => e.2.core = c
  let s := mine.foldl (fun s e => setCmd s e.1 { e.2 with state := .running }) s
  let table := match leader s cmds c with
    | some m => (match m.kind, m.phase with
      | .exch dir _, some p => tableAt s c dir p.vote p.map
      | _, _ => none)
    | none => none
  match table with
  | some base => { s with engines := s.engines ++
      [{ core := c, site := physSite s c, launch, trel, tag := sideTag launch l.phase, base }] }
  | none => exchMark (exchFault s 0x04 launch c 0) launch c fun p => { p with endAt := some trel }

/-- At Trel every core with an arrival starts its timetable; on a die whose topology has changed it runs none, its EXCHs
complete, and its engine logs that (R228 to R231, R372). -/
def startPhase (s : State) (launch : Nat) (l : LaunchSt) : State :=
  match l.trel with
  | none => s
  | some trel =>
    if s.now < trel then s
    else
      let cmds := releasedIn s launch
      let s := { s with launches := tset s.launches launch { l with trel := none } }
      (cmds.map fun e => e.2.core).eraseDups.foldl (fun s c =>
        if topoChanged s l c then
          (cmds.filter fun e => e.2.core = c).foldl (fun s e => exchEnd s e.1 e.2 true) (errPost s 0x06 c l.r.asid 0 launch)
        else startTable launch l trel cmds s c) s

/-- What the timetable engines do in the present router cycle: the phases whose Trel has come start, the entries that are
due are reached, and their flits move (R228, R230). -/
def runCycle (s : State) : State :=
  let s := s.launches.foldl (fun s e => startPhase s e.1 e.2) s
  let s := reachAll s
  stopEngines (dropFlits ((movesNow s).foldl XMove.perform s))

/-- Whether an exchange phase runs or waits for its Trel. -/
def exchanging (s : State) : Bool :=
  !s.engines.isEmpty || !s.wires.isEmpty || s.launches.any fun e => e.2.trel.isSome

/-- Router cycles that pass one by one, each with what the timetable engines do in it. -/
def runCycles (s : State) : Nat → State
  | 0 => s
  | n + 1 => runCycles (runCycle { s with now := s.now + 1 }) n

/-- Router cycles that pass for the timetable engines, all at once where none has anything to do. -/
def passCycles (s : State) (n : Nat) : State :=
  if exchanging s then runCycles s n else { s with now := s.now + n }

/-- TIMETABLE_START: the phase of a launch whose Trel has come starts, as the passing of router cycles starts it (R228; log
20). -/
def execTimetableStart (launch : Nat) (s : State) : Host.Outcome State Fault Refusal :=
  .next (match tget s.launches launch with
    | some l => startPhase s launch l
    | none => s)

/-- Whether the timetable of a running EXCH has ended. -/
def Cmd.ended (s : State) (m : Cmd) : Bool := match m.phase with
  | some p => p.endAt.any fun e => e ≤ s.now
  | none => true

/-- The EXCHs of a core that run. -/
def exchRunning (s : State) (core : Nat) : List (Nat × Cmd) :=
  s.cmds.filter fun e => e.2.kind.isExch && e.2.core = core && e.2.state = .running

/-- TIMETABLE_END: the timetable of a core has ended, and every EXCH that it ran for completes (R228). -/
def execTimetableEnd (core : Nat) (s : State) : Host.Outcome State Fault Refusal :=
  .next ((exchRunning s core).foldl (fun s e =>
    if e.2.ended s then exchEnd s e.1 e.2 (match e.2.phase with
      | some p => p.fault
      | none => false) else s) s)

end Sys2Proof.Machine
end

