-- ==== Sys2Proof/Machine/Matrix.lean ====
section
/-!
DEFINITION. Class C: the matrix unit, its queues, the ring, and the command front (R120, R235 to R256, R373, R376).
-/
set_option Elab.async false
namespace Sys2Proof

/-- Bytes of an operand element (R238). -/
def MTy.esize : MTy → Nat
  | .bf16 => 2
  | .f16 => 2
  | .e8m12 => 4
  | .q8 => 1
  | .i8 => 1
  | .n8 => 1

/-- Bytes of a drained element (R244). -/
def DFmt.esize : DFmt → Nat
  | .bf16 => 2
  | .f32 => 4
  | .i32 => 4
  | .f40 => 8

end Sys2Proof

namespace Sys2Proof.Machine

/-! ### Operand tiles (R238, R239) -/

/-- An element's operand value, and whether it is special (R238). -/
def operand (t : MTy) (tab : DecTable) (b : Nat) : BitVec 21 × Bool :=
  let flt (v : FVal) : BitVec 21 × Bool :=
    match v with
    | .nan _ => (0, true)
    | .inf _ => (0, true)
    | .fin n m e => (BitVec.ofNat 21 (fmtE8M12.pack .rne (.val (.fin n m e))).1, false)
  match t with
  | .bf16 => flt (fmtBF16.decode b)
  | .f16 => flt (fmtF16.decode b)
  | .e8m12 => flt (fmtE8M12.decode b)
  | .q8 => flt (tab.value b)
  | .i8 => (BitVec.ofInt 21 (toSigned 8 b), false)
  | .n8 => (BitVec.ofNat 21 b, false)

/-- The 16 elements of a row of bytes. -/
def rowOf16 (t : MTy) (tab : DecTable) (bs : List Byte) : List (BitVec 21 × Bool) :=
  (below 16).map fun k => operand t tab (natOf ((bs.drop (k * MTy.esize t)).take (MTy.esize t)))

/-- The lines, rows or columns, that hold a special element. -/
def flagsOf (ls : List (List (BitVec 21 × Bool))) : BitVec 16 :=
  (ls.zip (below 16)).foldl (fun f l => if l.1.any fun e => e.2 then f ||| ((1 : BitVec 16) <<< l.2) else f) 0

/-- An A latch from 16 rows: row flags (R239). -/
def latchA (t : MTy) (tab : DecTable) (int : Bool) (rows : List (List Byte)) : MLatch :=
  let rs := rows.map fun r => rowOf16 t tab r
  { vals := rs.flatten.map fun e => e.1, int, flags := flagsOf rs }

/-- A B latch from 16 rows: column flags (R239). -/
def latchB (t : MTy) (tab : DecTable) (int : Bool) (rows : List (List Byte)) : MLatch :=
  let rs := rows.map fun r => rowOf16 t tab r
  let cols := (below 16).map fun j => rs.map fun r => r.getD j (0, false)
  { vals := rs.flatten.map fun e => e.1, int, flags := flagsOf cols }

/-- Bytes of local memory as the matrix unit reads them: a poisoned byte has no stated value (log 21). -/
def unitRead (s : State) (c off n : Nat) : List Byte :=
  let k := getCore s c
  (upFrom off n).map fun a => if k.lpoison.contains (a / 4) then Config.poisonByte s.seq a else rd k.lmem a

def unitRows (s : State) (c off pitch e : Nat) : List (List Byte) :=
  (below 16).map fun i => unitRead s c (off + i * pitch) (16 * e)

/-! ### The step (R120, R240) -/

/-- An E8M12 value times 2^138. -/
def e8Int (b : Nat) : Int :=
  let e := b / 4096 % 256
  if e = 0 then 0 else signedM (bitN b 20) ((4096 + b % 4096) * 2 ^ (e - 1))

/-- A finite F40 value times 2^276. -/
def f40Int (b : Nat) : Int :=
  let e := b / 2 ^ 31 % 256
  if e = 0 then 0 else signedM (bitN b 39) ((2 ^ 31 + b % 2 ^ 31) * 2 ^ (e + 118))

/-- Whether a raw F40 value is an infinity. -/
def f40Inf (b : Nat) : Bool := b / 2 ^ 31 % 256 = 255

/-- z / 2^276 rounded to F40; a zero is +0 (R115). -/
def f40Of (z : Int) : Nat :=
  if z = 0 then 0
  else
    let r := (fmtF40.round .rne ⟨z < 0, z.natAbs, -276, false⟩).1
    if r % 2 ^ 39 = 0 then 0 else r

def mval (l : MLatch) (i k : Nat) : BitVec 21 := l.vals.getD (16 * i + k) 0

/-- The exact sum of one element's sixteen products, scaled by 2^276 in float mode. -/
def dotAt (int : Bool) (a b : MLatch) (i j : Nat) : Int :=
  (below 16).foldl (fun z k =>
    let x := mval a i k
    let y := mval b k j
    z + (if int then x.toInt * y.toInt else e8Int x.toNat * e8Int y.toNat)) 0

/-- One element after a step, and whether it became infinite or saturated (R240). -/
def stepElem (int : Bool) (v : BitVec 40) (d : Int) : BitVec 40 × Bool :=
  if int then
    let z := v.toInt + d
    let y := max (-(2 ^ 39 : Int)) (min z (2 ^ 39 - 1))
    (BitVec.ofInt 40 y, z ≠ y)
  else if f40Inf v.toNat then (v, true)
  else
    let r := f40Of (f40Int v.toNat + d)
    (BitVec.ofNat 40 r, f40Inf r)

/-- One 16 × 16 × 16 step into a tile; int: the mode of the requester's context (R240). -/
def matStep (int : Bool) (a b : MLatch) (t : Acc) : Acc :=
  if int ≠ t.int || a.int ≠ t.int || b.int ≠ t.int then { t with mm := true }
  else
    let es := (below 256).map fun n => stepElem t.int (t.vals.getD n 0) (dotAt t.int a b (n / 16) (n % 16))
    let hit := es.any fun e => e.2
    { t with
      vals := es.map fun e => e.1
      inf := t.inf || (!t.int && hit)
      sat := t.sat || (t.int && hit)
      taint := if b.flags ≠ 0 then 0xFFFF else t.taint ||| a.flags }

/-- MZERO (R248). -/
def zeroAcc (int : Bool) : Acc := { int }

/-! ### Drain (R244) -/

def nanRow : DFmt → Nat
  | .bf16 => 0x7FC0
  | .f32 => 0x7FC00000
  | .i32 => 0x80000000
  | .f40 => 0x7FC0000000

/-- One drained element (R244). -/
def drainElem (f : DFmt) (rm : Rnd) (int : Bool) (v : BitVec 40) : Nat :=
  let x : FVal := if int then ofIntV v.toInt else
    (match fmtF40.decode v.toNat with
     | .fin n m e => .fin (m ≠ 0 && n) m e
     | w => w)
  match f with
  | .bf16 => (fmtBF16.pack rm (.val x)).1
  | .f32 => (fmtF32.pack rm (.val x)).1
  | .i32 => ofInt 32 (toIntSat rm (-(2 ^ 31)) (2 ^ 31 - 1) x).1
  | .f40 => if int then ofInt 64 v.toInt else v.toNat

def drainRow (f : DFmt) (rm : Rnd) (t : Acc) (i : Nat) : List Byte :=
  ((below 16).map fun j =>
    bytesOf (DFmt.esize f) (if t.taint.getLsbD i then nanRow f else drainElem f rm t.int (t.vals.getD (16 * i + j) 0))).flatten

/-- The tile after a drain (R244). -/
def drained (z : Bool) (t : Acc) : Acc :=
  let t := { t with nan := t.nan || t.taint ≠ 0 }
  if z then { t with vals := [], taint := 0 } else t

/-! ### The unit-wide items and their ASIDs (R236) -/

def MUnit.touchB (u : MUnit) (asid : Nat) : MUnit :=
  if u.latBAsid = some asid then u else { u with latB := {}, latBAsid := some asid }

/-- The ring and B-next, which only the ring fills and empties. -/
def MUnit.touchRing (u : MUnit) (asid : Nat) : MUnit :=
  if u.ringAsid = some asid then u
  else { u with succ := none, pred := none, credit := true, bnext := none, ringAsid := some asid }

/-- A guest tile as an agent of an ASID finds it. -/
def MUnit.touchAg (u : MUnit) (t asid : Nat) : MUnit :=
  if t = 2 then (if u.ag0Asid = some asid then u else { u with ag0 := {}, ag0Asid := some asid })
  else (if u.ag1Asid = some asid then u else { u with ag1 := {}, ag1Asid := some asid })

def modUnit (s : State) (cl : Nat) (f : MUnit → MUnit) : State := modCluster s cl fun k => { k with unit := f k.unit }
def getUnit (s : State) (cl : Nat) : MUnit := (getCluster s cl).unit

/-- The tile that an accumulator number names for a core: a0, a1, ag0, ag1 (R235). -/
def getAcc (s : State) (c t : Nat) : Acc :=
  match t with
  | 0 => (getCore s c).a0
  | 1 => (getCore s c).a1
  | 2 => (getUnit s (clusterOf s c)).ag0
  | _ => (getUnit s (clusterOf s c)).ag1

def setAcc (s : State) (c t : Nat) (v : Acc) : State :=
  match t with
  | 0 => modCore s c fun k => { k with a0 := v }
  | 1 => modCore s c fun k => { k with a1 := v }
  | 2 => modUnit s (clusterOf s c) fun u => { u with ag0 := v }
  | _ => modUnit s (clusterOf s c) fun u => { u with ag1 := v }

/-- Before an entry of an ASID reads or writes a tile (R236). -/
def reachAcc (s : State) (c t asid : Nat) : State :=
  if t < 2 then s else modUnit s (clusterOf s c) fun u => u.touchAg t asid

/-! ### Issue (R237, R239, R242, R245 to R251) -/

/-- An entry at the tail of the issuing core's queue. -/
def enqueueEntry (s : State) (e : MEntry) : State := modCore s s.core fun k => { k with mq := k.mq ++ [e] }

/-- An entry that is no operation. -/
def plainEntry (s : State) (id : Nat) (k : MKind) : State :=
  match curSlot s with
  | none => s
  | some sl => enqueueEntry s { id, kind := k, task := some sl.task, asid := curAsid s }

/-- An entry that performs a direct operation. -/
def opEntry (s : State) (id : Nat) (o : Ord) (spans : List (Nat × Nat)) (k : MKind) : State :=
  match curSlot s with
  | none => s
  | some sl =>
    enqueueEntry (pushOp s id o spans (.matrix id)) { id, kind := k, task := some sl.task, op := some id, asid := curAsid s }

/-- The types that the context will hold when an entry issued now is served (R239). -/
def fmtAhead (k : CoreSt) : MTy × MTy :=
  k.mq.foldl (fun f e => match e.kind with
    | .mfmt a b => (a, b)
    | _ => f) (k.fmtA, k.fmtB)

/-- The checks of R239 on a tile of 16 rows, with the kind of access (R334). -/
def tileTrap (ea : Word) (pitch e : Nat) (k : Acc4) : Option Trap :=
  if ea.toNat % e ≠ 0 || pitch % e ≠ 0 then some { cause := .align, detail := k.code, addr := ea }
  else if fld ea 63 56 ≠ 0 then some { cause := .address, detail := k.code, addr := ea }
  else if (below 16).any fun i => !(winBase ≤ ea.toNat + i * pitch && ea.toNat + i * pitch + 16 * e ≤ winBase + 65536) then
    some { cause := .window, detail := k.code, addr := ea }
  else none

def tilePitch (x : Word) (e : Nat) : Nat := if x = 0 then 16 * e else x.toNat

/-- A tile access at issue. (Log 50.) -/
def tileEff (s : State) (id : Nat) (o : Ord) (a b : XReg) (off : BitVec 32) (e : Nat) (k : Acc4)
    (kind : Nat → Nat → MKind) : Eff :=
  match curSlot s with
  | none => .ok s
  | some sl =>
    let ea := eaOf (sl.x a.val) off
    let pitch := tilePitch (sl.x b.val) e
    match tileTrap ea pitch e k with
    | some t => .trap t
    | none =>
      .ok (opEntry s id o ((below 16).map fun i => (ea.toNat + i * pitch, 16 * e)) (kind (ea.toNat - winBase) pitch))

/-- MFMT (R246). -/
def execMfmt (h : Hdr) (ta tb : MTy) (s : State) : Host.Outcome State Fault Refusal :=
  issue (.mfmt h ta tb) h s fun id s => .ok (plainEntry s id (.mfmt ta tb))

/-- The address of the lowest poisoned byte of an MTBL source in global memory (R256). -/
def mtblPoison (s : State) (c : Nat) (mask : Option Word) (ls : List Loc) : Option Nat :=
  poisonIn (fun l n => match l with
    | .loc _ _ => false
    | .glob _ _ => (coreRead s c false l n mask).2.2) (withLens 64 ls)

/-- MTBL: a context table from memory, or the core's own table as it stands (R247). -/
def execMtbl (h : Hdr) (o : Ord) (src : MtblSrc) (tblB : Bool) (a : XReg) (off : BitVec 32) (s : State) :
    Host.Outcome State Fault Refusal :=
  issue (.mtbl h o src tblB a off) h s fun id s =>
    match src with
    | .ta => .ok (plainEntry s id (.mtblCopy (getCore s s.core).tblA tblB))
    | .tb => .ok (plainEntry s id (.mtblCopy (getCore s s.core).tblB tblB))
    | .mem =>
      match curSlot s with
      | none => .ok s
      | some sl =>
        let ea := eaOf (sl.x a.val) off
        match reachBlocks s ea 16 with
        | .error e => .fail e
        | .ok (s, ls) =>
          match (atIssue s o [(ea.toNat, 1024)]).bind fun u => mtblPoison u s.core none ls with
          | some a => .trap { cause := .poison, addr := BitVec.ofNat 64 a }
          | none => .ok (opEntry s id o [(ea.toNat, 1024)] (.mtbl ls tblB))

/-- MRING: the slot issues nothing until the unit has served it (R242). -/
def execMring (h : Hdr) (a b : XReg) (s : State) : Host.Outcome State Fault Refusal :=
  issue (.mring h a b) h s fun id s =>
    match curSlot s with
    | none => .ok s
    | some sl =>
      let c1 := fld (sl.x a.val) 17 0
      let c2 := fld (sl.x b.val) 17 0
      if 40 ≤ dieOf c1 || !coreOk s c1 then .trap { cause := .address, addr := BitVec.ofNat 64 c1 }
      else if 40 ≤ dieOf c2 || !coreOk s c2 then .trap { cause := .address, addr := BitVec.ofNat 64 c2 }
      else .ok (setHold (plainEntry s id (.mring (clusterOf s c1) (clusterOf s c2))) s.core s.slot (.op id))

/-- MLDA (R239). -/
def execMlda (h : Hdr) (o : Ord) (a b : XReg) (off : BitVec 32) (s : State) : Host.Outcome State Fault Refusal :=
  issue (.mlda h o a b off) h s fun id s =>
    tileEff s id o a b off (MTy.esize (fmtAhead (getCore s s.core)).1) .read fun x p => .mlda s.core x p

/-- MLDB (R239). -/
def execMldb (h : Hdr) (o : Ord) (a b : XReg) (off : BitVec 32) (s : State) : Host.Outcome State Fault Refusal :=
  issue (.mldb h o a b off) h s fun id s =>
    tileEff s id o a b off (MTy.esize (fmtAhead (getCore s s.core)).2) .read fun x p => .mldb s.core x p

/-- MMA (R240). -/
def execMma (h : Hdr) (t : AccReg) (s : State) : Host.Outcome State Fault Refusal :=
  issue (.mma h t) h s fun id s => .ok (plainEntry s id (.mma t.val))

/-- MMAS: a step under the skip register (R240). -/
def execMmas (h : Hdr) (t : AccReg) (s : State) : Host.Outcome State Fault Refusal :=
  issue (.mmas h t) h s fun id s => .ok (plainEntry s id (.mmas t.val))

/-- MSKIP (R249). -/
def execMskip (h : Hdr) (a : XReg) (s : State) : Host.Outcome State Fault Refusal :=
  issue (.mskip h a) h s fun id s =>
    match curSlot s with
    | none => .ok s
    | some sl =>
      let x := (sl.x a.val).toNat
      if !inWin x then .trap { cause := .window, addr := sl.x a.val } else .ok (plainEntry s id (.mskip (x - winBase)))

/-- MSKIP.off (R249). -/
def execMskipOff (h : Hdr) (s : State) : Host.Outcome State Fault Refusal :=
  issue (.mskipOff h) h s fun id s => .ok (plainEntry s id .mskipOff)

/-- MROT (R243). -/
def execMrot (h : Hdr) (s : State) : Host.Outcome State Fault Refusal :=
  issue (.mrot h) h s fun id s => .ok (plainEntry s id .mrot)

/-- MZERO (R248). -/
def execMzero (h : Hdr) (t : AccReg) (s : State) : Host.Outcome State Fault Refusal :=
  issue (.mzero h t) h s fun id s => .ok (plainEntry s id (.mzero t.val))

/-- MDRAIN (R244). -/
def execMdrain (h : Hdr) (o : Ord) (f : DFmt) (rm : Rnd) (z : Bool) (t : AccReg) (a b : XReg) (off : BitVec 32) (s : State) :
    Host.Outcome State Fault Refusal :=
  issue (.mdrain h o f rm z t a b off) h s fun id s =>
    tileEff s id o a b off (DFmt.esize f) .write fun x p => .mdrain f rm z t.val s.core x p

/-- MCMD: a command for a unit's front (R253). -/
def execMcmd (h : Hdr) (o : Ord) (a : XReg) (off : BitVec 32) (s : State) : Host.Outcome State Fault Refusal :=
  issue (.mcmd h o a off) h s fun id s =>
    match curSlot s with
    | none => .ok s
    | some sl =>
      let ea := eaOf (sl.x a.val) off
      if ea.toNat % 64 ≠ 0 then .trap { cause := .align, addr := ea }
      else if fld ea 63 56 ≠ 0 then .trap { cause := .address, addr := ea }
      else .ok (issueCmd s id o 113 (.mcmd ea.toNat))

/-- An entry that will write an x register. -/
def regEntry (s : State) (id : Nat) (d : XReg) (k : Nat → MKind) : Eff :=
  match curSlot s with
  | none => .ok s
  | some sl => .ok (plainEntry s id (k (sl.px d.val)))

/-- MCAP: a capability minted (R252). -/
def execMcap (h : Hdr) (d : XReg) (rights : BitVec 2) (s : State) : Host.Outcome State Fault Refusal :=
  issue (.mcap h d rights) h s fun id s => regEntry s id d fun x => .mcap rights.toNat x

/-- MCAP.rev: every capability minted earlier revoked (R252). -/
def execMcapRev (h : Hdr) (d : XReg) (s : State) : Host.Outcome State Fault Refusal :=
  issue (.mcapRev h d) h s fun id s => regEntry s id d fun x => .mcapRev x

/-- MSTAT: the tile view (R250). -/
def execMstat (h : Hdr) (d : XReg) (t : AccReg) (s : State) : Host.Outcome State Fault Refusal :=
  issue (.mstat h d t) h s fun id s => regEntry s id d fun x => .mstat t.val x

/-- MSTAT.u: the unit view (R250). -/
def execMstatU (h : Hdr) (d : XReg) (s : State) : Host.Outcome State Fault Refusal :=
  issue (.mstatU h d) h s fun id s => regEntry s id d fun x => .mstatU x

/-! ### Status and capabilities (R250, R252) -/

def accWord (t : Acc) : Word :=
  put t.taint.toNat 48 ||| put (boolN t.int) 7 ||| put (boolN t.mm) 4 ||| put (boolN t.nan) 3 ||| put (boolN t.inf) 2 |||
  put (boolN t.sat) 1

/-- The unit view; behind: the core's entries that wait behind the MSTAT. -/
def unitWord (k : CoreSt) (u : MUnit) (behind : Nat) : Word :=
  put k.skPtr.toNat 48 ||| put k.skLeft.toNat 40 ||| put (boolN k.skZero) 39 ||| put (boolN k.skOn) 38 |||
  put (boolN u.bnext.isSome) 37 ||| put (boolN u.credit) 36 ||| put (boolN u.lease.isSome) 35 ||| put behind 31

/-- The logical cluster index of a core (R17). -/
def clusterIndex (c : Nat) : Nat := 32 * (rowOf c / 2) + colOf c / 2

/-- The physical cluster of a logical one (R19). -/
def unitOf (s : State) (die idx : Nat) : Option Nat :=
  if 40 ≤ die || 1000 ≤ idx then none
  else match tget (getDie s die).clusterMap idx with
    | some m => some (1024 * die + m.toNat % 1024)
    | none => some (1024 * die + idx)

/-- The name of the secret key that a unit holds: no device reset and no draw after it gives a key again (R236). -/
def MUnit.secret (s : State) (u : MUnit) : Nat := 2 ^ 64 * s.resets + u.draw

/-- A capability for a unit's logical cluster (R252). -/
def capWord (secret cl die idx asid gen rights : Nat) : Word :=
  put die 58 ||| put idx 48 ||| put asid 38 ||| put gen 32 ||| (Config.check cl secret die idx asid gen rights).setWidth 64

/-! ### Service of a core's entries (R237 to R250) -/

/-- The entry at the head of a core's queue, when it may be served now: an operation waits for those ordered before it
(R159). -/
def headReady (s : State) (c : Nat) : Option MEntry :=
  match (getCore s c).mq with
  | [] => none
  | e :: _ =>
    match e.op, e.task with
    | some id, some t => (match (opsOf s t).find? fun o => o.id = id with
      | some o => if depsGone s t o.deps then some e else none
      | none => some e)
    | _, _ => some e

def dropEntry (s : State) (c : Nat) (e : MEntry) : State :=
  modCore s c fun k => { k with mq := k.mq.filter fun q => q.id ≠ e.id }

/-- An entry served: it leaves its queue, and its results reach its task. -/
def entryDone (s : State) (c : Nat) (e : MEntry) (ps : List Put) : State :=
  let s := dropEntry s c e
  match e.task with
  | some t => deliver s t e.id ps
  | none => s

/-- The skip register consulted: the core after it, and whether the step is skipped (R240, R241). -/
def skipStep (s : State) (c : Nat) : State × Bool :=
  let k := getCore s c
  if !k.skOn then (s, false)
  else
    let k := if k.skLeft = 0 then
        let b := natOf (unitRead s c k.skPtr.toNat 1)
        { k with skPtr := k.skPtr + 1, skLeft := BitVec.ofNat 8 (b % 128 + 1), skZero := bitN b 7 }
      else k
    (setCore (bump s) c { k with skLeft := k.skLeft - 1 }, k.skZero)

/-- A step of a core into a tile. -/
def coreStep (s : State) (c t asid : Nat) : State :=
  let s := modUnit (reachAcc s c t asid) (clusterOf s c) fun u => u.touchB asid
  let k := getCore s c
  setAcc s c t (matStep k.mint k.latA (getUnit s (clusterOf s c)).latB (getAcc s c t))

/-- A decode table from the bytes of its image (R117). -/
def tableOfBytes (bs : List Byte) : DecTable :=
  .img ((below 256).map fun i => BitVec.ofNat 32 (natOf ((bs.drop (4 * i)).take 4)))

def setMTable (s : State) (c : Nat) (tblB : Bool) (t : DecTable) : State :=
  modCore s c fun k => if tblB then { k with mTB := t } else { k with mTA := t }

/-- The rows of a drain written to local memory, in ascending order. -/
def drainLocal (s : State) (f : DFmt) (rm : Rnd) (t : Acc) (core off pitch : Nat) : State :=
  (below 16).foldl (fun s i => lmWrite s core (off + i * pitch) (drainRow f rm t i)) s

/-- The bytes of an MTBL source under a way mask: a poisoned local byte as the unit reads it. -/
def mtblBytes (s : State) (c : Nat) (mask : Option Word) : List Loc → State × List Byte
  | [] => (s, [])
  | .loc k off :: ls =>
    let r := mtblBytes (bump s) c mask ls
    (r.1, unitRead s k off 64 ++ r.2)
  | .glob a g :: ls =>
    let q := coreRead s c false (.glob a g) 64 mask
    let r := mtblBytes q.1 c mask ls
    (r.1, q.2.1 ++ r.2)

/-- MTBL served: its acquire judged as TBLLD's is, the table replaced once all its words have been read. Poison in a global
source is a trap of the MTBL, and the entry leaves its queue without effect (R171, R256). DESIGN CHOICE: where its slot cannot
go back to it, the poison leaves the table untouched, as R247 says of a fault (log 50). -/
def serveMtbl (s : State) (c : Nat) (e : MEntry) (src : List Loc) (tblB : Bool) : State :=
  let m : Option (Nat × MemOp) := match e.task, e.op with
    | some t, some id => ((opsOf s t).find? fun o => o.id = id).map fun m => (t, m)
    | _, _ => none
  let u := match m with
    | some (_, m) => beforeAcquire s c m
    | none => s
  let mask := (m.map fun m => m.2.mask).getD none
  let r := mtblBytes u c mask src
  let s := match m with
    | some (t, m) => judgeAcquire r.1 c t m (((withLens 64 src).map fun l => tagsRead r.1 c true l.1 l.2).flatten)
    | none => r.1
  let past := match m with
    | some (t, m) => opPast u t m.id
    | none => false
  match m, (if past then none else mtblPoison u c mask src) with
  | _, none => entryDone (setMTable s c tblB (tableOfBytes r.2)) c e []
  | none, some _ => entryDone s c e []
  | some (t, m), some a => match poisonPerformed u t m .read a with
    | some v => dropEntry v c e
    | none => entryDone s c e []

/-- MROT as far as it can go: the tile sent once the credit is there, then B-next moved into B (R243). -/
def serveMrot (s : State) (c : Nat) (e : MEntry) : State :=
  let cl := clusterOf s c
  let s := modUnit s cl fun u => (u.touchB e.asid).touchRing e.asid
  let u := getUnit s cl
  let mark (s : State) (e : MEntry) : State := modCore s c fun k => { k with mq := k.mq.map fun q => if q.id = e.id then e else q }
  if !e.started then
    if !u.credit then mark s { e with begun := true }
    else
      let tile : RingTile := { dst := u.succ.getD cl, src := cl, asid := e.asid, tile := u.latB }
      let s := modUnit s cl fun u => { u with credit := false }
      mark { bump s with tiles := tset s.tiles s.seq tile } { e with begun := true, started := true, t0 := s.now }
  else match u.bnext with
    | none => s
    | some b =>
      let s := modUnit s cl fun u => { u with latB := b, bnext := none }
      entryDone { bump s with credits := tset s.credits s.seq (u.pred.getD cl) } c e []

/-- One entry of a core served (R237). -/
def serveEntry (s : State) (c : Nat) (e : MEntry) : State :=
  let cl := clusterOf s c
  let k := getCore s c
  let done (s : State) : State := entryDone s c e []
  match e.kind with
  | .mfmt a b => done (modCore s c fun k => { k with fmtA := a, fmtB := b, mint := MTy.isInt a })
  | .mtbl src b => serveMtbl s c e src b
  | .mtblCopy t b => done (setMTable s c b t)
  | .mring p q =>
    done (modUnit s cl fun u => { u.touchRing e.asid with succ := some p, pred := some q, credit := true, bnext := none })
  | .mlda m off pitch =>
    let l := latchA k.fmtA k.mTA k.mint (unitRows s m off pitch (MTy.esize k.fmtA))
    done (modCore (bump s) c fun k => { k with latA := l })
  | .mldb m off pitch =>
    let l := latchB k.fmtB k.mTB k.mint (unitRows s m off pitch (MTy.esize k.fmtB))
    done (modUnit (bump s) cl fun u => { u.touchB e.asid with latB := l })
  | .mma t => done (coreStep s c t e.asid)
  | .mmas t => let r := skipStep s c; done (if r.2 then r.1 else coreStep r.1 c t e.asid)
  | .mskip p => done (modCore s c fun k => { k with skOn := true, skPtr := BitVec.ofNat 16 p, skLeft := 0 })
  | .mskipOff => done (modCore s c fun k => { k with skOn := false })
  | .mrot => serveMrot s c e
  | .mzero t => done (setAcc (reachAcc s c t e.asid) c t (zeroAcc k.mint))
  | .mdrain f rm z t m off pitch =>
    let s := reachAcc s c t e.asid
    let a := getAcc s c t
    done (setAcc (drainLocal s f rm a m off pitch) c t (drained z a))
  | .mcap rights dst =>
    let u := getUnit s cl
    entryDone s c e [putX dst (capWord (u.secret s) cl (dieOf c) (clusterIndex c) e.asid u.gen.toNat rights) none]
  | .mcapRev dst =>
    let s := modUnit s cl fun u => { u with gen := u.gen + 1 }
    entryDone s c e [putX dst (BitVec.ofNat 64 (getUnit s cl).gen.toNat) none]
  | .mstat t dst => let s := reachAcc s c t e.asid; entryDone s c e [putX dst (accWord (getAcc s c t)) none]
  | .mstatU dst =>
    let s := modUnit s cl fun u => u.touchRing e.asid
    entryDone s c e [putX dst (unitWord k (getUnit s cl) (k.mq.length - 1)) none]

/-! ### The command front (R253 to R255, R373) -/

/-- A command record (R253). -/
structure MRec where
  rnd : Rnd
  dfmt : DFmt
  tblb : Nat
  tbla : Nat
  fmtb : BitVec 4
  fmta : BitVec 4
  z : Bool
  last : Bool
  acc : Nat
  op : Nat
  rights : Nat
  nsteps : Nat
  dpitch : Nat
  bpitch : Nat
  apitch : Nat
  bstride : Int
  astride : Int
  dva : Nat
  bva : Nat
  ava : Nat
  cap : Word
  deriving DecidableEq, Repr

def MRec.ofBytes (bs : List Byte) : MRec :=
  let n := natOf (bs.take 64)
  { rnd := (Rnd.ofCode (BitVec.ofNat 2 (bitsN n 407 406))).getD .rne
    dfmt := (DFmt.ofCode (BitVec.ofNat 2 (bitsN n 405 404))).getD .bf16, tblb := bitsN n 403 402
    tbla := bitsN n 401 400, fmtb := BitVec.ofNat 4 (bitsN n 399 396), fmta := BitVec.ofNat 4 (bitsN n 395 392), z := bitN n 390, last := bitN n 389
    acc := bitsN n 388 388, op := bitsN n 387 386, rights := bitsN n 385 384, nsteps := bitsN n 383 368
    dpitch := bitsN n 367 352, bpitch := bitsN n 351 336, apitch := bitsN n 335 320
    bstride := toSigned 32 (bitsN n 319 288), astride := toSigned 32 (bitsN n 287 256), dva := bitsN n 247 192
    bva := bitsN n 183 128, ava := bitsN n 119 64, cap := BitVec.ofNat 64 (bitsN n 63 0) }

def MRec.die (r : MRec) : Nat := fld r.cap 63 58
def MRec.idx (r : MRec) : Nat := fld r.cap 57 48
def MRec.steps (r : MRec) : Nat := if r.op % 2 = 1 then r.nsteps + 1 else 0
def MRec.drains (r : MRec) : Bool := 2 ≤ r.op

/-- The rights that an operation needs (R252). -/
def MRec.needs (r : MRec) : Nat :=
  match r.op with
  | 0 => 1
  | 1 => 1
  | 2 => 2
  | _ => 3

/-- Whether every field lies in its range (R253, R254). -/
def MRec.ok (r : MRec) : Bool :=
  (match MTy.ofCode r.fmta, MTy.ofCode r.fmtb with
   | some a, some b => MTy.isInt a = MTy.isInt b
   | _, _ => false)
  && r.tbla < 2 && r.tblb < 2 && !inWin r.ava && !inWin r.bva && !inWin r.dva

/-- Why a front refuses a command, in the order of R373; 0 when it does not. -/
def frontReason (s : State) (cl : Nat) (m : Cmd) (r : MRec) : Nat :=
  let u := getUnit s cl
  let asid := fld r.cap 47 38
  if unitOf s r.die r.idx ≠ some cl then 1
  else if asid ≠ m.asid || !((coresAt s cl).any fun c => (getCore s c).owner = some asid) then 2
  else if fld r.cap 37 32 ≠ u.gen.toNat then 3
  else if fld r.cap 31 0 ≠ (Config.check cl (u.secret s) r.die r.idx asid u.gen.toNat r.rights).toNat then 4
  else if r.needs &&& r.rights ≠ r.needs then 5
  else if !r.ok then 6
  else 0

def recOfCmd (m : Cmd) : MRec := MRec.ofBytes (m.pat.getD [])

/-- The front's head checked: a refused command leaves the queue; one that passes takes the lease when none is held
(R254). (Log 38.) -/
def frontCheck (s : State) (cl : Nat) : Nat → State
  | 0 => s
  | n + 1 =>
    match (getUnit s cl).front with
    | [] => s
    | f :: fs =>
      match tget s.cmds f.cmd with
      | none => frontCheck (modUnit s cl fun u => { u with front := fs }) cl n
      | some m =>
        let why := if f.ok then 0 else frontReason s cl m (recOfCmd m)
        if why ≠ 0 then
          let s := errPost (modUnit s cl fun u => { u with front := fs }) 0x07 m.core m.asid 0 why
          frontCheck (cmdEnd s f.cmd 7 0 0) cl n
        else modUnit s cl fun u => { u with
          front := { f with ok := true } :: fs
          lease := u.lease <|> some (m.core, m.asid)
          leaseAt := if u.lease.isNone then s.now else u.leaseAt }

def frontLook (s : State) (cl : Nat) : State := frontCheck s cl ((getUnit s cl).front.length + 1)

/-- MCMD_KICK_ARRIVE: a command's record is read, and its kick reaches the unit that the capability names; a full front
queue makes it wait in the mesh (R253, R254, R345). -/
def execMcmdKickArrive (id : Nat) (s : State) : Host.Outcome State Fault Refusal :=
  match tget s.cmds id with
  | none => .next s
  | some m =>
    match m.kind with
    | .mcmd ea =>
      if m.state ≠ .issued || !cmdReady s m then .next s
      else
        (match (match m.pat with
          | some bs => Except.ok (s, some bs)
          | none => engRead s m.core m.asid ea 64) with
         | .error (.stop a) => .next (cmdEnd s id 6 0 a)
         | .error (.fault f) => .next (engFault s id m f)
         | .ok (s, none) => .next (cmdEnd s id 5 0 ea)
         | .ok (s, some bs) =>
           let m := { m with pat := some bs }
           let r := MRec.ofBytes bs
           match unitOf s r.die r.idx with
           | none => .next (cmdEnd (errPost (setCmd s id m) 0x07 m.core m.asid 0 1) id 7 0 0)
           | some cl =>
             if (getUnit s cl).failed then .next (cmdEnd (setCmd s id m) id 6 0 0)
             else if 16 ≤ (getUnit s cl).front.length then .next (setCmd s id m)
             else .next (frontLook (modUnit (setCmd s id { m with state := .queued }) cl fun u =>
               { u with front := u.front ++ [{ cmd := id }] }) cl))
    | _ => .next s

/-- The head command of the front, when it may be served now. -/
def frontReady (s : State) (cl : Nat) : Option (FrontCmd × Cmd) :=
  match (getUnit s cl).front with
  | [] => none
  | f :: _ =>
    match tget s.cmds f.cmd with
    | none => none
    | some m =>
      if f.ok && (getUnit s cl).lease = some (m.core, m.asid) && (m.state = .queued || m.state = .running) then some (f, m)
      else none

/-- The head command finished (R253, R254). -/
def frontDone (s : State) (cl id status offset addr : Nat) (last : Bool) : State :=
  let s := modUnit s cl fun u => { u with
    front := u.front.filter fun f => f.cmd ≠ id
    lease := if last then none else u.lease
    leaseAt := s.now }
  frontLook (cmdEnd s id status offset addr) cl

/-- Sixteen rows read from global memory: none when a byte is poisoned. -/
def frontRows (s : State) (asid base pitch e : Nat) : Except Halt (State × Option (List (List Byte))) :=
  (below 16).foldl (fun r i =>
    match r with
    | .error h => .error h
    | .ok (s, none) => .ok (s, none)
    | .ok (s, some rows) =>
      let a := (base + i * pitch) % 2 ^ 64
      if a % e ≠ 0 || 2 ^ 56 < a + 16 * e || (a < winBase + 65536 && winBase < a + 16 * e) then .error (.stop (a % 2 ^ 56))
      else match devRead s asid a (16 * e) with
        | .error f => .error (failHalt f)
        | .ok (s, bs, none) => .ok (s, some (rows ++ [bs]))
        | .ok (s, _, some _) => .ok (s, none)) (.ok (s, some []))

/-- Every row of a drain translated before any is written. -/
def frontReach (s : State) (asid base pitch e : Nat) : Except Halt State :=
  (below 16).foldl (fun r i =>
    match r with
    | .error h => .error h
    | .ok s =>
      let a := (base + i * pitch) % 2 ^ 64
      if a % e ≠ 0 || 2 ^ 56 < a + 16 * e || (a < winBase + 65536 && winBase < a + 16 * e) then .error (.stop (a % 2 ^ 56))
      else match reach s asid a (16 * e) .write true with
        | .error f => .error (failHalt f)
        | .ok (s, _) => .ok s) (.ok s)

def densePitch (p e : Nat) : Nat := if p = 0 then 16 * e else p

def shipped (n : Nat) : DecTable := if n = 0 then .q43 else .q52

/-- The address of tile q of an operand. -/
def tileAt (va : Nat) (stride : Int) (q : Nat) : Nat := ofInt 64 ((va : Int) + stride * q)

def getAg (s : State) (cl acc : Nat) : Acc := if acc = 0 then (getUnit s cl).ag0 else (getUnit s cl).ag1
def setAg (s : State) (cl acc : Nat) (v : Acc) : State :=
  modUnit s cl fun u => if acc = 0 then { u with ag0 := v } else { u with ag1 := v }

/-- A front command that cannot go on: it waits for a page, or ends. -/
def frontHalt (s : State) (cl id : Nat) (m : Cmd) (last : Bool) : Halt → State
  | .stop a => frontDone s cl id 6 0 a last
  | .fault f =>
    let s := engFault s id m f
    match tget s.cmds id with
    | some q => (match q.state with
      | .waiting _ => s
      | _ => frontLook (modUnit s cl fun u => { u with
          front := u.front.filter fun f => f.cmd ≠ id, lease := if last then none else u.lease, leaseAt := s.now }) cl)
    | none => s

/-- One service of the front: a zero, one step, or the drain (R255). DESIGN CHOICE: a turn of the round-robin covers one step or
the drain of the command at the head; R237 and R255 do not say how much of a command one service is (log 41). -/
def serveFront (s : State) (cl : Nat) (f : FrontCmd) (m : Cmd) : State :=
  let id := f.cmd
  let r := recOfCmd m
  let m := { m with state := .running }
  let s := setCmd s id m
  let s := modUnit s cl fun u => u.touchAg (2 + r.acc) m.asid
  match MTy.ofCode r.fmta, MTy.ofCode r.fmtb with
  | some ta, some tb =>
    let int := MTy.isInt ta
    if r.op = 0 then frontDone (setAg s cl r.acc (zeroAcc int)) cl id 3 0 0 r.last
    else if f.step < r.steps then
      match frontRows s m.asid (tileAt r.ava r.astride f.step) (densePitch r.apitch (MTy.esize ta)) (MTy.esize ta) with
      | .error h => frontHalt s cl id m r.last h
      | .ok (s, none) => frontDone s cl id 5 0 0 r.last
      | .ok (s, some ra) =>
        match frontRows s m.asid (tileAt r.bva r.bstride f.step) (densePitch r.bpitch (MTy.esize tb)) (MTy.esize tb) with
        | .error h => frontHalt s cl id m r.last h
        | .ok (s, none) => frontDone s cl id 5 0 0 r.last
        | .ok (s, some rb) =>
          let t := matStep int (latchA ta (shipped r.tbla) int ra) (latchB tb (shipped r.tblb) int rb) (getAg s cl r.acc)
          let s := modUnit (setAg s cl r.acc t) cl fun u => { u with
            front := u.front.map fun q => if q.cmd = id then { q with step := q.step + 1 } else q }
          if f.step + 1 = r.steps && !r.drains then frontDone s cl id 3 0 0 r.last else s
    else
      let e := DFmt.esize r.dfmt
      let p := densePitch r.dpitch e
      match frontReach s m.asid r.dva p e with
      | .error h => frontHalt s cl id m r.last h
      | .ok s =>
        let t := getAg s cl r.acc
        let s := (below 16).foldl (fun s i =>
          match devWrite s m.asid ((r.dva + i * p) % 2 ^ 64) (drainRow r.dfmt r.rnd t i) with
          | .ok s => s
          | .error _ => s) s
        frontDone (setAg s cl r.acc (drained r.z t)) cl id 3 (256 * e) 0 r.last
  | _, _ => s

/-! ### Unit order (R237) -/

/-- A rotation whose service has begun holds the unit until it is over. -/
def rotating (s : State) (cl : Nat) : Option (Nat × MEntry) :=
  (coresAt s cl).findSome? fun c => match (getCore s c).mq with
    | e :: _ => if e.begun then some (c, e) else none
    | [] => none

/-- The core whose queue is requester r of a unit: the one at that position of its physical cluster (R20, R237). -/
def requesterCore (s : State) (cl r : Nat) : Option Nat :=
  (coresAt s cl).find? fun c => let p := physSite s c; 2 * (rowOf p % 2) + colOf p % 2 = r

/-- Requester r of a unit, 0 to 3 the cores and 4 the front, served; none when it has nothing that can be served. -/
def serveRequester (s : State) (cl r : Nat) : Option State :=
  if r = 4 then (match frontReady s cl with
    | some (f, m) => some (serveFront s cl f m)
    | none => none)
  else match requesterCore s cl r with
    | none => none
    | some c => (match headReady s c with
      | some e => some (serveEntry s c e)
      | none => none)

/-- MATRIX_ENTRY_SERVICE: the unit serves the next requester, round-robin over the four queues and the front (R237). -/
def execMatrixEntryService (cluster : Nat) (s : State) : Host.Outcome State Fault Refusal :=
  let u := getUnit s cluster
  if u.failed then .next s
  else match rotating s cluster with
    | some (c, e) => .next (serveMrot s c e)
    | none =>
      let s := frontLook s cluster
      match [1, 2, 3, 4, 5].findSome? fun d =>
          (serveRequester s cluster ((u.rr + d) % 5)).map fun t => (t, (u.rr + d) % 5) with
      | some (t, r) => .next (modUnit t cluster fun u => { u with rr := r })
      | none => .next s

/-! ### The ring (R243, R370, R373) -/

/-- A coordinate in a physical cluster, for the error log. -/
def clusterCoord (s : State) (cl : Nat) : Nat := ((coresAt s cl).head?).getD (packCoord (cl / 1024) 0 0)

/-- The index of the logical cluster that a physical one carries, or, at a spare that carries none, of the coordinate that
sits there (R19, R367). -/
def logicalOf (s : State) (cl : Nat) : Nat :=
  ((below 1000).find? fun i => unitOf s (cl / 1024) i = some cl).getD (clusterIndex (clusterCoord s cl))

/-- A cluster coordinate (die, i, j) as the error log names it: 1024 times the die, and 32i + j (R17, R367). DESIGN CHOICE:
the spec gives no packing of a cluster coordinate (log 41). -/
def clusterName (s : State) (cl : Nat) : Nat := cl / 1024 * 1024 + logicalOf s cl

/-- RING_TILE_ARRIVE: a tile fills B-next of a unit that names its sender, in the ASID of the ring; another is dropped and
its sender's credit returned (R243, R370). (Log 41.) -/
def execRingTileArrive (id : Nat) (s : State) : Host.Outcome State Fault Refusal :=
  match tget s.tiles id with
  | none => .next s
  | some t =>
    let u := getUnit s t.dst
    let s := { s with tiles := tdel s.tiles id }
    if !u.failed && u.pred.getD t.dst = t.src && u.ringAsid = some t.asid && u.bnext.isNone then
      .next (modUnit s t.dst fun u => { u with bnext := some t.tile })
    else
      let s := errPost s 0x08 (clusterCoord s t.dst) t.asid 0 (clusterName s t.src)
      .next { bump s with credits := tset s.credits s.seq t.src }

/-- RING_CREDIT_RETURN: a send credit returns (R243). -/
def execRingCreditReturn (id : Nat) (s : State) : Host.Outcome State Fault Refusal :=
  match tget s.credits id with
  | none => .next s
  | some cl => .next (modUnit { s with credits := tdel s.credits id } cl fun u => { u with credit := true })

/-- MROT_TIMEOUT: a rotation that has waited 65,536 router cycles for B-next gives up (R373). (Log 41.) -/
def execMrotTimeout (cluster : Nat) (s : State) : Host.Outcome State Fault Refusal :=
  match rotating s cluster with
  | none => .next s
  | some (c, e) =>
    if !e.started || (getUnit s cluster).bnext.isSome || s.now < e.t0 + 65536 then .next s
    else
      let s := errPost s 0x08 (clusterCoord s cluster) e.asid 0 (clusterName s ((getUnit s cluster).pred.getD cluster))
      let s := modUnit s cluster fun u => { u with
        latB := { int := (getCore s c).mint, flags := 0xFFFF }, latBAsid := some e.asid, credit := true }
      .next (entryDone s c e [])

/-! ### Leases and failure (R254, R376) -/

/-- Whether the front holds a command of the lease's holder. -/
def holderActive (s : State) (u : MUnit) : Bool :=
  u.front.any fun f => match tget s.cmds f.cmd with
    | some m => u.lease = some (m.core, m.asid)
    | none => false

/-- LEASE_EXPIRE: 2^20 router cycles after the holder's last completion with no further command from it (R254). -/
def execLeaseExpire (cluster : Nat) (s : State) : Host.Outcome State Fault Refusal :=
  let u := getUnit s cluster
  if u.lease.isNone || holderActive s u || s.now < u.leaseAt + 2 ^ 20 then .next s
  else .next (frontLook (modUnit s cluster fun u => { u with lease := none }) cluster)

/-- An entry of a failed unit discarded: its operation is over, and a register that it would have written is poisoned
(log 22). -/
def discardEntry (s : State) (c : Nat) (e : MEntry) : State :=
  match e.kind with
  | .mcap _ d => entryDone s c e [putX d 0 (some 0)]
  | .mcapRev d => entryDone s c e [putX d 0 (some 0)]
  | .mstat _ d => entryDone s c e [putX d 0 (some 0)]
  | .mstatU d => entryDone s c e [putX d 0 (some 0)]
  | _ => entryDone s c e []

/-- MATRIX_UNIT_FAIL: FEAT loses mat and m8 on the cluster's cores, the queues are discarded, pending commands end FAULTED
(R376). -/
def execMatrixUnitFail (cluster : Nat) (s : State) : Host.Outcome State Fault Refusal :=
  let cs := coresAt s cluster
  let s := cs.foldl (fun s c => modCore s c fun k => { k with feat := k.feat &&& ~~~ (6 : BitVec 16) }) s
  let s := cs.foldl (fun s c => (getCore s c).mq.foldl (fun s e => discardEntry s c e) s) s
  let fs := (getUnit s cluster).front
  let s := modUnit s cluster fun u => { u with front := [], failed := true, lease := none }
  let s := fs.foldl (fun s f => cmdEnd s f.cmd 6 0 0) s
  .next (errPost s 0x0D (clusterCoord s cluster) 0 0 (logicalOf s cluster))

end Sys2Proof.Machine
end

