-- ==== Sys2Proof/Machine/Keyed.lean ====
section
/-!
DEFINITION. Class D: keyed stages, records, the Pod, its dispatcher, Husks (R257 to R285, R353, R354).
-/
set_option Elab.async false
namespace Sys2Proof.Machine

/-! ### Handles and routes (R259, R260, R281) -/

def handleSlot (h : Word) : Nat := fld h 39 38
def handleCol (h : Word) : Nat := fld h 37 31
def handleRow (h : Word) : Nat := fld h 30 24
def handleDie (h : Word) : Nat := fld h 23 18
def handleOrg (h : Word) : Nat := fld h 17 0

/-- Whether a handle's reserved bits are zero and its counts in range, which for a stage of control cores are one die and
one row (R257, R281). -/
def handleOk (h : Word) : Bool :=
  fld h 63 40 = 0 && 1 ≤ handleCol h && handleCol h ≤ 64 && 1 ≤ handleRow h && handleRow h ≤ 64 && 1 ≤ handleDie h
    && handleDie h ≤ 40 && (dieOf (handleOrg h) < 56 || (handleDie h = 1 && handleRow h = 1))

/-- Whether every coordinate of a handle's box names a core. -/
def handleBoxOk (s : State) (h : Word) : Bool :=
  let o := handleOrg h
  boxOk s (dieOf o) (rowOf o) (colOf o) (handleDie h) (handleRow h) (handleCol h)

def handleCores (h : Word) : List Nat :=
  let o := handleOrg h
  boxCores (dieOf o) (rowOf o) (colOf o) (handleDie h) (handleRow h) (handleCol h)

/-- The hash of a key (R260). -/
def keyHash (k : Nat) : Nat := ((k / 2 ^ 32 % 2 ^ 32) ^^^ (k % 2 ^ 32)) * 0x9E3779B1 % 2 ^ 32

/-- The member of a key, as a coordinate (R260, R281). -/
def memberOf (h : Word) (key : Nat) : Nat :=
  let w := handleDie h * handleRow h * handleCol h
  let m := keyHash key * w / 2 ^ 32
  let o := handleOrg h
  packCoord (dieOf o + m / (handleRow h * handleCol h)) (rowOf o + m / handleCol h % handleRow h)
    (colOf o + m % handleCol h)

/-- The buckets of a key at its member: its home bucket and the three after it (R260, R273). -/
def bucketsOf (b : StageSt) (key : Word) : List Nat :=
  ((upFrom (keyHash key.toNat % 2 ^ b.nblog) 4).map fun i => i % 2 ^ b.nblog).eraseDups

/-- The Husks of a key's buckets, buckets ascending and ways within each (R273, R275). -/
def husksOf (b : StageSt) (key : Word) : List Nat :=
  ((bucketsOf b key).map fun i => (below 4).map fun w => huskArea b + 1024 * i + 256 * w).flatten

/-! ### KSTAGE (R261 to R263) -/

/-- KSTAGE at issue (R261). -/
def execKstage (h : Hdr) (o : Ord) (d a : XReg) (off : BitVec 32) (s : State) : Host.Outcome State Fault Refusal :=
  issue (.kstage h o d a off) h s fun id s =>
    match curSlot s with
    | none => .ok s
    | some sl =>
      let ea := eaOf (sl.x a.val) off
      match reachBlocks s ea 3 with
      | .error e => .fail e
      | .ok (s, ls) =>
        match (atIssue s o [(ea.toNat, 192)]).bind fun u => poisonIn (fun l n => badRead u false l n) (withLens 64 ls) with
        | some a => .trap { cause := .poison, addr := BitVec.ofNat 64 a }
        | none => .ok (pushOp s id o [(ea.toNat, 192)] (.kstage ls (sl.px d.val)))

/-- KSTAGE performed: the stage bound on every member or on none; none while a change of owner has to wait (R236, R261). -/
def performKstage (s : State) (c t : Nat) (m : MemOp) (ls : List Loc) (dst : Nat) : Option State :=
  match getTask s t with
  | none => some s
  | some k =>
    let at_ := withLens 64 ls
    let r := readLocs s c false m.mask at_
    let d := StageDesc.ofBytes r.2.1
    let g := if d.group = 0 then k.group else d.group
    let (code, limit) := match tget s.launches k.launch with
      | some l => (l.r.code, l.r.limit)
      | none => (0, 0)
    let st := bindStatus r.1 k.asid d code limit g
    match (if opPast s t m.id then none else poisonIn (fun l n => (coreRead s c false l n m.mask).2.2) at_) with
    | some a => some (orPoison s t m .read (some a) fun bad => deliver r.1 t m.id [putX dst 0 bad])
    | none =>
      if st ≠ 0 then some (deliver r.1 t m.id [putX dst (0x8000000000000000 + BitVec.ofNat 64 st) none])
      else if !bindReady r.1 k.asid d then none
      else some (deliver (bindStage r.1 k.asid k.launch d g) t m.id [putX dst d.handle none])

/-- KSTAGE.u at issue (R263). -/
def execKstageU (h : Hdr) (o : Ord) (d b : XReg) (s : State) : Host.Outcome State Fault Refusal :=
  issue (.kstageU h o d b) h s fun id s =>
    match curSlot s with
    | none => .ok s
    | some sl => .ok (pushOp s id o [] (.kstageU (sl.x b.val) false (sl.px d.val)))

/-- Whether a member holds a record, a context or a Husk of a stage (R263, R271). -/
def memberHolds (k : CoreSt) (st : Nat) (b : StageSt) : Bool :=
  k.inbox.any (fun r => r.stage = st) || k.pod.any (fun p => p.2.stage = st) || !b.husks.isEmpty || !b.found.isEmpty

/-- The binding in a handle's slot of a core. -/
def bindingAt (s : State) (c : Nat) (h : Word) : Option StageSt := tget (getCore s c).stages (handleSlot h)

/-- Whether the binding that a handle names on some member is another ASID's (R263). -/
def foreignStage (s : State) (asid : Nat) (h : Word) : Bool :=
  (handleCores h).any fun c => match bindingAt s c h with
    | some b => b.handle = h && b.asid ≠ asid
    | none => false

/-- Why a closed stage is not unbound: 0 when it is (R263). -/
def unbindStatus (s : State) (h : Word) : Nat :=
  let cs := handleCores h
  if cs.any fun c => (match bindingAt s c h with
      | some b => b.handle = h && memberHolds (getCore s c) (handleSlot h) b
      | none => false) then 6
  else if cs.any fun c => (match bindingAt s c h with | some b => b.handle ≠ h | none => true) then 7
  else 0

/-- A stage closed on every member, or reopened (R263). -/
def setClosed (s : State) (h : Word) (v : Bool) : State :=
  (handleCores h).foldl (fun s c => modCore s c fun k => { k with
    stages := tmod k.stages (handleSlot h) fun b => if b.handle = h then { b with closed := v } else b }) s

/-- KSTAGE.u performed, in two steps: the stage is closed on every member; then it is reopened or its binding removed
(R263). (Log 33.) -/
def performKstageU (s : State) (t : Nat) (m : MemOp) (h : Word) (closed : Bool) (dst : Nat) : State :=
  let asid := taskAsid s t
  let fails (s : State) (st : Nat) : State := deliver s t m.id [putX dst (0x8000000000000000 + BitVec.ofNat 64 st) none]
  if !handleOk h || foreignStage s asid h then fails s 7
  else if !closed then modOp (setClosed s h true) t m.id fun m => { m with kind := .kstageU h true dst }
  else
    let st := unbindStatus s h
    if st ≠ 0 then fails (setClosed s h false) st else deliver (unbindStage s asid h) t m.id [putX dst 0 none]

/-! ### KSEND and KSENDT (R277, R281) -/

/-- KSEND and KSENDT at issue (R281). -/
def ksendEff (s : State) (id : Nat) (o : Ord) (pred : Option Nat) (a b : XReg) (off : BitVec 32) : Eff :=
  match curSlot s with
  | none => .ok s
  | some sl =>
    let ea := eaOf (sl.x a.val) off
    let h := sl.x b.val
    match checkEa ea 32 .read with
    | some t => .trap t
    | none =>
      if !handleOk h || !handleBoxOk s h then .trap { cause := .address, addr := h }
      else match reachRange s ea 32 32 .read false with
        | .error e => .fail e
        | .ok (s, ls) =>
          match (atIssue s o [(ea.toNat, 32)]).bind fun u => rangeBad (fun l n => badRead u false l n) ls 0 with
          | some j => .trap { cause := .poison, addr := ea + BitVec.ofNat 64 j }
          | none =>
            let deps := byteDeps s sl.task [(ea.toNat, 32)]
            let s := issueCmd s id o 114 (.ksend (ls.map fun l => l.1) h pred)
            .ok { s with cmds := tmod s.cmds id fun m => { m with deps := (m.deps ++ deps).eraseDups } }

/-- KSEND: the slot issues nothing further until the answer (R281). -/
def execKsend (h : Hdr) (o : Ord) (a b : XReg) (off : BitVec 32) (s : State) : Host.Outcome State Fault Refusal :=
  issue (.ksend h o a b off) h s fun id s =>
    match ksendEff s id o none a b off with
    | .ok s => .ok (setHold s s.core s.slot (.ksend id))
    | .trap t => .trap t
    | .fail f => .fail f

/-- KSENDT: it never waits, and its predicate is written when the answer arrives (R281). -/
def execKsendt (h : Hdr) (o : Ord) (d : PReg) (a b : XReg) (off : BitVec 32) (s : State) :
    Host.Outcome State Fault Refusal :=
  issue (.ksendt h o d a b off) h s fun id s => ksendEff s id o (some d.val) a b off

/-- The reservations of a member that have not lapsed (R268). -/
def liveResvd (s : State) (k : CoreSt) : List (Waiter × Nat) := k.resvd.filter fun r => s.now < r.2

/-- Inbox entries freed are reserved for the oldest waiters, whose continuations are queued (R268). -/
def reserveNext (s : State) (c : Nat) : Nat → State
  | 0 => s
  | n + 1 =>
    let k := getCore s c
    match k.waiters with
    | [] => s
    | w :: _ =>
      if 64 ≤ k.inbox.length + (liveResvd s k).length then s
      else
        let s := modCore s c fun k => { k with
          waiters := k.waiters.filter fun x => x ≠ w, resvd := k.resvd ++ [(w, s.now + 4096)] }
        reserveNext (wakeTask s w.task 0) c n

def reserveFree (s : State) (c : Nat) : State := reserveNext s c ((getCore s c).waiters.length + 1)

/-- A record at a member: accepted into the inbox, refused, or dropped (R34, R267, R268, R370). -/
def recordAt (s : State) (id t asid : Nat) (h : Word) (c : Nat) (bs : List Byte) : State × Answer :=
  let drop (code : Nat) : State × Answer := (errPost s code c asid 0 c, .dropped)
  if !coreOk s c then drop 2
  else if (getCore s c).owner.isNone then drop 3
  else match bindingAt s c h with
    | none => drop 2
    | some b =>
      if b.asid ≠ asid then drop 3
      else if b.handle ≠ h then drop 2
      else
        let k := getCore s c
        let live := liveResvd s k
        let mine := live.find? fun r => r.1.task = t
        if b.closed || (mine.isNone && 64 ≤ k.inbox.length + live.length) then (s, .refused)
        else
          let rest := match mine with
            | some r => live.erase r
            | none => live
          (setCore s c { k with inbox := k.inbox ++ [⟨id, handleSlot h, bs⟩], resvd := rest }, .accepted)

/-- A record sent to the member of its key, and the member's answer put on its way (R281). -/
def sendRecord (s : State) (id t : Nat) (m : Cmd) (h : Word) (pred : Option Nat) (bs : List Byte) : State :=
  let c := memberOf h (wordAt bs 0)
  let r := recordAt s id t m.asid h c bs
  let st : CmdState := if r.2 = .accepted then .running else .queued
  let s := setCmd r.1 id { m with state := st, pat := some bs, arr := s.now }
  { s with kmsgs := tset s.kmsgs id { task := t, pred, coord := c, stage := handleSlot h, answer := r.2 } }

/-- A record that has not been read is read by its core after the kick. -/
def recordBytes (s : State) (m : Cmd) : State × List Byte :=
  match m.kind with
  | .ksend ls _ _ => let r := readLocs s m.core false m.mask (withLens 32 ls); (r.1, r.2.1)
  | _ => (s, [])

/-- Whether an earlier record of the same task that has still to be read may be for the same member: records of one task are
accepted at a member in the order of issue (R267). -/
def earlierUnsent (s : State) (id t c : Nat) : Bool :=
  s.cmds.any fun e => e.1 < id && e.2.task = some t && e.2.state = .issued && (match e.2.kind with
    | .ksend _ h _ => (handleCores h).contains c
    | _ => false)

/-- The predicate of a KSENDT written, or the slot of a KSEND that awaits its answer freed. -/
def answerTo (s : State) (t id : Nat) (pred : Option Nat) (v : Pred) : State :=
  match pred with
  | some p => deliver s t id [putP p v]
  | none => match residence s t with
    | some (c, i) => modSlot s c i fun sl => if sl.hold = .ksend id then { sl with hold := .none } else sl
    | none => s

/-- The lowest poisoned byte of a record that is read after the kick (R285). -/
def recordPoison (s : State) (m : Cmd) : Option Nat :=
  match m.kind with
  | .ksend ls _ _ => poisonIn (fun l n => (coreRead s m.core false l n m.mask).2.2) (withLens 32 ls)
  | _ => none

/-- A record found poisoned when it is read: its KSEND or KSENDT traps as though it had not issued. One whose task has left
its slot has nothing to go back to and ends PARTIAL (R171, R285; log 42). -/
def ksendPoisoned (s : State) (id t : Nat) (pred : Option Nat) (a : Nat) : State :=
  (failPerformed { s with cmds := tdel s.cmds id } t id
    (.trap { cause := .poison, addr := BitVec.ofNat 64 a })).getD (answerTo (cmdEnd s id 5 0 0) t id pred 0xFF)

/-- KEYED_RECORD_ARRIVE: the record of a command, all that it waits for performed, is read and reaches its member; one that
freezes has it held at its router (R277, R278, R281, R285, R375). -/
def execKeyedRecordArrive (id : Nat) (s : State) : Host.Outcome State Fault Refusal :=
  match tget s.cmds id with
  | none => .next s
  | some m =>
    match m.kind, m.task with
    | .ksend _ h pred, some t =>
      if m.state ≠ .issued || !cmdReady s m then .next s
      else
        let r := recordBytes s m
        let c := memberOf h (wordAt r.2 0)
        if earlierUnsent s id t c || (getCore s c).freezing then .next s
        else match (if opPast s t id then none else recordPoison s m) with
          | some a => .next (ksendPoisoned s id t pred a)
          | none => .next (sendRecord (passed r.1 t id) id t m h pred r.2)
    | _, _ => .next s

/-- A refused KSEND undone, its task saved with the pc of the KSEND and put on the member's waiter list (R268). Where it cannot be
saved as PARK saves, in a handler, and while the list is full it holds its slot. (Log 42.) -/
def ksendRefused (s : State) (id c i : Nat) (sl : SlotSt) (k : TaskSt) (q : KMsg) : State :=
  if !sl.ops.isEmpty || sl.saveWait.isSome then s
  else
    let gone (s : State) : State := { s with kmsgs := tdel s.kmsgs id }
    if sl.inh || sl.level ≠ k.level0 || 64 ≤ (getCore s q.coord).waiters.length then
      gone (setHold s c i (.ksendFull id))
    else
      let r := saveSlot s k
      match savePark { s with cmds := tdel s.cmds id } c i (sl.pc - 16) r with
      | .failed s => saveLost (gone s) c sl.task k r.va
      | .waits u => { u with cmds := s.cmds }                -- the answer is taken up again once its page has come
      | .done s =>
        let gs := match tget (getCore s q.coord).stages q.stage with
          | some b => if b.group = k.group then [] else [b.group]
          | none => []
        let s := gone s
        let w : Wait := { kind := .rp, obj := 0, asid := k.asid, coord := 0, ctr := 0, thresh := 0
                          stage := some (q.coord, q.stage), groups := gs }
        let s := modTask s sl.task fun k => { k with wait := some w }
        let s := modCore s q.coord fun m => { m with waiters := m.waiters ++ [⟨sl.task, q.stage⟩] }
        let s := addEdges s sl.task k.group gs
        reserveFree (becameWaiting s k.group) q.coord

/-- A refused KSENDT's count removed and its handle retired, in the record of a task that has been saved meanwhile too (R161,
R281). -/
def uncount (s : State) (t id : Nat) : State :=
  match tget s.cmds id with
  | none => s
  | some m =>
    let s := { s with cmds := tdel s.cmds id }
    if (residence s t).isSome then s else refreshRecord s t m.stream

/-- KSEND_ANSWER: the member's answer reaches the sender (R268, R281). -/
def execKsendAnswer (id : Nat) (s : State) : Host.Outcome State Fault Refusal :=
  match tget s.kmsgs id with
  | none => .next s
  | some q =>
    let gone : State := { s with kmsgs := tdel s.kmsgs id }
    match q.answer, q.pred with
    | .accepted, _ => .next (answerTo gone q.task id q.pred 0xFF)
    | .dropped, _ => .next (cmdEnd (answerTo gone q.task id q.pred 0xFF) id 6 0 0)
    | .refused, some _ => .next (answerTo (uncount gone q.task id) q.task id q.pred 0)
    | .refused, none =>
      match residence s q.task, getTask s q.task with
      | some (c, i), some k => (match slotAt s c i with
        | some sl => .next (ksendRefused s id c i sl k q)
        | none => .next gone)
      | _, _ => .next gone

/-- KSEND_RESEND: a KSEND that holds its slot is sent again every 1,024 router cycles (R268). -/
def execKsendResend (core slot : Nat) (s : State) : Host.Outcome State Fault Refusal :=
  match slotAt s core slot with
  | none => .next s
  | some sl =>
    match sl.hold with
    | .ksendFull id => (match tget s.cmds id with
      | none => .next s
      | some m => (match m.kind with
        | .ksend _ h _ =>
          if s.now < m.arr + 1024 then .next s
          else .next (setHold (sendRecord s id sl.task m h none (m.pat.getD [])) core slot (.ksend id))
        | _ => .next s))
    | _ => .next s

/-- RESERVATION_LAPSE: reservations whose 4,096 router cycles are over lapse (R268). -/
def execReservationLapse (core : Nat) (s : State) : Host.Outcome State Fault Refusal :=
  .next (reserveFree (modCore s core fun k => { k with resvd := k.resvd.filter fun r => s.now < r.2 }) core)

/-! ### Contexts (R269 to R274) -/

def PodState.busy : PodState → Bool
  | .idle => false
  | .run => true
  | .spill => true
  | .load => true

/-- The contexts of a stage at a member. -/
def ctxsOf (k : CoreSt) (st : Nat) : List (Nat × PodCtx) := k.pod.filter fun p => p.2.stage = st

def runningOf (k : CoreSt) (st : Nat) : Nat := ((ctxsOf k st).filter fun p => p.2.state = .run).length

def ctxOfKey (k : CoreSt) (st : Nat) (key : Word) : Option (Nat × PodCtx) := (ctxsOf k st).find? fun p => p.2.key = key

def InRec.key (r : InRec) : Word := BitVec.ofNat 64 (wordAt r.bytes 0)

/-- A free context of the share (R269). -/
def freeCtxIdx (k : CoreSt) (st : Nat) (b : StageSt) : Option Nat :=
  if b.share ≤ (ctxsOf k st).length then none else (below 32).find? fun i => (tget k.pod i).isNone

/-- The lowest free run token of a stage. -/
def freeToken (k : CoreSt) (st : Nat) : Nat :=
  ((below 4).find? fun t => !((ctxsOf k st).any fun p => p.2.state = .run && p.2.token = t)).getD 0

/-- Whether a coroutine has interrupts pending: a Husk has no place for them (R208). -/
def hasInts (s : State) (t : Nat) : Bool :=
  match getTask s t with
  | some k => !k.ints.isEmpty
  | none => false

/-- The victim of R272: idle, with no command outstanding, and not one whose spill failed (R353). (Log 42.) -/
def victimOf (s : State) (k : CoreSt) (st : Nat) (b : StageSt) : Option (Nat × PodCtx) :=
  leastBy (fun p => p.2.last * 32 + p.1) ((ctxsOf k st).filter fun p =>
    p.2.state = .idle && (outstanding s p.2.task).isEmpty && !hasInts s p.2.task && !b.victimNo.contains p.1)

def setCtx (s : State) (c i : Nat) (p : PodCtx) : State := modCore s c fun k => { k with pod := tset k.pod i p }
def modStage (s : State) (c st : Nat) (f : StageSt → StageSt) : State :=
  modCore s c fun k => { k with stages := tmod k.stages st f }

/-- A record taken out of the inbox: its entry goes to a waiter. -/
def takeRecord (s : State) (c : Nat) (r : InRec) : State :=
  reserveFree (modCore s c fun k => { k with inbox := k.inbox.erase r }) c

/-- The coroutine of a context started with a record, or for a retire resumption: a run token, and a continuation in the
member's placement queue; the dispatch acquires (R261, R273, R274, R276, R278). -/
def startCoro (s : State) (c st i : Nat) (b : StageSt) (p : PodCtx) (r : Option InRec) : State :=
  let k := getCore s c
  let (t, s) := if (getTask s p.task).isSome && p.task ≠ 0 then (p.task, s) else (s.seq + 1, { s with seq := s.seq + 2 })
  let l := tget s.launches b.launch
  let task : TaskSt :=
    { launch := b.launch, asid := b.asid, home := c, group := b.group
      prio := match l with | some l => l.r.prio | none => 0
      feat := match l with | some l => l.r.feat | none => 0
      level0 := match l with | some l => l.level | none => 0
      seq := match getTask s t with | some k => k.seq | none => 0
      ints := match getTask s t with | some k => k.ints | none => []
      flow := match getTask s t with | some k => k.flow | none => []
      turned := match getTask s t with | some k => k.turned | none => []
      skew := match p.snap, getTask s t with
        | some n, _ => skewOf s t n
        | none, some k => k.skew
        | none, none => []
      coro := some ⟨c, st, i, r.map fun r => r.cmd⟩ }
  let s := setCtx { s with tasks := tset s.tasks t task } c i
    { p with state := .run, token := freeToken k st, last := s.now, retire := r.isNone, task := t, snap := none }
  let s := match r with
    | some r => takeRecord s c r
    | none => modStage s c st fun b => { b with retires := satInc b.retires }
  enqueueAt s t c (.coro (match r with | some r => r.bytes | none => []) r.isNone) true

/-- A new coroutine of a key (R274). -/
def instantiate (s : State) (c st i : Nat) (b : StageSt) (r : InRec) : State :=
  let s := modStage s c st fun b => { b with inst := satInc b.inst, looked := b.looked.filter fun w => w ≠ r.key }
  let p : PodCtx := { stage := st, key := r.key, state := .run, regs := b.image, pc := b.entry }
  startCoro s c st i b p (some r)

/-! ### The dispatcher (R271, R272) -/

/-- A spill begun (R273). -/
def startSpill (s : State) (c st : Nat) (v : Nat × PodCtx) : State :=
  setCtx (modStage s c st fun b => { b with busy := some (1, v.2.key) }) c v.1 { v.2 with state := .spill }

/-- A reload begun into a free context (R273). -/
def startReload (s : State) (c st i : Nat) (key : Word) (retire : Bool) : State :=
  setCtx (modStage s c st fun b => { b with busy := some (2, key) }) c i
    { stage := st, key, state := .load, retire }

/-- What the dispatcher does for one record: some action, or nothing, and the scan goes on (R271). -/
def tryRecord (s : State) (c st : Nat) (b : StageSt) (older : List Word) (r : InRec) : Option State :=
  let k := getCore s c
  if older.contains r.key || b.run ≤ runningOf k st then none
  else match ctxOfKey k st r.key with
    | some (i, p) => if PodState.busy p.state then none else some (startCoro s c st i b p (some r))
    | none =>
      let husk := b.found.contains r.key
      if (!b.husks.isEmpty || !b.found.isEmpty || b.seeded) && !b.looked.contains r.key then
        some (modStage s c st fun b => { b with busy := some (0, r.key) })
      else match freeCtxIdx k st b with
        | some i => some (if husk then startReload s c st i r.key false else instantiate s c st i b r)
        | none => (victimOf s k st b).map fun v => startSpill s c st v

/-- The scan of a stage's records in arrival order. -/
def scanRecords (s : State) (c st : Nat) (b : StageSt) : List Word → List InRec → Option State
  | _, [] => none
  | older, r :: rs =>
    match tryRecord s c st b older r with
    | some t => some t
    | none => scanRecords s c st b (r.key :: older) rs

/-- Whether an idle context is due for a retire resumption (R276, R284). -/
def isDue (s : State) (b : StageSt) (p : PodCtx) : Bool :=
  p.state = .idle && (b.retiring.contains p.key || (b.retire ≠ 0 && p.idle + 1600 * b.retire ≤ s.now))

/-- The idle context that is due and has the oldest idle time. -/
def dueCtx (s : State) (k : CoreSt) (st : Nat) (b : StageSt) : Option (Nat × PodCtx) :=
  leastBy (fun p => p.2.idle * 32 + p.1) ((ctxsOf k st).filter fun p => isDue s b p.2)

/-- What the dispatcher does for a stage whose records start nothing: a retire resumption, or the next Husk of a flush. -/
def startRetire (s : State) (c st : Nat) (b : StageSt) : Option State :=
  let k := getCore s c
  if b.run ≤ runningOf k st then none
  else match dueCtx s k st b with
    | some (i, p) => some (startCoro s c st i b p none)
    | none =>
      match b.retiring.find? fun w => (b.husks ++ b.found).contains w && (ctxOfKey k st w).isNone with
      | none => none
      | some w => match freeCtxIdx k st b with
        | some i => some (startReload s c st i w true)
        | none => (victimOf s k st b).map fun v => startSpill s c st v

/-- One action for a stage, if there is one (R271). -/
def dispatchStage (s : State) (c st : Nat) : Option State :=
  match tget (getCore s c).stages st with
  | none => none
  | some b =>
    if b.busy.isSome then none
    else match scanRecords s c st b [] ((getCore s c).inbox.filter fun r => r.stage = st) with
      | some t => some t
      | none => startRetire s c st b

/-- Whether a member's dispatcher has started an action in this router cycle (R271). -/
def dispatched (s : State) (c : Nat) : Bool := (getCore s c).dispAt = some s.now

/-- The action that the dispatcher would start now, of the first stage in round-robin order that has one, and that stage
(R271). -/
def dispatchNext (s : State) (c : Nat) : Option (State × Nat) :=
  let last := (getCore s c).served
  if dispatched s c || (getCore s c).freezing then none
  else [1, 2, 3, 4].findSome? fun d => (dispatchStage s c ((last + d) % 4)).map fun t => (t, (last + d) % 4)

/-- An action started: its stage has been served, in this router cycle (R271). -/
def serveStage (s : State) (c st : Nat) : State := modCore s c fun k => { k with served := st, dispAt := some s.now }

/-- DISPATCH: the member's dispatcher starts at most one action in a router cycle, its stages round-robin (R271). -/
def execDispatch (core : Nat) (s : State) : Host.Outcome State Fault Refusal :=
  match dispatchNext s core with
  | some (t, st) => .next (serveStage t core st)
  | none => .next s

/-- Whether the action of a stage would be the retire resumption of a context: its records start nothing, and it is the one
that is due (R271, R276). -/
def retiresNext (s : State) (c st ctx : Nat) : Bool :=
  match tget (getCore s c).stages st with
  | none => false
  | some b =>
    (scanRecords s c st b [] ((getCore s c).inbox.filter fun r => r.stage = st)).isNone &&
      (match dueCtx s (getCore s c) st b with
       | some (i, _) => i = ctx
       | none => false)

/-- RETIRE_DUE: a context that is due is resumed to retire, when that is what the dispatcher starts next (R271, R276). -/
def execRetireDue (core ctx : Nat) (s : State) : Host.Outcome State Fault Refusal :=
  match dispatchNext s core with
  | some (t, st) => .next (if retiresNext s core st ctx then serveStage t core st else s)
  | none => .next s

/-! ### Husks (R273, R275, R353, R354) -/

/-- A Husk access that failed: it waits for its page, or it is lost (none). -/
def huskFault (s : State) (c st : Nat) (b : StageSt) (k : Acc4) (f : Fail) : State × Bool :=
  match f with
  | .trap _ => (s, false)
  | .page va _ =>
    (match faultPost s b.asid va (8 ||| kindBits k false) with
     | (s, none) => (s, false)
     | (s, some r) => (modStage s c st fun b => { b with await := some (false, r) }, true))
  | .stage2 _ gpa _ =>
    match pagePost s (vfOf s b.asid) b.asid gpa (8 ||| kindBits k false) with
    | (u, some tag) => (modStage u c st fun b => { b with await := some (true, tag) }, true)
    | (u, none) =>
      let u := retryLater u (vfOf u b.asid) b.asid gpa (8 ||| kindBits k false) (.husk c st)
      (modStage u c st fun b => { b with await := some (true, unposted + s.seq) }, true)

/-- Why a Husk access ends. -/
inductive HuskEnd where
  | fail (f : Fail)
  | poison
  deriving DecidableEq, Repr

def huskRead (s : State) (b : StageSt) (a n : Nat) : Except HuskEnd (State × List Byte) :=
  match devRead s b.asid a n with
  | .error f => .error (.fail f)
  | .ok (s, bs, none) => .ok (s, bs)
  | .ok (_, _, some _) => .error .poison

/-- The first Husk of a list that holds a key, valid (R273). -/
def huskFind (s : State) (b : StageSt) (key : Word) : List Nat → Except HuskEnd (State × Option Nat)
  | [] => .ok (s, none)
  | a :: as =>
    match huskRead s b (a + 160) 1 with
    | .error e => .error e
    | .ok (s, v) =>
      if !bitN (natOf v) 0 then huskFind s b key as
      else match huskRead s b (a + 24) 8 with
        | .error e => .error e
        | .ok (s, w) => if natOf w = key.toNat then .ok (s, some a) else huskFind s b key as

/-- The first Husk of a list with valid = 0 (R273). -/
def huskFree (s : State) (b : StageSt) : List Nat → Except HuskEnd (State × Option Nat)
  | [] => .ok (s, none)
  | a :: as =>
    match huskRead s b (a + 160) 1 with
    | .error e => .error e
    | .ok (s, v) => if bitN (natOf v) 0 then huskFree s b as else .ok (s, some a)

/-- The valid bit of a Husk written; the reserved bits of its byte are written as zero (R9, R275). -/
def huskValid (s : State) (b : StageSt) (a : Nat) (v : Bool) : Except Fail State :=
  devWrite s b.asid (a + 160) [BitVec.ofNat 8 (boolN v)]

/-- The records of a key that can no longer be handled: out of the inbox, their KSENDs FAULTED (R354). -/
def dropRecords (s : State) (c st : Nat) (b : StageSt) (key : Word) : State :=
  let rs := (getCore s c).inbox.filter fun r => r.stage = st && r.key = key
  let s := modCore s c fun k => { k with inbox := k.inbox.filter fun r => !(r.stage = st && r.key = key) }
  let s := rs.foldl (fun s r => cmdEnd s r.cmd 6 0 0) s
  reserveFree (errPost s 0x11 c b.asid 0 (key.toNat % 2 ^ 32)) c

/-- What a Husk access of a stage does when it cannot go on: it waits, or the failure is dealt with. -/
def huskStop (s : State) (c st : Nat) (b : StageSt) (k : Acc4) (lost : State → State) : HuskEnd → State
  | .poison => lost s
  | .fail f => match huskFault s c st b k f with
    | (s, true) => s
    | (s, false) => lost s

/-- A failed lookup (R354). -/
def lookupLost (c st : Nat) (b : StageSt) (key : Word) (s : State) : State :=
  dropRecords (modStage s c st fun b => { b with busy := none, await := none }) c st b key

/-- A failed spill: the context stays idle, and is not chosen again for now (R353, R354). -/
def spillLost (c st i : Nat) (b : StageSt) (p : PodCtx) (logged : Bool) (s : State) : State :=
  let s := setCtx s c i { p with state := .idle }
  let s := modStage s c st fun b => { b with busy := none, await := none, victimNo := i :: b.victimNo }
  if logged then errPost s 0x11 c b.asid 0 (p.key.toNat % 2 ^ 32) else s

/-- A failed reload (R354): the Husk stays valid. -/
def reloadLost (c st i : Nat) (b : StageSt) (key : Word) (s : State) : State :=
  let s := modCore s c fun k => { k with pod := tdel k.pod i }
  let s := modStage s c st fun b => { b.settleKey key false with
    busy := none, await := none, looked := b.looked.filter fun w => w ≠ key }
  flushCheck (dropRecords s c st b key) b.asid b.handle

/-- HUSK_LOOKUP_DONE: the buckets have been read (R273). -/
def execHuskLookupDone (core stage : Nat) (s : State) : Host.Outcome State Fault Refusal :=
  match tget (getCore s core).stages stage with
  | none => .next s
  | some b =>
    match b.busy, b.await with
    | some (0, key), none => (match huskFind s b key (husksOf b key) with
      | .error e => .next (huskStop s core stage b .read (lookupLost core stage b key) e)
      | .ok (s, hit) => .next (modStage s core stage fun b => { b with
          busy := none
          looked := key :: b.looked
          found := if hit.isSome then (key :: b.found).eraseDups else b.found.filter fun w => w ≠ key }))
    | _, _ => .next s

/-- The live registers of a context as a slot holds them. -/
def ctxSlot (b : StageSt) (p : PodCtx) : SlotSt :=
  let base : SlotSt := { task := p.task, pc := p.pc, scopemiss := p.scopemiss, poison := p.poison }
  ((maskRegs b.livemask.toNat).zip p.regs).foldl (fun (sl : SlotSt) e => { sl with xs := sl.xs.setIfInBounds e.1 e.2 }) base

/-- A context as a Husk holds it: a record of origin 2 (R275). -/
def huskSave (s : State) (b : StageSt) (p : PodCtx) : Save :=
  let l := tget s.launches b.launch
  { sl := ctxSlot b p, pc := p.pc, origin := 2, ext := false, mask := b.livemask.toNat, key := p.key, group := b.group
    prio := match l with | some l => l.r.prio | none => 0
    feat := match l with | some l => l.r.feat | none => 0
    pin := false, snap := p.snap.getD (snap48 s p.task) }

/-- A context written to a free Husk: the record, then the valid bit (R273). (Log 48.) -/
def writeHusk (s : State) (c : Nat) (b : StageSt) (p : PodCtx) (a : Nat) : Except Fail State :=
  match writeRecord s c (huskSave s b p) ⟨b.asid, a⟩ with
  | .error f => .error f
  | .ok s => devWrite s b.asid (a + 160) (bytesOf 96 1)

/-- HUSK_SPILL_DONE: the Husk is written, and its context is free (R273). -/
def execHuskSpillDone (core stage : Nat) (s : State) : Host.Outcome State Fault Refusal :=
  match tget (getCore s core).stages stage with
  | none => .next s
  | some b =>
    match b.busy, b.await with
    | some (1, key), none => (match ctxOfKey (getCore s core) stage key with
      | none => .next (modStage s core stage fun b => { b with busy := none })
      | some (i, p) => (match huskFree s b (husksOf b key) with
        | .error e => .next (huskStop s core stage b .read (spillLost core stage i b p true) e)
        | .ok (s, none) => .next (spillLost core stage i b p false s)
        | .ok (s, some a) => (match writeHusk s core b p a with
          | .error f => .next (huskStop s core stage b .write (spillLost core stage i b p true) (.fail f))
          | .ok s =>
            let s := modCore s core fun k => { k with pod := tdel k.pod i }
            let s := { s with tasks := tdel s.tasks p.task }
            .next (modStage s core stage fun b => { b with
              busy := none
              husks := (key :: b.husks).eraseDups
              looked := b.looked.filter fun w => w ≠ key
              found := b.found.filter fun w => w ≠ key
              spills := satInc b.spills }))))
    | _, _ => .next s

/-- A context read back from a Husk's record: its registers in the order of the stage's mask, poison with them, and its stream
counts (R273, R274, R369). -/
def ctxOfHusk (s : State) (b : StageSt) (p : PodCtx) (a : Nat) (bs : List Byte) : PodCtx :=
  let bad := recPoison s ⟨b.asid, a⟩ 40
  let sl := slotOfRecord 0 0 bs (fun i => bad.contains i) a
  { p with
    regs := (maskRegs b.livemask.toNat).map fun n => sl.rdP n
    pc := sl.pc, scopemiss := sl.scopemiss, poison := sl.poison, snap := some (wordAt bs 2 % 2 ^ 48) }

/-- A reloaded key: its coroutine resumes with the record that waits for it, or to retire (R273). -/
def reloaded (s : State) (c st i : Nat) (p : PodCtx) (key : Word) : State :=
  match tget (getCore s c).stages st with
  | none => s
  | some b =>
    if p.retire then startCoro s c st i b p none
    else match (getCore s c).inbox.find? fun r => r.stage = st && r.key = key with
      | some r => startCoro s c st i b p (some r)
      | none => setCtx s c i { p with state := .idle, idle := s.now }

/-- HUSK_RELOAD_DONE: the Husk is read, its valid bit cleared, and the coroutine resumes (R273). -/
def execHuskReloadDone (core stage : Nat) (s : State) : Host.Outcome State Fault Refusal :=
  match tget (getCore s core).stages stage with
  | none => .next s
  | some b =>
    match b.busy, b.await with
    | some (2, key), none => (match ctxOfKey (getCore s core) stage key with
      | none => .next (modStage s core stage fun b => { b with busy := none })
      | some (i, p) => (match huskFind s b key (husksOf b key) with
        | .error e => .next (huskStop s core stage b .read (reloadLost core stage i b key) e)
        | .ok (s, none) =>
          -- software has cleared it: the key is NONE
          let s := modCore s core fun k => { k with pod := tdel k.pod i }
          let s := modStage s core stage fun b => { b.settleKey key false with
            busy := none, husks := b.husks.filter (fun w => w ≠ key), found := b.found.filter fun w => w ≠ key }
          .next (flushCheck s b.asid b.handle)
        | .ok (s, some a) => (match devRead s b.asid a 160 with
          | .error f => .next (huskStop s core stage b .read (reloadLost core stage i b key) (.fail f))
          | .ok (s, bs, _) =>
            if (recPoison s ⟨b.asid, a⟩ 8).isEmpty then
              (match huskValid s b a false with
               | .error f => .next (huskStop s core stage b .write (reloadLost core stage i b key) (.fail f))
               | .ok s =>
                 let p := ctxOfHusk s b p a bs
                 let bucket := (a - huskArea b) / 1024
                 let k := getCore s core
                 let s := modStage s core stage fun b => { b with
                   busy := none
                   husks := b.husks.filter fun w => w ≠ key
                   found := b.found.filter fun w => w ≠ key
                   looked := b.looked.filter fun w => w ≠ key
                   reloads := satInc b.reloads
                   victimNo := b.victimNo.filter fun j => match tget k.pod j with
                     | some q => !(bucketsOf b q.key).contains bucket
                     | none => false }
                 .next (reloaded s core stage i p key))
            else .next (reloadLost core stage i b key s))))
    | _, _ => .next s

/-! ### KYIELD, KEND, KSTAT, KFLUSH, unbinding (R264, R282 to R284) -/

/-- KYIELD and KEND (R282); the detail of NO-CONTEXT tells them apart (R315). -/
def yieldEff (s : State) (kend : Bool) : Eff :=
  match curSlot s with
  | none => .ok s
  | some sl =>
    match getTask s sl.task with
    | none => .ok s
    | some k =>
      if k.coro.isNone || sl.inh then .trap { cause := .noContext, detail := boolN kend }
      else .ok (holdThen s s.core s.slot (.yielding kend))

/-- KYIELD: the coroutine waits for its key's next record (R282). -/
def execKyield (h : Hdr) (s : State) : Host.Outcome State Fault Refusal :=
  issue (.kyield h) h s fun _ s => yieldEff s false

/-- KEND: the coroutine is over (R282). -/
def execKend (h : Hdr) (s : State) : Host.Outcome State Fault Refusal :=
  issue (.kend h) h s fun _ s => yieldEff s true

/-- The valid Husks of a member's area as memory holds them; one that cannot be read is none (R283). -/
def validHusks (s : State) (b : StageSt) : Nat :=
  ((below (2 ^ b.nblog * 4)).filter fun i => match devRead s b.asid (huskArea b + 256 * i + 160) 1 with
    | .ok (_, v, none) => bitN (natOf v) 0
    | _ => false).length

/-- KSTAT.occ of a binding (R283). DESIGN CHOICE: a count of Husks above 65,535, which an nblog of 14 or more allows, leaves
its low 16 bits in the field; R283 gives no saturation (log 42). -/
def occWord (s : State) (k : CoreSt) (st : Nat) (b : StageSt) : Word :=
  let cs := ctxsOf k st
  put (validHusks s b) 48 ||| put (k.inbox.filter fun r => r.stage = st).length 40 |||
  put (k.waiters.filter fun w => w.stage = st).length 32 ||| put (runningOf k st) 24 |||
  put (cs.filter fun p => p.2.state = .idle).length 16 ||| put b.share 8 ||| put (b.share - cs.length) 0

/-- KSTAT.cnt of a binding (R283). -/
def cntWord (b : StageSt) : Word :=
  put b.inst.toNat 48 ||| put b.spills.toNat 32 ||| put b.reloads.toNat 16 ||| put b.retires.toNat 0

/-- A view of the binding of a handle's geometry in its slot on the issuing core (R283). DESIGN CHOICE: a handle whose bits
[63:40] are not all zero is no binding's, and reads all ones; R283 does not say what they do (log 42). -/
def kstatEff (s : State) (d a : XReg) (view : CoreSt → Nat → StageSt → Word) : Eff :=
  let h := curX s a
  match bindingAt s s.core h with
  | none => .ok (curSetX s d 0xFFFFFFFFFFFFFFFF)
  | some b => .ok (curSetX s d (if b.handle = h then view (getCore s s.core) (handleSlot h) b else 0xFFFFFFFFFFFFFFFF))

/-- KSTAT.occ (R283). -/
def execKstatOcc (h : Hdr) (d a : XReg) (s : State) : Host.Outcome State Fault Refusal :=
  issue (.kstatOcc h d a) h s fun _ s => kstatEff s d a (occWord s)

/-- KSTAT.cnt (R283). -/
def execKstatCnt (h : Hdr) (d a : XReg) (s : State) : Host.Outcome State Fault Refusal :=
  issue (.kstatCnt h d a) h s fun _ s => kstatEff s d a fun _ _ b => cntWord b

/-- The keys that a flush retires: those of idle and spilling contexts, and of the member's Husks. (Log 42.) -/
def flushKeys (k : CoreSt) (st : Nat) (b : StageSt) : List Word :=
  (((ctxsOf k st).filter fun p => p.2.state = .idle || p.2.state = .spill).map fun p => p.2.key) ++ b.husks ++ b.found

/-- A flush begun at a member; by a KFLUSH, given its task, register and name, or by the stage's own unbinding. -/
def flushMember (s : State) (c st : Nat) (by_ : Option (Nat × Nat × Nat)) : State :=
  let k := getCore s c
  modStage s c st fun b =>
    let keys := (flushKeys k st b).eraseDups
    { b with
      retiring := (b.retiring ++ keys).eraseDups
      flush := match by_ with
        | some (task, dst, id) => b.flush ++ [{ task, dst, id, keys }]
        | none => b.flush }

/-- KFLUSH: every idle context and every Husk of the stage is retired; the count is written at the end (R284). -/
def execKflush (h : Hdr) (d a : XReg) (s : State) : Host.Outcome State Fault Refusal :=
  issue (.kflush h d a) h s fun id s =>
    match curSlot s with
    | none => .ok s
    | some sl =>
      let hd := sl.x a.val
      let ms := membersOfStage s (curAsid s) hd
      if ms.isEmpty then .ok (deliver s sl.task id [putX (sl.px d.val) 0xFFFFFFFFFFFFFFFF none])
      else
        let s' := ms.foldl (fun s m => flushMember s m.1 m.2 (some (sl.task, sl.px d.val, id))) s
        .ok (flushCheck s' (curAsid s) hd)

/-- Whether every task of a launch that is no coroutine has ended. -/
def onlyCoroutines (s : State) (n : Nat) : Bool :=
  (tasksOfLaunch s n).all fun e => e.2.coro.isSome || e.2.place.isEnded

/-- STAGE_AUTO_UNBIND: a stage whose binding launch has only coroutines left is flushed at a member that is quiet, and
unbound when no member holds anything of it (R264). -/
def execStageAutoUnbind (core stage : Nat) (s : State) : Host.Outcome State Fault Refusal :=
  match tget (getCore s core).stages stage with
  | none => .next s
  | some b =>
    if !onlyCoroutines s b.launch then .next s
    else
      let ms := membersOfStage s b.asid b.handle
      let full := ms.any fun m => match tget (getCore s m.1).stages m.2 with
        | some q => memberHolds (getCore s m.1) m.2 q
        | none => false
      if !full then .next (unbindStage s b.asid b.handle)
      else
        let k := getCore s core
        if k.inbox.any (fun r => r.stage = stage) || runningOf k stage ≠ 0 then .next s
        else .next (flushMember s core stage none)

end Sys2Proof.Machine
end

