-- ==== Sys2Proof/Machine/Wait.lean ====
section
/-!
DEFINITION. Class E: groups and shares, wait objects and parking; cycles, and changes of operating point (R286 to R314,
R355 to R365).
-/
set_option Elab.async false
namespace Sys2Proof.Machine

/-! ### Group instructions (R307) -/

/-- A failure of a G-layout function (R307). -/
def groupFail (code : Nat) : Word := 0x8000000000000000 + BitVec.ofNat 64 code

/-- Own shares of one group put into another group's account. Shares that waiting groups have passed on go with them: no
share counts twice (R289, R302). (Log 45.) -/
def moveOwn (s : State) (g h : GroupId) (n : Nat) : State :=
  match getGroup s g with
  | none => s
  | some r =>
    let out := r.away - (r.own - n)
    let s := setGroup s g { r with own := r.own - n, away := r.away - out }
    modGroup s h fun q => { q with own := q.own + n, away := q.away + out }

/-- Whether a group may do without n of its own shares, m being its cores after the change (R289, R307 code 3). -/
def mayGive (r : GroupSt) (n m : Nat) : Bool := r.resv + n ≤ r.own && m + n ≤ r.own

/-- n(g) once a task has left the group. -/
def coresWithout (s : State) (g : GroupId) (t : Nat) : Nat :=
  (((membersOf s g).filterMap fun e => if e.1 = t then none else (match e.2.place with
    | .resident c _ => some c
    | _ => none)).eraseDups).length

/-- The result of naming a group: its account, or the failure 1 or 2 (R307). -/
def namedGroup (s : State) (asid : Nat) (g : GroupId) : Except Nat GroupSt :=
  match getGroup s g with
  | none => .error 1
  | some r => if r.asid = asid then .ok r else .error 2

/-- The current task moved into a group; the old one is freed if that leaves it empty (R33, R307). -/
def moveTask (s : State) (t : Nat) (k : TaskSt) (g : GroupId) : State :=
  let s := setTask s t { k with group := g }
  groupCheck (becameWaiting s k.group) k.group

/-- A G-layout function of the current task, applied at issue: the slot issues nothing before it is (R307). -/
def groupEff (s : State) (d : XReg) (f : SlotSt → TaskSt → GroupSt → State × Word) : Eff :=
  match curSlot s with
  | none => .ok s
  | some sl =>
    match getTask s sl.task with
    | none => .ok s
    | some k =>
      let r := match getGroup s k.group with
        | some g => f sl k g
        | none => (s, groupFail 1)
      .ok (modCur r.1 fun q => q.setX d.val r.2)

def amountOf (w : Word) : Nat := fld w 31 0
def groupOf (w : Word) : GroupId := BitVec.ofNat 24 (fld w 23 0)

/-- GNEW: an empty group with shares of the issuer's (R286, R307). -/
def execGnew (h : Hdr) (d a : XReg) (s : State) : Host.Outcome State Fault Refusal :=
  issue (.gnew h d a) h s fun _ s => groupEff s d fun sl k r =>
    let n := amountOf (sl.x a.val)
    if !mayGive r n (nCores s k.group) then (s, groupFail 3)
    else match newGroup s k.asid 0 0 r.cap (dieKey s.core) (.gnew k.launch) with
      | none => (s, groupFail 4)
      | some (s, g) => (moveOwn s k.group g n, g.setWidth 64)

/-- GFREE: an empty group freed, its shares to the issuer (R307). -/
def execGfree (h : Hdr) (d a : XReg) (s : State) : Host.Outcome State Fault Refusal :=
  issue (.gfree h d a) h s fun _ s => groupEff s d fun sl k _ =>
    let g := groupOf (sl.x a.val)
    match namedGroup s k.asid g with
    | .error e => (s, groupFail e)
    | .ok q =>
      if groupState s g ≠ 3 || !groupIdle s g || s.edges.any fun e => e.dst = g then (s, groupFail 5)
      else (freeGroup (moveOwn s g k.group q.own) g, 0)

/-- JOIN: the task moves into a group (R307). -/
def execJoin (h : Hdr) (d a : XReg) (s : State) : Host.Outcome State Fault Refusal :=
  issue (.join h d a) h s fun _ s => groupEff s d fun sl k _ =>
    let g := groupOf (sl.x a.val)
    match namedGroup s k.asid g with
    | .error e => (s, groupFail e)
    | .ok q =>
      if g = k.group then (s, 0)
      else if q.own < (s.core :: coresOfGroup s g).eraseDups.length then (s, groupFail 3)
      else (moveTask s sl.task k g, 0)

/-- LEAVE: the task moves into a new group with shares of the old one (R307). -/
def execLeave (h : Hdr) (d a : XReg) (s : State) : Host.Outcome State Fault Refusal :=
  issue (.leave h d a) h s fun _ s => groupEff s d fun sl k r =>
    let n := amountOf (sl.x a.val)
    if n = 0 || !mayGive r n (coresWithout s k.group sl.task) then (s, groupFail 3)
    else match newGroup s k.asid 0 0 r.cap (dieKey s.core) .leave with
      | none => (s, groupFail 4)
      | some (s, g) => (moveTask (moveOwn s k.group g n) sl.task k g, g.setWidth 64)

/-- SHGIVE: own shares to another group (R307). -/
def execShgive (h : Hdr) (d a b : XReg) (s : State) : Host.Outcome State Fault Refusal :=
  issue (.shgive h d a b) h s fun _ s => groupEff s d fun sl k r =>
    let g := groupOf (sl.x a.val)
    match namedGroup s k.asid g with
    | .error e => (s, groupFail e)
    | .ok _ =>
      if g = k.group then (s, 0)
      else if !mayGive r (amountOf (sl.x b.val)) (nCores s k.group) then (s, groupFail 3)
      else (moveOwn s k.group g (amountOf (sl.x b.val)), 0)

/-- SHRESV: the reserve (R307). -/
def execShresv (h : Hdr) (d a : XReg) (s : State) : Host.Outcome State Fault Refusal :=
  issue (.shresv h d a) h s fun _ s => groupEff s d fun sl k r =>
    let n := amountOf (sl.x a.val)
    if r.own < n then (s, groupFail 3) else (setGroup s k.group { r with resv := n }, 0)

/-- A view of a group of the ASID: the issuer's for zero; all ones for another (R308). -/
def viewOf (s : State) (d a : XReg) (view : GroupId → Word) : Eff :=
  match curSlot s with
  | none => .ok s
  | some sl =>
    match getTask s sl.task with
    | none => .ok s
    | some k =>
      let g := if sl.x a.val = 0 then k.group else groupOf (sl.x a.val)
      let v := match namedGroup s k.asid g with
        | .ok _ => view g
        | .error _ => 0xFFFFFFFFFFFFFFFF
      .ok (modCur s fun q => q.setX d.val v)

/-- SHRD (R304, R308). -/
def execShrd (h : Hdr) (d a : XReg) (s : State) : Host.Outcome State Fault Refusal :=
  issue (.shrd h d a) h s fun _ s => viewOf s d a (sharesWord s)

/-- SHRD.l (R304, R308). -/
def execShrdL (h : Hdr) (d a : XReg) (s : State) : Host.Outcome State Fault Refusal :=
  issue (.shrdL h d a) h s fun _ s => viewOf s d a (lendWord s)

/-- OPRD (R305, R308). -/
def execOprd (h : Hdr) (d a : XReg) (s : State) : Host.Outcome State Fault Refusal :=
  issue (.oprd h d a) h s fun _ s =>
    .ok (modCur s fun q =>
      let c := fld (q.x a.val) 17 0
      q.setX d.val (if coreOk s c then opnowWord s c else 0xFFFFFFFFFFFFFFFF))

/-! ### Wait objects at issue (R293, R306, R309) -/

/-- An M-layout function of the class: the checks of R309 on its object of n bytes, then its place in the pipeline. R314 gives
it no ALIAS (log 51). -/
def objEff (s : State) (id : Nat) (o : Ord) (a : XReg) (off : BitVec 32) (n : Nat) (kind : SlotSt → Loc → OpKind) : Eff :=
  match curSlot s with
  | none => .ok s
  | some sl =>
    let ea := eaOf (sl.x a.val) off
    if (checkEa ea n .rmw).isNone && inWin ea.toNat then .trap { cause := .window, detail := 3, addr := ea }
    else directEff s id o a off n .rmw (wholeParts n) badPoint kind false

/-- The slot held until the operation is performed. (Log 43.) -/
def heldEff (id : Nat) : Eff → Eff
  | .ok s => .ok (setHold s s.core s.slot (.op id))
  | .trap t => .trap t
  | .fail f => .fail f

/-- The group of a task. -/
def groupOfTask (s : State) (t : Nat) : GroupId :=
  match getTask s t with
  | some k => k.group
  | none => 0

/-- TRYLK, with the issuer's group at issue (R310). -/
def execTrylk (h : Hdr) (o : Ord) (d : PReg) (a : XReg) (off : BitVec 32) (s : State) : Host.Outcome State Fault Refusal :=
  issue (.trylk h o d a off) h s fun id s => objEff s id o a off 16 fun sl l => .trylk l (groupOfTask s sl.task) d.val

/-- UNLK, with the issuer's group at issue (R310). -/
def execUnlk (h : Hdr) (o : Ord) (d : PReg) (a : XReg) (off : BitVec 32) (s : State) : Host.Outcome State Fault Refusal :=
  issue (.unlk h o d a off) h s fun id s => objEff s id o a off 16 fun sl l => .unlk l (groupOfTask s sl.task) d.val

/-- QPUSHT: its entry is checked inside its step, so its slot waits for it (R309, R310). -/
def execQpusht (h : Hdr) (o : Ord) (d : PReg) (a b : XReg) (off : BitVec 32) (s : State) :
    Host.Outcome State Fault Refusal :=
  issue (.qpusht h o d a b off) h s fun id s =>
    heldEff id (objEff s id o a off 64 fun sl l => .qpusht l (sl.x b.val) d.val)

/-- QPOPT (R310). -/
def execQpopt (h : Hdr) (o : Ord) (n : PReg) (d a : XReg) (off : BitVec 32) (s : State) :
    Host.Outcome State Fault Refusal :=
  issue (.qpopt h o n d a off) h s fun id s =>
    heldEff id (objEff s id o a off 64 fun sl l => .qpopt l n.val (sl.px d.val))

/-- BARARR (R311). -/
def execBararr (h : Hdr) (o : Ord) (d a b : XReg) (off : BitVec 32) (s : State) : Host.Outcome State Fault Refusal :=
  issue (.bararr h o d a b off) h s fun id s =>
    objEff s id o a off 128 fun sl l => .bararr l (fld (sl.x b.val) 3 0) (sl.px d.val)

/-- BARTRY (R311). -/
def execBartry (h : Hdr) (o : Ord) (d : PReg) (a b : XReg) (off : BitVec 32) (s : State) :
    Host.Outcome State Fault Refusal :=
  issue (.bartry h o d a b off) h s fun id s =>
    objEff s id o a off 128 fun sl l => .bartry l (fld (sl.x b.val) 15 0) d.val

/-- PARK waits, beside what is ordered before it, until every direct access of the task is performed (R312). -/
def afterAll (id : Nat) : Eff → Eff
  | .ok s => .ok (modCur s fun sl => { sl with
      ops := sl.ops.map fun m => if m.id = id then
        { m with deps := (m.deps ++ (sl.ops.filter fun q => q.id ≠ id).map fun q => q.id).eraseDups } else m })
  | .trap t => .trap t
  | .fail f => .fail f

/-- PARK at issue (R309, R312). -/
def parkEff (s : State) (id : Nat) (o : Ord) (a : XReg) (off : BitVec 32) (n : Nat) (k : ParkKind) (gen : SlotSt → Nat) : Eff :=
  heldEff id (afterAll id (objEff s id o a off n fun sl l => .park k l (gen sl)))

/-- PARK.lk (R298, R312). -/
def execParkLk (h : Hdr) (o : Ord) (a : XReg) (off : BitVec 32) (s : State) : Host.Outcome State Fault Refusal :=
  issue (.parkLk h o a off) h s fun id s => parkEff s id o a off 16 .lk fun _ => 0

/-- PARK.qn (R298, R312). -/
def execParkQn (h : Hdr) (o : Ord) (a : XReg) (off : BitVec 32) (s : State) : Host.Outcome State Fault Refusal :=
  issue (.parkQn h o a off) h s fun id s => parkEff s id o a off 64 .qn fun _ => 0

/-- PARK.qs (R298, R312). -/
def execParkQs (h : Hdr) (o : Ord) (a : XReg) (off : BitVec 32) (s : State) : Host.Outcome State Fault Refusal :=
  issue (.parkQs h o a off) h s fun id s => parkEff s id o a off 64 .qs fun _ => 0

/-- PARK.bar (R298, R312). -/
def execParkBar (h : Hdr) (o : Ord) (a b : XReg) (off : BitVec 32) (s : State) : Host.Outcome State Fault Refusal :=
  issue (.parkBar h o a b off) h s fun id s =>
    parkEff s id o a off 128 .bar fun sl => fld (sl.x b.val) 15 0

/-- PARK.rp (R298, R312). -/
def execParkRp (h : Hdr) (o : Ord) (a : XReg) (off : BitVec 32) (s : State) : Host.Outcome State Fault Refusal :=
  issue (.parkRp h o a off) h s fun id s => parkEff s id o a off 16 .rp fun _ => 0

/-! ### The indivisible steps (R293, R310, R311) -/

/-- An object read at its slice: the state, its bits, and whether a word is poisoned. -/
def objRead (s : State) (c : Nat) (m : MemOp) (l : Loc) (n : Nat) : State × Nat × Bool :=
  let r := pointRead s c l n m.mask
  (r.1, natOf r.2.1, r.2.2)

/-- Bytes of an object written, with the status of the operation as a release. -/
def objWrite (s : State) (c : Nat) (m : MemOp) (l : Loc) (off n v : Nat) : State :=
  tagHere (pointWrite s (l.plus off) (bytesOf n v)) (l.plus off) n (m.release c)

/-- The physical address of an object. -/
def Loc.phys : Loc → Nat
  | .loc _ off => off
  | .glob _ g => g.pa

/-- A predicate poisoned by an access. -/
def badP (dst addr : Nat) : Put := { reg := .p dst, val := 0, bad := some addr }

/-- The failure of an operation that its slot waits for: its instruction traps as though it had not issued (R171, R309). One
that is detached has no slot: its destinations are poisoned by the access (log 43). -/
def failHeld (s : State) (t : Nat) (m : MemOp) (f : Fail) (addr : Nat) (dsts : List Reg) : State :=
  (failPerformed s t m.id f).getD (deliver s t m.id (dsts.map fun r => { reg := r, val := 0, bad := some addr }))

/-- The trap for a poisoned object or entry. -/
def poisonAt (addr : Nat) : Fail := .trap { cause := .poison, detail := 3, addr := BitVec.ofNat 64 addr }

/-- TRYLK performed (R310). (Log 48.) -/
def performTrylk (s : State) (c t : Nat) (m : MemOp) (l : Loc) (g : GroupId) (dst : Nat) : State :=
  let u := beforeAcquire s c m
  orPoison s t m .rmw (pointBad u c m l 16) fun bad =>
    let r := objRead u c m l 16
    let s := judgeAcquire r.1 c t m (pointTags r.1 c [(l, 4)])
    match bad with
    | some a => deliver s t m.id [badP dst a]
    | none =>
      if bitN r.2.1 24 then deliver s t m.id [putP dst 0]
      else deliver (objWrite s c m l 0 4 (2 ^ 24 + g.toNat)) t m.id [putP dst 0xFF]

/-- UNLK performed; the waiters of the lock are woken (R299, R310). (Log 48.) -/
def performUnlk (s : State) (c t : Nat) (m : MemOp) (l : Loc) (g : GroupId) (dst : Nat) : State :=
  orPoison s t m .rmw (pointBad s c m l 16) fun bad =>
    let r := objRead s c m l 16
    match bad with
    | some a => deliver r.1 t m.id [badP dst a]
    | none =>
      if bitN r.2.1 24 && bitsN r.2.1 23 0 = g.toNat then
        wakeAll (deliver (objWrite r.1 c m l 0 4 0) t m.id [putP dst 0xFF]) .lk l.phys 0
      else deliver r.1 t m.id [putP dst 0]

/-- How many entries a queue holds (R295). -/
def queueLen (w : Nat) : Nat := (bitsN w 127 96 + 2 ^ 32 - bitsN w 95 64) % 2 ^ 32
def queueCap (w : Nat) : Nat := bitsN w 132 128

/-- The address of entry i of a queue. -/
def entryAddr (w i : Nat) : Nat := bitsN w 55 0 + 8 * (i % 2 ^ queueCap w)

/-- A queue entry checked and translated inside the step (R309). -/
def entryPlace (s : State) (asid w i : Nat) : Except Fail (State × Seg) :=
  let a := entryAddr w i
  let trap (cause : Cause) : Except Fail (State × Seg) := .error (.trap { cause, detail := 3, addr := BitVec.ofNat 64 a })
  if bitsN w 55 0 % 8 ≠ 0 then trap .align
  else if 2 ^ 56 ≤ a then trap .address
  else if inWin a then trap .window
  else reachPart s asid a 8 .rmw false

/-- The slice touched by an access to a queue entry. -/
def entryTouch (s : State) (m : MemOp) (asid : Nat) (g : Seg) : State := touchSlice s asid (g.va / 128) g.cls m.mask

/-- QPUSHT performed (R309, R310). The entry's write belongs to its release (R313). (Log 43.) -/
def performQpusht (s : State) (c t : Nat) (m : MemOp) (l : Loc) (v : Word) (dst : Nat) : State :=
  match pointBad s c m l 64 with
  | some a => failHeld s t m (poisonAt a) a [.p dst]
  | none =>
    let (u, w, _) := objRead s c m l 64
    if 24 < queueCap w || 2 ^ queueCap w ≤ queueLen w then deliver u t m.id [putP dst 0]
    else
      let tail := bitsN w 127 96
      let asid := taskAsid s t
      match entryPlace u asid w tail with
      | .error f => failHeld s t m f (entryAddr w tail) [.p dst]
      | .ok (u, g) =>
        let u := objWrite (entryTouch u m asid g) c m (.glob asid g) 0 8 v.toNat
        let u := objWrite u c m l 12 4 ((tail + 1) % 2 ^ 32)
        wakeAll (deliver u t m.id [putP dst 0xFF]) .qn l.phys 0

/-- QPOPT performed: its acquire judged by the bytes of the object that it reads and by the entry that it pops (R166, R309,
R310). (Log 43.) -/
def performQpopt (s : State) (c t : Nat) (m : MemOp) (l : Loc) (n dst : Nat) : State :=
  let u := beforeAcquire s c m
  match pointBad u c m l 64 with
  | some a => failHeld s t m (poisonAt a) a [.x dst, .p n]
  | none =>
    let (u, w, _) := objRead u c m l 64
    let seen := pointTags u c [(l, 17)]
    if 24 < queueCap w || queueLen w = 0 then deliver (judgeAcquire u c t m seen) t m.id [putP n 0]
    else
      let head := bitsN w 95 64
      let asid := taskAsid s t
      match entryPlace u asid w head with
      | .error f => failHeld s t m f (entryAddr w head) [.x dst, .p n]
      | .ok (u, g) =>
        if memBad u g.pa 8 then failHeld s t m (poisonAt g.va) g.va [.x dst, .p n]
        else
          let u := entryTouch u m asid g
          let u := judgeAcquire u c t m (seen ++ pointTags u c [(.glob asid g, 8)])
          let v := natOf (slRead u (some asid) g.pa 8)
          let u := objWrite u c m l 8 4 ((head + 1) % 2 ^ 32)
          wakeAll (deliver u t m.id [putX dst (BitVec.ofNat 64 v) none, putP n 0xFF]) .qs l.phys 0

/-- How many arrivals open a barrier (R311). -/
def barrierNeed (w : Nat) : Nat := let e := bitsN w 4 0; if 1 ≤ e && e ≤ 16 then e else 1

/-- The release of an opening BARARR: it carries the releases of the arrivals whose scopes and its own include each other;
for the others its task's SCOPEMISS is set (R311, R364). -/
def openRelease (s : State) (c t : Nat) (m : MemOp) (l : Loc) : State :=
  let sc := if Sync.releases m.sync then m.scope else .device
  let mine := s.arrivals.filter fun a => a.addr = l.phys
  let fits (a : RelTag) : Bool := inScope s a.scope a.agent c && inScope s sc c a.agent
  let s := if mine.all fits then s else markScope s t m.id
  tagHere s (l.plus 4) 4 (if Sync.releases m.sync || mine.any fits then some (c, sc) else none)

/-- BARARR performed: one that does not open writes its own arrival only (R311). It is a release and no acquire: of the
wait-object instructions only the try forms acquire (R313, R364). -/
def performBararr (s : State) (c t : Nat) (m : MemOp) (l : Loc) (i dst : Nat) : State :=
  orPoison s t m .rmw (pointBad s c m l 128) fun bad =>
    let (s, w, _) := objRead s c m l 128
    let answer (s : State) (v : Nat) : State := deliver s t m.id [putX dst (BitVec.ofNat 64 v) bad]
    let g0 := bitsN w 47 32
    let arrived := bitsN w 63 48
    if bad.isSome then answer s 0
    else if bitN arrived i then answer s (g0 + 2 ^ 17)
    else
      let arrived' := arrived + 2 ^ i
      let old := if arrived = 0 then s.arrivals.filter fun a => a.addr ≠ l.phys else s.arrivals
      if barrierNeed w ≤ popN arrived' 16 then
        let s := openRelease (pointWrite { s with arrivals := old } (l.plus 4) (bytesOf 4 ((g0 + 1) % 2 ^ 16))) c t m l
        let s := { s with arrivals := s.arrivals.filter fun a => a.addr ≠ l.phys }
        wakeAll (answer s (g0 + 2 ^ 16)) .bar l.phys 0
      else
        let old := if Sync.releases m.sync then ⟨none, l.phys, c, m.scope⟩ :: old else old
        answer (objWrite { s with arrivals := old } c m l (6 + i / 8) 1 (arrived' / 2 ^ (i / 8 * 8) % 256)) g0

/-- BARTRY performed (R311). -/
def performBartry (s : State) (c t : Nat) (m : MemOp) (l : Loc) (gen dst : Nat) : State :=
  let u := beforeAcquire s c m
  orPoison s t m .rmw (pointBad u c m l 128) fun bad =>
    let (s, w, _) := objRead u c m l 128
    let s := judgeAcquire s c t m (pointTags s c [(l.plus 4, 2)])
    match bad with
    | some a => deliver s t m.id [badP dst a]
    | none => deliver s t m.id [putP dst (if bitsN w 47 32 ≠ gen then 0xFF else 0)]

/-! ### PARK (R298, R312) -/

/-- Whether the condition of a kind is met (R298, R309). -/
def parkMet (s : State) (k : ParkKind) (w gen : Nat) : Bool :=
  match k with
  | .lk => !bitN w 24
  | .qn => 24 < queueCap w || queueLen w ≠ 0
  | .qs => 24 < queueCap w || queueLen w < 2 ^ queueCap w
  | .bar => bitsN w 47 32 ≠ gen
  | .rp => bitsN w 63 32 ≤ (ctrOf s (bitsN w 81 64) (bitsN w 85 82)).toNat

/-- The awaited set of a kind, the task's own group left out, and 0, which names no group (R32, R298). -/
def awaited (k : ParkKind) (w : Nat) (own : GroupId) : List GroupId :=
  let gs : List GroupId := match k with
    | .lk => [BitVec.ofNat 24 w]
    | .qn => if bitN w 184 then [BitVec.ofNat 24 (w / 2 ^ 160)] else []
    | .qs => if bitN w 216 then [BitVec.ofNat 24 (w / 2 ^ 192)] else []
    | .bar => ((below (barrierNeed w)).filter fun i => bitN w (32 * i + 536) && !bitN w (48 + i)).map fun i =>
        BitVec.ofNat 24 (w / 2 ^ (32 * i + 512))
    | .rp => if bitN w 24 then [BitVec.ofNat 24 w] else []
  (gs.filter fun g => g ≠ own && g ≠ 0).eraseDups

/-- A reply that can never be met: the code to log (R298). -/
def replyBad (s : State) (k : ParkKind) (w asid : Nat) : Option Nat :=
  let c := bitsN w 81 64
  if k ≠ .rp then none
  else if !coreOk s c then some 0x02
  else if (getCore s c).owner ≠ some asid then some 0x03
  else none

/-- The bytes of the object that a kind names (R309). -/
def ParkKind.size : ParkKind → Nat
  | .lk => 16
  | .qn => 64
  | .qs => 64
  | .bar => 128
  | .rp => 16

/-- A task counted into its object's waiters, its edges registered, its wait recorded (R300, R312). -/
def registerWait (s : State) (t : Nat) (k : TaskSt) (w : Wait) : State :=
  let s := match waitersAt w.kind with
    | some o => countWaiters s w.asid (w.obj + o) fun n => n + 1
    | none => s
  addEdges (setTask s t { k with wait := some w, wake := none }) t k.group w.groups

/-- A PARK returns at once: the history of dependences starts anew (R69). -/
def parkReturns (s : State) (t : Nat) (m : MemOp) (ps : List Put) : State :=
  match residence s t with
  | some (c, i) => deliver (modSlot s c i fun sl => { sl with hist := [] }) t m.id ps
  | none => deliver s t m.id ps

/-- PARK performed: it returns at once, or its task waits (R298, R312, R355). (Log 44.) -/
def performPark (s : State) (c t : Nat) (m : MemOp) (k : ParkKind) (l : Loc) (gen : Nat) : State :=
  match residence s t, getTask s t with
  | some (cr, i), some tk =>
    let inh := match slotAt s cr i with
      | some sl => sl.inh
      | none => false
    let (u, w, _) := objRead s c m l k.size
    match inh, pointBad s c m l k.size with
    | true, _ => parkReturns u t m []
    | false, some a => failHeld s t m (poisonAt a) a [.p 7]
    | false, none =>
      match replyBad u k w tk.asid with
      | some code => parkReturns (errPost u code (bitsN w 81 64) tk.asid 0 (bitsN w 81 64)) t m [putP 7 2]
      | none =>
        if parkMet u k w gen then parkReturns u t m []
        else
          let aw := awaited k w tk.group
          let live := aw.filter fun g => (getGroup u g).isSome
          if !aw.isEmpty && live.isEmpty then parkReturns u t m [putP 7 2]
          else
            let v : Wait :=
              { kind := k, obj := l.phys, asid := tk.asid, coord := bitsN w 81 64, ctr := bitsN w 85 82
                thresh := BitVec.ofNat 32 (w / 2 ^ 32), stage := none, groups := live }
            finishPark (registerWait (deliver u t m.id []) t tk v) cr i
  | _, _ => s

/-! ### Share messages, probes and wake messages (R302, R356, R357, R362) -/

/-- GNEW_GROUP_SETTLE: a GNEW group whose launch is done is freed once it is empty and nobody awaits it (R286). -/
def execGnewGroupSettle (index : Nat) (s : State) : Host.Outcome State Fault Refusal :=
  match tget s.groups index with
  | none => .next s
  | some r => .next (if r.live then groupCheck s (gidOf index r.gen) else s)

/-- SHARE_MESSAGE: the account of a group follows the graph, unless its message was lost with a link; a message whose
generation does not match is dropped (R301 to R303, R362, R368). -/
def execShareMessage (group : GroupId) (s : State) : Host.Outcome State Fault Refusal :=
  match getGroup s group with
  | none => .next (dropStale s group)
  | some r => .next (if r.lost.isSome then s else settleShares s group)

/-- The parked members of a group whose awaited set holds the next group of the path (R357). -/
def cycleTasks (s : State) (g next : GroupId) : List Nat :=
  ((membersOf s g).filter fun e => match e.2.wait, e.2.place with
    | some w, .parked _ _ => w.groups.contains next
    | _, _ => false).map fun e => e.1

/-- A wake message at the next group of its path: it ends there, or wakes that group's members and goes on (R357). -/
def wakeStep (s : State) (id : Nat) (path : List GroupId) : State :=
  let gone := { s with wakes := tdel s.wakes id }
  match path with
  | g :: next :: rest =>
    if (getGroup s g).isNone then dropStale gone g
    else if groupState s g ≠ 1 then gone
    else
      let s := (cycleTasks s g next).foldl (fun s t => wakeTask s t 1) s
      { s with wakes := if rest.isEmpty then tdel s.wakes id else tset s.wakes id ⟨next :: rest⟩ }
  | _ => gone

/-- A probe that has reached its waiting origin declares a cycle (R356, R363). The wake message starts at the origin, so
its first step is taken with the declaration (R357; log 30). -/
def declareCycle (s : State) (p : Probe) : State :=
  let s := match getGroup s p.origin with
    | some r => modDie s r.home fun d => { d with cycles := satInc d.cycles }
    | none => s
  wakeStep (bump s) s.seq (p.path.reverse ++ [p.origin])

/-- A probe forwarded along every edge of a waiting group, once; the group keeps the edges (R356). -/
def forwardProbe (s : State) (p : Probe) : State :=
  if s.probeRecs.any fun e => e.2.group = p.at_ && e.2.origin = p.origin && e.2.serial = p.serial then s
  else (edgesOf s p.at_).foldl (fun s e =>
    let s := { bump s with probeRecs := tset s.probeRecs s.seq ⟨p.at_, p.origin, p.serial, e.dst, s.now⟩ }
    { bump s with probes := tset s.probes s.seq ⟨p.origin, p.serial, e.dst, p.at_ :: p.path⟩ }) s

/-- PROBE_MESSAGE: a probe reaches a group (R356). -/
def execProbeMessage (id : Nat) (s : State) : Host.Outcome State Fault Refusal :=
  match tget s.probes id with
  | none => .next s
  | some p =>
    let s := { s with probes := tdel s.probes id }
    if (getGroup s p.at_).isNone then .next (dropStale s p.at_)
    else if groupState s p.at_ ≠ 1 then .next s
    else if p.at_ = p.origin then .next (declareCycle s p)
    else .next (forwardProbe s p)

/-- CYCLE_WAKE_MESSAGE: the message reaches the next group of its path (R357). -/
def execCycleWakeMessage (id : Nat) (s : State) : Host.Outcome State Fault Refusal :=
  match tget s.wakes id with
  | none => .next s
  | some w => .next (wakeStep s id w.path)

/-- PROBE_RECORD_EXPIRE: a record of a forwarded probe goes after 8,192 router cycles (R356). -/
def execProbeRecordExpire (id : Nat) (s : State) : Host.Outcome State Fault Refusal :=
  match tget s.probeRecs id with
  | none => .next s
  | some r => .next (if r.time + 8192 ≤ s.now then { s with probeRecs := tdel s.probeRecs id } else s)

/-! ### Operating points (R288, R291, R292, R365) -/

/-- The level-raises that a core's change to an operating point draws from the bank; a start counts from OP1 (R291). -/
def raiseLevels (now next : Nat) : Nat := next - Nat.max 1 now

/-- A bank's charge when full, in units of one 25th of a level-raise (R292). -/
def bankFull : Nat := 12800

/-- A core steps to an operating point. -/
def stepTo (s : State) (c op : Nat) : State := modCore s c fun k => { k with stepping := true, target := op }

/-- The hold of a die over, one slew-hold event if there was one (R292, R365). -/
def DieSt.endHold (die : DieSt) : DieSt :=
  { die with holding := false, slewholds := if die.holding then satInc die.slewholds else die.slewholds }

/-- The raises of a die that the bank can perform now, in request order. A raise whose target has fallen leaves the queue;
the first one that finds too little charge holds the die until it is performed, one slew-hold event (R292, R365). -/
def serveRaises : Nat → State → Nat → State
  | 0, s, _ => s
  | n + 1, s, d =>
    let die := getDie s d
    match die.raises with
    | [] => setDie s d { die with holding := false }
    | r :: rs =>
      let want := wantedOp s r.core
      let k := raiseLevels (getCore s r.core).op want
      if want ≤ (getCore s r.core).op then
        serveRaises n (modCore (setDie s d { die.endHold with raises := rs }) r.core fun q =>
          { q with stepping := false, target := q.op }) d
      else if die.spent + 25 * k ≤ bankFull then
        serveRaises n (stepTo (setDie s d { die.endHold with raises := rs, spent := die.spent + 25 * k }) r.core want) d
      else setDie s d { die with holding := true }

/-- Whether a core's raise waits for the bank. -/
def raiseWaits (s : State) (c : Nat) : Bool := (getDie s (dieKey c)).raises.any fun r => r.core = c

/-- A queued raise of a core withdrawn, and with it the hold that it was at the head of. -/
def withdrawRaise (s : State) (c : Nat) : State :=
  let die := getDie s (dieKey c)
  let head := die.raises.head?.any fun r => r.core = c
  setDie s (dieKey c) { (if head then die.endHold else die) with raises := die.raises.filter fun r => r.core ≠ c }

/-- OP_CHANGE: a core starts the change that its density calls for; a raise that is queued is given up where the target has
fallen to the present point, and a lowering does not wait for it (R288, R291, R365). -/
def execOpChange (core : Nat) (s : State) : Host.Outcome State Fault Refusal :=
  let k := getCore s core
  let want := wantedOp s core
  let d := dieKey core
  let serve (s : State) : State := serveRaises ((getDie s d).raises.length + 1) s d
  if isControl core || isHart core then .next s
  else if raiseWaits s core then
    if k.op < want then .next s
    else
      let s := withdrawRaise s core
      .next (serve (if want = k.op then setCore s core { k with stepping := false, target := k.op } else stepTo s core want))
  else if k.stepping || want = k.op then .next s
  else if raiseLevels k.op want = 0 then .next (stepTo s core want)
  else .next (serve (modDie (stepTo s core want) d fun die => { die with raises := die.raises ++ [⟨core, s.now⟩] }))

/-- CLOCK_SWITCH: the core's clock has the new period; no cycle is lost (R291). -/
def execClockSwitch (core : Nat) (s : State) : Host.Outcome State Fault Refusal :=
  let k := getCore s core
  if !k.stepping || raiseWaits s core then .next s
  else .next (setCore s core { k with op := k.target, stepping := false })

/-- SLEW_HOLD_END: the bank has recharged enough for the raise at the head (R292, R365). -/
def execSlewHoldEnd (die : Nat) (s : State) : Host.Outcome State Fault Refusal :=
  let d := getDie s die
  .next (serveRaises (d.raises.length + 1) s die)

/-- SLEW_UNASSISTED: a raise that has waited 1 µs is performed without the bank; its own core's issue is held for 200 ns
(R365). One whose target has fallen is no raise any more, and leaves the queue. -/
def execSlewUnassisted (die : Nat) (s : State) : Host.Outcome State Fault Refusal :=
  let d := getDie s die
  match d.raises with
  | [] => .next s
  | r :: rs =>
    if s.now < r.since + 1600 then .next s
    else if wantedOp s r.core ≤ (getCore s r.core).op then .next (serveRaises (d.raises.length + 1) s die)
    else
      let s := setDie s die { d with
        raises := rs, holding := false, slewholds := satInc d.slewholds, unassisted := satInc d.unassisted }
      let s := modCore s r.core fun k => { k with stepping := true, target := wantedOp s r.core, settle := s.now + 320 }
      .next (serveRaises (rs.length + 1) s die)

end Sys2Proof.Machine
end

