-- ==== Sys2Proof/Machine/Perform.lean ====
section
/-!
DEFINITION. The performing of direct operations (R158 to R160), of detached ones (R53), and of those lost with a link
(R368).
-/
set_option Elab.async false
namespace Sys2Proof.Machine

/-- An operation performed from a core for a task; none while it has still to wait. -/
def performKind (s : State) (c t : Nat) (m : MemOp) : OpKind → Option State
  | .load ro l n ext dst => some (performLoad s c t m ro l n ext dst)
  | .loadV ro l g dst => some (performLoadV s c t m ro l g dst)
  | .store l n v => some (performStore s c t m l n v)
  | .storeV l g v => some (performStoreV s c t m l g v)
  | .gatherL core e ls dst => some (performGather s t m core e ls dst)
  | .scatterL core e ls => some (performScatter s t m core e ls)
  | .amo l op n ext v dst => some (performAmo s c t m l op n ext v dst)
  | .cas l n ext cmp new dst => some (performCas s c t m l n ext cmp new dst)
  | .tblld src b => some (performTblld s c t m src b)
  | .wbr ls rem dst => some (performWbr s c t m ls rem dst)
  | .invr ro ls rem dst => some (performInvr s c t m ro ls rem dst)
  | .wbinvr ls rem dst => some (performWbinvr s c t m ls rem dst)
  | .zeror ls rem dst => some (performZeror s c t m ls rem dst)
  | .lockl lock ls n bm dst => some (performLock s t m lock ls n bm dst)
  | .cpyq h dst => some (performCpyq s t m h dst)
  | .send coord toff ctr data src => some (performSend s c t m coord toff ctr data src)
  | .cntrd ctr dst => some (performCntrd s c t m ctr dst)
  | .cntadd coord ctr v => some (performCntadd s t m coord ctr v)
  | .cntset ctr v => performCntset s c t m ctr v
  | .arm l dst => some (performArm s c t m l dst)
  | .launch l dst => performLaunch s c t m l dst
  | .nsend l => some (performNsend s c t m l)
  | .matrix _ => none                     -- MATRIX_ENTRY_SERVICE performs it
  | .kstage ls dst => performKstage s c t m ls dst
  | .kstageU h closed dst => some (performKstageU s t m h closed dst)
  | .trylk l g dst => some (performTrylk s c t m l g dst)
  | .unlk l g dst => some (performUnlk s c t m l g dst)
  | .qpusht l v dst => some (performQpusht s c t m l v dst)
  | .qpopt l n dst => some (performQpopt s c t m l n dst)
  | .bararr l i dst => some (performBararr s c t m l i dst)
  | .bartry l gen dst => some (performBartry s c t m l gen dst)
  | .park k l gen => some (performPark s c t m k l gen)

/-- Whether an operation would take effect before an older one of its slot that would trap: what issues after a trapping
operation has no effect, and what takes effect cannot be taken back (R171; log 32). -/
def overtakes (s : State) (t : Nat) (m : MemOp) : Bool :=
  !m.kind.readsOnly && (match residence s t with
    | some (c, i) => (match slotAt s c i with
      | some sl => trapsAhead s c sl m.id
      | none => false)
    | none => false)

/-- Whether an operation can be performed now: nothing ordered before it is outstanding, no message of it is on its way, no
lost link keeps it, and nothing older would trap (R158, R159, R171, R368). -/
def opReady (s : State) (t : Nat) (m : MemOp) : Bool :=
  !m.sent && m.lost.isNone && depsGone s t m.deps && !overtakes s t m

/-- The older operations of its slot past the point at which they could trap, once an operation takes effect that cannot be
taken back; one that would itself meet poison takes none (R171; log 32). -/
def passOlder (s : State) (t : Nat) (m : MemOp) : State :=
  if m.kind.readsOnly then s
  else match residence s t with
    | some (c, i) => modSlot s c i fun sl =>
        if poisonAhead s c sl m.id then sl else { sl with undo := sl.undo.filter fun u => m.id ≤ u.id }
    | none => s

/-- An outstanding operation of a task by name. -/
def findOp (s : State) (t op : Nat) : Option MemOp := (opsOf s t).find? fun m => m.id = op

/-- The operation performed when it can be. -/
def performOp (s : State) (t op : Nat) : State :=
  match findOp s t op with
  | none => s
  | some m => if opReady s t m then (performKind (passOlder s t m) (homeCore s t) t m m.kind).getD s else s

/-- MEMORY_OP_PERFORM: an operation of a resident task is performed (R158). -/
def execMemoryOpPerform (task op : Nat) (s : State) : Host.Outcome State Fault Refusal :=
  .next (if (residence s task).isSome then performOp s task op else s)

/-- DETACHED_ACCESS_PERFORMED: a detached access is performed; its result goes to the saved record (R53). -/
def execDetachedAccessPerformed (task op : Nat) (s : State) : Host.Outcome State Fault Refusal :=
  .next (if (residence s task).isNone then performOp s task op else s)

/-! ### Links that fail (R368, R369) -/

/-- What R368 says of an operation whose link is declared down: 0 nothing, 1 its destinations are poisoned, 2 its effect
does not take place. -/
def lossOf (m : MemOp) : Nat :=
  if !m.kind.locs.any Loc.isGlobal then 0
  else match m.kind with
  | .load _ _ _ _ _ => 1
  | .loadV _ _ _ _ => 1
  | .amo _ _ _ _ _ _ => 1
  | .cas _ _ _ _ _ _ => 1
  | .trylk _ _ _ => 1
  | .unlk _ _ _ => 1
  | .qpusht _ _ _ => 1
  | .qpopt _ _ _ => 1
  | .bararr _ _ _ => 1
  | .bartry _ _ _ => 1
  | .store _ _ _ => 2
  | .storeV _ _ _ => 2
  | _ => 0                                 -- a message is lost under its own name

/-- The destinations of an operation, poisoned by its own access (R369). -/
def lostPuts (m : MemOp) : List Put :=
  let x (d : Nat) : List Put := [putX d 0 (some m.ea)]
  match m.kind with
  | .load _ _ _ _ d => x d
  | .loadV _ _ g d => [{ reg := .v d, val := 0, mask := g, bad := some m.ea }]
  | .amo _ _ _ _ _ d => x d
  | .cas _ _ _ _ _ d => x d
  | .trylk _ _ d => [badP d m.ea]
  | .unlk _ _ d => [badP d m.ea]
  | .qpusht _ _ d => [badP d m.ea]
  | .qpopt _ n d => x d ++ [badP n m.ea]
  | .bararr _ _ d => x d
  | .bartry _ _ d => [badP d m.ea]
  | _ => []

/-- Whether an operation would trap when it is performed (R309, R349). -/
def stopsWhenPerformed (s : State) (c t : Nat) (m : MemOp) : Bool :=
  let bad (l : Loc) (n : Nat) : Bool := (pointBad s c m l n).isSome
  let queue (l : Loc) (push : Bool) : Bool :=
    let r := objRead s c m l 64
    let w := r.2.1
    let blocked := 24 < queueCap w || (if push then 2 ^ queueCap w ≤ queueLen w else queueLen w = 0)
    bad l 64 || !blocked && (match entryPlace r.1 (taskAsid s t) w (if push then bitsN w 127 96 else bitsN w 95 64) with
      | .error _ => true
      | .ok (s, g) => !push && memBad s g.pa 8)
  match m.kind with
  | .amo l _ n _ _ _ => bad l n
  | .cas l n _ _ _ _ => bad l n
  | .trylk l _ _ => bad l 16
  | .unlk l _ _ => bad l 16
  | .qpusht l _ _ => queue l true
  | .qpopt l _ _ => queue l false
  | .bararr l _ _ => bad l 128
  | .bartry l _ _ => bad l 128
  | _ => false

/-- Registers of a task poisoned by an operation: where it is resident, or in its saved record. -/
def poisonDests (s : State) (t id : Nat) (ps : List Put) : State :=
  match residence s t with
  | some (c, i) => modSlot s c i fun sl =>
      { ps.foldl SlotSt.putReg sl with undo := sl.undo.map fun u => if id < u.id then u.puts sl ps else u }
  | none => match getTask s t with
    | some k => (match k.kept with
      | some (_, r) => ps.foldl (fun s p => putRecord s r p) s
      | none => s)
    | none => s

/-- A lost operation performed, its loss logged with its link (R368). Whether a lost request had acted at its target before
its reply was lost is left open (log 23). -/
def performLost (s : State) (t link : Nat) (m : MemOp) : State :=
  let c := homeCore s t
  if lossOf m = 2 then errPost (deliver s t m.id []) 0x01 c (taskAsid s t) m.ea link
  else if Config.replyLost m.id && !m.kind.readsOnly && !stopsWhenPerformed s c t m then
    poisonDests ((performKind s c t { m with lost := none } m.kind).getD s) t m.id (lostPuts m)
  else deliver s t m.id (lostPuts m)

/-- A counter message lost with its link: it has no effect at its target, and its sender's operation is over (R368). -/
def messageLost (s : State) (id link : Nat) (m : CMsg) : State :=
  errPost (msgDone { s with cmsgs := tdel s.cmsgs id } m) 0x01 m.coord (m.asid.getD 0) 0 link

/-- The name of a group's share message, above those handed out to operations and messages. -/
def shareName (g : GroupId) : Nat := 2 ^ 40 + g.toNat

/-- A share message lost with its link: it has changed no account, and the next one follows the graph again (R362, R368). -/
def shareLost (s : State) (g : GroupId) (r : GroupSt) (link : Nat) : State :=
  errPost (setGroup s g { r with lost := none }) 0x01 (packCoord (if r.home < 40 then r.home else r.home + 16) 0 0) r.asid 0 link

/-- LINK_LOSS_COMPLETE: 32,000 router cycles after the link went down, an operation of a task, or the message of that name,
is performed (R368). -/
def execLinkLossComplete (task op : Nat) (s : State) : Host.Outcome State Fault Refusal :=
  let due (l : Option (Nat × Nat)) : Option Nat := match l with
    | some (t0, link) => if t0 + 32000 ≤ s.now then some link else none
    | none => none
  match findOp s task op with
  | some m => (match due m.lost with
    | some link => .next (performLost s task link m)
    | none => .next s)
  | none => match tget s.cmsgs op with
    | some m => (match due m.link with
      | some link => .next (messageLost s op link m)
      | none => .next s)
    | none =>
      let g := BitVec.ofNat 24 (op - 2 ^ 40)
      match (if 2 ^ 40 ≤ op then getGroup s g else none) with
      | some r => (match due r.lost with
        | some link => .next (shareLost s g r link)
        | none => .next s)
      | none => .next s

/-- The other end of a link: die and port, a gateway die g being 40 + g (R15). -/
def linkEnd (die port : Nat) : Option (Nat × Nat) :=
  if 40 ≤ die then none
  else match port with
    | 0 => if die < 8 then some (40 + die / 2, die % 2) else some (die - 8, 2)
    | 1 => if die % 8 = 7 then none else some (die + 1, 3)
    | 2 => if 32 ≤ die then some (44 + (die - 32) / 2, die % 2) else some (die + 8, 0)
    | 3 => if die % 8 = 0 then none else some (die - 1, 1)
    | 4 => if die = 39 then none else some (die + 1, 5)
    | 5 => if die = 0 then none else some (die - 1, 4)
    | _ => none

/-- A link as the error log names it (R367). -/
def linkAux (die port : Nat) : Nat := die + 256 * port

/-- The operations that use a link when it is declared down. -/
def loseOps (s : State) (t die port : Nat) (l : List MemOp) : List MemOp :=
  l.map fun m =>
    if lossOf m ≠ 0 && opReady s t m && Config.crosses die port m.id then
      { m with lost := some (s.now, linkAux die port) } else m

/-- A group's account, its share message lost if one is on its way over the link. -/
def loseShare (s : State) (die port idx : Nat) (r : GroupSt) : GroupSt :=
  let g := gidOf idx r.gen
  if r.live && r.lost.isNone && settleShares s g != s && Config.crosses die port (shareName g) then
    { r with lost := some (s.now, linkAux die port) } else r

/-- Every outstanding request and message that used the link is lost (R368). -/
def loseLink (s : State) (die port : Nat) : State :=
  { s with
    cores := s.cores.map fun e => (e.1, { e.2 with slots := e.2.slots.map fun q =>
      (q.1, { q.2 with ops := loseOps s q.2.task die port q.2.ops }) })
    tasks := s.tasks.map fun e => (e.1, { e.2 with detached := loseOps s e.1 die port e.2.detached })
    cmsgs := s.cmsgs.map fun e =>
      (e.1, if e.2.link.isNone && Config.crosses die port e.1 then
        { e.2 with link := some (s.now, linkAux die port) } else e.2)
    groups := s.groups.map fun e => (e.1, loseShare s die port e.1 e.2) }

/-- A link declared down at both ends, logged, the topology generations advanced (R368, R372). -/
def declareDown (s : State) (die port : Nat) : State :=
  match linkEnd die port with
  | none => s
  | some (d2, p2) =>
    if (getDie s die).links.contains port then s
    else
      let s := errPost (loseLink s die port) 0x01 (packCoord (if die < 40 then die else die + 16) 0 0) 0 0 (linkAux die port)
      let down (p : Nat) (d : DieSt) : DieSt := { d with
        links := p :: d.links, resends := tdel d.resends p, topo := d.topo + 1 }
      modDie (modDie s die (down port)) d2 (down p2)

/-- How many times in a row a flit of a link has been resent: a resend that has not failed within the time to cross the link
twice was good (R230, R368; log 46). -/
def resentInRow (s : State) (die port : Nat) : Nat :=
  match tget (getDie s die).resends port with
  | some (n, t) => if s.now ≤ t + (if 4 ≤ port then 64 else 48) then n else 0
  | none => 0

/-- LINK_DOWN: a seventeenth resend in a row would be needed (R368). -/
def execLinkDown (die port : Nat) (s : State) : Host.Outcome State Fault Refusal :=
  .next (if resentInRow s die port < 16 then s else declareDown s die port)

/-- LINK_FLIT_RESEND: a flit that failed its check is sent again, up to 16 times in a row (R368). (Log 46.) -/
def execLinkFlitResend (die port : Nat) (s : State) : Host.Outcome State Fault Refusal :=
  let n := resentInRow s die port
  if (linkEnd die port).isNone || (getDie s die).links.contains port then .next s
  else if 16 ≤ n then .next (declareDown s die port)
  else .next (modDie s die fun d => { d with resends := tset d.resends port (n + 1, s.now) })

end Sys2Proof.Machine
end

