-- ==== Sys2Proof/Machine/Events.lean ====
section
/-!
DEFINITION. Device events of cores, tasks and memory: claims, fetches, interrupts, pre-emption, placement, translation
invalidation, notices and page requests, registers (R42 to R54, R66, R103, R155, R194, R331, R332, R337 to R344).
-/
set_option Elab.async false
namespace Sys2Proof.Machine

/-! ### Cores and tasks -/

/-- CLAIM_RELEASE: a variable-latency producer that needs no memory writes its destination and releases its claim (R66,
R68). A slot that sleeps keeps those of its SLEEP. -/
def execClaimRelease (core slot id : Nat) (s : State) : Host.Outcome State Fault Refusal :=
  .next (modSlot s core slot fun sl =>
    match sl.hold with
    | .sleep _ _ _ _ _ => sl
    | _ => { sl with inflight := sl.inflight.filter fun e => !(e.id = id && e.left.isNone && !e.byOp) })

/-- ICACHE_FILL: a missed fetch block arrives (R50). -/
def execIcacheFill (core slot : Nat) (s : State) : Host.Outcome State Fault Refusal := .next (fillBlock s core slot)

/-- USER_INTERRUPT_TAKE: the oldest pending user-level interrupt is taken (R103, R212). -/
def execUserInterruptTake (core slot : Nat) (s : State) : Host.Outcome State Fault Refusal :=
  match slotAt s core slot with
  | none => .next s
  | some sl => .next (if userIntReady s sl then takeUserInt s core slot else s)

/-- PREEMPTION_REQUEST: a resident task is asked to give way, and does so at once when its slot stands at a boundary with
nothing outstanding (R51, R52). -/
def execPreemptionRequest (core slot : Nat) (s : State) : Host.Outcome State Fault Refusal :=
  .next (boundary (askPreempt s core slot) core slot)

/-- How long ago a slot was asked to give way, in router cycles. -/
def requestAge (s : State) (sl : SlotSt) : Option Nat := sl.preReq.map fun t => s.now - t

def ageAtLeast (s : State) (sl : SlotSt) (n : Nat) : Bool :=
  match requestAge s sl with
  | some a => decide (n ≤ a)
  | none => false

/-- HANDLER_CUT: a user-level handler that has not returned 1 µs after the request is cut (R331). -/
def execHandlerCut (core slot : Nat) (s : State) : Host.Outcome State Fault Refusal :=
  match slotAt s core slot with
  | none => .next s
  | some sl =>
    match getTask s sl.task with
    | none => .next s
    | some k =>
      if ageAtLeast s sl 1600 && sl.inh && sl.level = k.level0 && sl.hold.atBoundary then
        .next (beginPreempt (cutHandler (undoKsend s core slot) core slot) core slot)
      else .next s

/-- HANDLER_ABANDON: a runtime or firmware handler that has not returned 2 µs after the request is abandoned, once its
accesses are performed (R52, R332). -/
def execHandlerAbandon (core slot : Nat) (s : State) : Host.Outcome State Fault Refusal :=
  match slotAt s core slot with
  | none => .next s
  | some sl =>
    match getTask s sl.task with
    | none => .next s
    | some k =>
      if ageAtLeast s sl 3200 && sl.level ≠ k.level0 && sl.hold.atBoundary then
        .next (holdThen (undoKsend s core slot) core slot (.abandon (brokenSleep s core slot)))
      else .next s

/-- A slot whose instruction has not taken effect yet made to stand before it; one whose operation is outstanding goes on
as a detached access, but for PARK, which has registered nothing yet. -/
def unhold (sl : SlotSt) : SlotSt :=
  let back (sl : SlotSt) : SlotSt := { sl with hold := .none, pc := sl.pc - 16 }
  match sl.hold with
  | .none => sl
  | .preempt _ => { sl with hold := .none }
  | .abandon _ => { sl with hold := .none }
  | .trapping _ => { sl with hold := .none }
  | .paging _ _ => { sl with hold := .none }
  | .suspend _ _ _ => { sl with hold := .none }
  | .saving _ _ _ _ => { sl with hold := .none }
  | .sleep _ _ _ _ _ => { sl with hold := .none }
  | .ending => back sl
  | .halting => back sl
  | .yielding _ => back sl
  | .returning _ => back sl
  | .wtSave _ _ => back sl
  | .ksend _ => { sl with hold := .none }
  | .ksendFull _ => { sl with hold := .none }
  | .op id =>
    match sl.ops.find? fun m => m.id = id with
    | none => { sl with hold := .none }
    | some m => match m.kind with
      | .park _ _ _ => { sl with hold := .none, pc := m.pc, ops := sl.ops.filter fun o => o.id ≠ id }
      | _ => { sl with hold := .none }

/-- The task of a slot saved where it stands, its outstanding accesses detached: steps 3 to 6 of R52 (R53). A save that waits
on a page is tried again. -/
def saveNow (s : State) (c i : Nat) (fw : Bool) : State :=
  let now (s : State) : State :=
    let s := match slotAt s c i with
      | some sl => (match sl.hold with
        | .wtSave _ _ => dropReserved s c sl.task
        | _ => s)
      | none => s
    let s := toPlacement (modSlot (undoKsend (wakeSleep s c i) c i) c i unhold) c i
    match slotAt s c i with
    | none => s
    | some sl => saveWhole s c i 1 sl.pc none fw none
  match slotAt s c i with
  | none => s
  | some sl => match sl.hold with
    | .saving _ _ _ _ => settleHold (setSlot s c i { sl with saveWait := none }) c i
    | _ => now s

/-- DETACH_TIMEOUT: an access that waits on a lost link is detached 4 µs after the request, and so is a KSENDT whose answer has
not come (R53). -/
def execDetachTimeout (core slot : Nat) (s : State) : Host.Outcome State Fault Refusal :=
  match slotAt s core slot with
  | none => .next s
  | some sl =>
    let late := sl.ops.any (fun m => m.lost.isSome) || (sl.ops.isEmpty && awaitsAnswer s sl.task)
    .next (if ageAtLeast s sl 6400 && late then saveNow s core slot true else s)

/-- PLACEMENT: the placement queue of a core is served for a task that starts (R42, R274). -/
def execPlacement (core : Nat) (s : State) : Host.Outcome State Fault Refusal := .next (serveQueue s core false)

/-- The saved task that the scheduler firmware queues next on a core: its own coordinate, or, when that is out of service,
a core of its launch, once its record is not pinned to another (R38, R52, R104, R376). -/
def firmwareTask (s : State) (c : Nat) : Option (Nat × RecAt) :=
  let may (k : TaskSt) (r : RecAt) : Bool :=
    k.fw && !outOfService s c && !(getCore s c).freezing && pinAllows s c k (.record r) &&
      (k.home = c || (outOfService s k.home &&
        (match tget s.launches k.launch with | some l => l.r.cores.contains c | none => false)))
  s.tasks.findSome? fun e =>
    match e.2.place with
    | .saved _ r => if may e.2 r then some (e.1, r) else none
    | .parked _ r => if may e.2 r then some (e.1, r) else none
    | _ => none

/-- CONTINUATION_RESUME: a queued record is resumed on a core, or one that is new there finds no slot; with no such record the
firmware queues one (R46, R52). One that it moves for a core out of service acquires as any that a core takes over (R104). -/
def execContinuationResume (core : Nat) (s : State) : Host.Outcome State Fault Refusal :=
  if (getCore s core).queue.any fun q =>
      q.start.isRecord && (placeable s core q || (!q.waiting && admissible s core q)) then .next (serveQueue s core true)
  else match firmwareTask s core with
    | some (t, r) =>
      let moved := match getTask s t with
        | some k => k.home ≠ core
        | none => false
      .next (enqueueAt (modTask s t fun k => { k with fw := false }) t core (.record r) moved)
    | none => .next s

/-- DONE_INCREMENT: a launch whose tasks have ended and whose operations are performed is done (R43). -/
def execDoneIncrement (launch : Nat) (s : State) : Host.Outcome State Fault Refusal := .next (finishLaunch s launch)

/-! ### Translation invalidation (R155, R196) -/

/-- Whether TBINV0 covers a virtual address of an ASID. -/
def tbCovers (tb0 : Word) (asid va : Nat) : Bool :=
  match fld tb0 11 10 with
  | 0 => asid = fld tb0 9 0 && va / 0x10000 = fld tb0 55 16
  | 1 => asid = fld tb0 9 0 && va / 0x400000 = fld tb0 55 22
  | 2 => asid = fld tb0 9 0
  | _ => true

/-- Whether it touches a translation that a slice holds. -/
def tbTouches (tb0 : Word) (e : TlbEntry) : Bool :=
  if e.pte.big then
    tbCovers tb0 e.asid (e.page * 0x400000) ||
      (fld tb0 11 10 = 0 && e.asid = fld tb0 9 0 && e.page = fld tb0 55 22)
  else tbCovers tb0 e.asid (e.page * 0x10000)

/-- Covered lines of one cluster: dirty bytes written back, then every line dropped. -/
def tbCluster (tb0 : Word) (s : State) (cl : Nat) : State :=
  let ls := (getCluster s cl).near.filter fun l => tbCovers tb0 l.asid (128 * l.line)
  let s := ls.foldl (fun s l => writeBack s l 0 128 none) s
  modCluster s cl fun u => { u with
    near := u.near.filter fun l => !tbCovers tb0 l.asid (128 * l.line)
    ro := u.ro.filter fun l => !tbCovers tb0 l.asid (128 * l.line)
    icache := u.icache.filter fun b => match b.asid with
      | some a => !tbCovers tb0 a (64 * b.blk)
      | none => true }

/-- Steps 1 and 2 of the invalidation; covered lines are unlocked, and their tags leave the presence filter (R196, R348). -/
def tbInvalidate (s : State) (tb0 : Word) : State :=
  let s := (s.clusters.map fun e => e.1).foldl (tbCluster tb0) s
  { s with
    tlb := s.tlb.filter fun e => !tbTouches tb0 e
    presence := s.presence.filter fun e => !tbCovers tb0 e.asid (128 * e.line)
    slices := s.slices.map fun e => (e.1, { e.2 with sets := e.2.sets.map fun q => (q.1, q.2.map fun w =>
      (w.1, if tbCovers tb0 w.2.asid (128 * w.2.line) then { w.2 with locked := false } else w.2)) }) }

/-- The outstanding direct operations of every task, with the places that each uses. -/
def allOps (s : State) : List (Nat × List Loc) :=
  ((s.cores.map fun e => (e.2.slots.map fun q => q.2.ops).flatten).flatten ++ (s.tasks.map fun e => e.2.detached).flatten).map
    fun m => (m.id, m.kind.locs)

/-- The keyed commands whose records are still to be read, with the places of those (R277). -/
def unreadOps (s : State) : List (Nat × List Loc) :=
  s.cmds.filterMap fun e => match e.2.kind, e.2.state with
    | .ksend ls _ _, .issued => some (e.1, ls)
    | _, _ => none

/-- The decode tables of matrix units that MTBLs have still to read, with their places (R247). -/
def queuedTables (s : State) : List (Nat × List Loc) :=
  (s.cores.map fun e => e.2.mq.filterMap fun q => match q.kind with
    | .mtbl src _ => some (q.id, src)
    | _ => none).flatten

/-- The accesses still to be performed that use a translation. -/
def translated (s : State) : List (Nat × List Loc) := allOps s ++ unreadOps s ++ queuedTables s

def tbWaits (tb0 : Word) (ls : List Loc) : Bool :=
  ls.any fun l => match l with
    | .loc _ _ => false
    | .glob asid g => tbCovers tb0 asid g.va

/-- TBINV1_WRITE: the invalidation of the range in TBINV0 starts (R155). -/
def execTbinv1Write (core : Nat) (v : Word) (s : State) : Host.Outcome State Fault Refusal :=
  let tb0 := (tget s.gw.tb0 core).getD 0
  let tb1 := v &&& 0x7FFFFF
  let wait := ((translated s).filter fun e => tbWaits tb0 e.2).map fun e => e.1
  let s := tbInvalidate { s with gw := { s.gw with tb1 := tset s.gw.tb1 core tb1 } } tb0
  .next { bump s with tbinvs := tset s.tbinvs s.seq ⟨core, tb0, tb1, wait⟩ }

/-- TB_INVALIDATION_DONE: every access that used an old translation is performed, its copies gone too (R155). (Log 39.) -/
def execTbInvalidationDone (id : Nat) (s : State) : Host.Outcome State Fault Refusal :=
  match tget s.tbinvs id with
  | none => .next s
  | some b =>
    if b.wait.any fun w => (translated s).any fun e => e.1 = w then .next s
    else
      let s' := (s.clusters.map fun e => e.1).foldl (tbCluster b.tb0) { s with tbinvs := tdel s.tbinvs id }
      .next (if fld b.tb1 22 22 = 1 then sendInc s' (fld b.tb0 9 0) (fld b.tb1 17 0) (fld b.tb1 21 18) else s')

/-! ### Waits on pages (R340, R344, R346, R354) -/

/-- The cluster whose unit's front holds a command. -/
def frontOf (s : State) (id : Nat) : Option Nat :=
  s.clusters.findSome? fun e => if e.2.unit.front.any fun f => f.cmd = id then some e.1 else none

/-- Whether a command waits on a page request, posted or not. -/
def pageWaits (s : State) (id : Nat) : Bool :=
  s.gw.prq.any fun e => (e.2.cmds.any fun x => x.2 = id) || e.2.retry.any fun r => r.who = .cmd id

/-- What a command that waited goes on as. -/
def Cmd.resumed (m : Cmd) : CmdState :=
  match m.kind with
  | .cpy _ _ _ rtn _ => if rtn = 0 then .running else .queued
  | .mcmd _ => if m.pat.isNone then .issued else .running
  | _ => .running

/-- A command told of an answer: with fail = 1 it ends FAULTED; else it retries once nothing that it waits on is left (R340,
R344, R346). rec: the fault record that was answered. -/
def retryCmd (s : State) (id : Nat) (rec : Option Nat) (fail : Bool) : State :=
  match tget s.cmds id with
  | none => s
  | some m =>
    match m.state with
    | .waiting recs =>
      if fail then
        let s := dropPageWaits s [id]
        match frontOf s id with
        | some cl => frontDone s cl id 6 m.offset 0 (recOfCmd m).last
        | none => cmdEnd s id 6 m.offset 0
      else
        let left := recs.filter fun i => some i ≠ rec
        setCmd s id { m with state := if left.isEmpty && !pageWaits s id then m.resumed else .waiting left }
    | _ => s

/-- A Husk access that waited retries, or fails (R354). -/
def retryStage (s : State) (c st : Nat) (b : StageSt) (fail : Bool) : State :=
  if !fail then modStage s c st fun b => { b with await := none }
  else match b.busy with
    | some (0, key) => lookupLost c st b key s
    | some (1, key) => (match ctxOfKey (getCore s c) st key with
      | some (i, p) => spillLost c st i b p true s
      | none => modStage s c st fun b => { b with busy := none, await := none })
    | some (_, key) => (match ctxOfKey (getCore s c) st key with
      | some (i, _) => reloadLost c st i b key s
      | none => modStage s c st fun b => { b with busy := none, await := none })
    | none => modStage s c st fun b => { b with await := none }

/-- A save that waited is tried again, or the coroutine is lost (R354). -/
def retrySave (s : State) (c i : Nat) (sl : SlotSt) (fail : Bool) : State :=
  match getTask s sl.task with
  | none => s
  | some k =>
    let s := setSlot s c i { sl with saveWait := none }
    if fail then
      let s := match k.wait with
        | some w => unwait s w
        | none => s
      saveLost s c sl.task k (saveSlot s k).va
    else settleHold s c i

/-- The Husk accesses and saves that wait on a fault record, or on a page request, answered. mine tells by ASID which are
meant. -/
def answerWaits (s : State) (on : Bool × Nat) (mine : Nat → Bool) (fail : Bool) : State :=
  let s := s.cores.foldl (fun s e => e.2.stages.foldl (fun s q =>
    if q.2.await = some on && mine q.2.asid then
      (match tget (getCore s e.1).stages q.1 with
       | some b => retryStage s e.1 q.1 b fail
       | none => s)
    else s) s) s
  s.cores.foldl (fun s e => e.2.slots.foldl (fun s q =>
    match slotAt s e.1 q.1 with
    | none => s
    | some sl =>
      let asid := match getTask s sl.task with
        | some k => k.asid
        | none => 0
      if sl.saveWait = some on && mine asid then retrySave s e.1 q.1 sl fail else s) s) s

/-- A task told that a fault of an instruction is unresolvable: the instruction's next execution takes that PAGE with
unresolved = 1 (R340). -/
def markTask (s : State) (f : Faulter) : State :=
  modTask s f.task fun k => { k with marks := k.marks ++ [(f.pc, f.trap.orDetail 8)] }

/-- A notice for a record: the done bit, an increment for every attached task, a retry for every attached command (R340).
(Log 48.) -/
def notice (s : State) (asid i : Nat) (fail : Bool) : State :=
  let r := getRing s asid
  let a := recAddr r i
  if 2 ^ fld r.cfg 4 0 ≤ i || recFlags s a % 2 = 0 || bitN (recFlags s a) 2 then s
  else
    let s := ringPut s asid a 1 (recFlags s a % 16 ||| (if fail then 12 else 4))
    let fs := r.tasks.filter fun f => f.record = i
    let s := setRing s asid { r with tasks := r.tasks.filter fun f => f.record ≠ i }
    let s := fs.foldl (fun s f =>
      sendInc (if fail then markTask s f else s) asid f.core (fld r.cfg 51 48)) s
    let cs := (s.cmds.filter fun e => e.2.asid = asid && (match e.2.state with
      | .waiting recs => recs.contains i
      | _ => false)).map fun e => e.1
    let s := cs.foldl (fun s id => retryCmd s id (some i) fail) s
    answerWaits s (false, i) (fun x => x = asid) fail

/-- FQNOTE_WRITE: a notice (R337, R340). -/
def execFqnoteWrite (v : Word) (s : State) : Host.Outcome State Fault Refusal :=
  let v := v &&& 0x1FFF3FF
  .next (notice { s with gw := { s.gw with fqnote := v } } (fld v 9 0) (fld v 23 12) (fld v 24 24 = 1))

/-- FQRING_WRITE: the fault ring of the ASID in FQSEL set up, its next entry 0 (R337, R339). -/
def execFqringWrite (v : Word) (s : State) : Host.Outcome State Fault Refusal :=
  let asid := s.gw.fqsel.toNat
  .next (setRing s asid { getRing s asid with cfg := v &&& 0x800FFFFFFFFFF01F, next := 0 })

/-- What waits for a miss told that it has been posted under a tag; id named it until then. -/
def postedAs (s : State) (vf id tag : Nat) : Missed → State
  | .task t => let q := getPrq s vf; setPrq s vf { q with tasks := q.tasks ++ [(tag, t)] }
  | .cmd m => let q := getPrq s vf; setPrq s vf { q with cmds := q.cmds ++ [(tag, m)] }
  | .husk c st => modStage s c st fun b =>
      if b.await = some (true, unposted + id) then { b with await := some (true, tag) } else b
  | .save c i => modSlot s c i fun sl =>
      if sl.saveWait = some (true, unposted + id) then { sl with saveWait := some (true, tag) } else sl

/-- PAGE_REQUEST_RETRY: a miss that found its queue full or off is posted again after 4,096 router cycles (R343). -/
def execPageRequestRetry (id : Nat) (s : State) : Host.Outcome State Fault Refusal :=
  match s.gw.prq.findSome? fun e => (e.2.retry.find? fun r => r.id = id).map fun r => (e.1, r) with
  | none => .next s
  | some (vf, r) =>
    if s.now < r.time + 4096 then .next s
    else match pagePost s vf r.asid r.gpa r.kinds with
      | (s, none) =>
        let q := getPrq s vf
        .next (setPrq s vf { q with retry := q.retry.map fun x => if x.id = id then { x with time := s.now } else x })
      | (s, some tag) =>
        let q := getPrq s vf
        .next (postedAs (setPrq s vf { q with retry := q.retry.filter fun x => x.id ≠ id }) vf id tag r.who)

/-- A task suspended by a stage-two miss queued again; with fail = 1 its instruction takes PAGE at its resumption (R344). One
whose save still waits on a page of its own is queued when it is saved. -/
def answerTask (s : State) (t : Nat) (fail : Bool) : State :=
  let s := modTask s t fun k => { k with missFail := fail }
  match getTask s t with
  | none => s
  | some k =>
    match k.place with
    | .saved _ r => enqueue s t (.record r) false
    | .resident c i => modSlot s c i fun sl => { sl with hold := match sl.hold with
        | .saving o f _ g => .saving o f true g
        | h => h }
    | _ => s

/-- PRRESP_WRITE: an answer to a page request (R343, R344). -/
def execPrrespWrite (vf : Nat) (v : Word) (s : State) : Host.Outcome State Fault Refusal :=
  let tag := fld v 19 8
  let fail := fld v 20 20 = 1
  let q := getPrq s vf
  let s := setPrq s vf { q with resp := v &&& 0x1FFF00 }
  if !(q.open_.any fun e => e.1 = tag) then .next s
  else
    let q := getPrq s vf
    let s := setPrq s vf { q with
      open_ := q.open_.filter fun e => e.1 ≠ tag
      tasks := q.tasks.filter fun e => e.1 ≠ tag
      cmds := q.cmds.filter fun e => e.1 ≠ tag }
    let s := (q.tasks.filter fun e => e.1 = tag).foldl (fun s e => answerTask s e.2 fail) s
    let s := (q.cmds.filter fun e => e.1 = tag).foldl (fun s e => retryCmd s e.2 none fail) s
    .next (answerWaits s (true, tag) (fun a => vfOf s a = vf) fail)

/-! ### Registers without a behaviour of their own (R7) -/

/-- The new value of a register from a write: settable bits taken, write-one-to-clear bits cleared (R7). -/
def regNew (old v rw w1c : Word) : Word := (old &&& ~~~ rw ||| v &&& rw) &&& ~~~ (v &&& w1c)

/-- A write-one-to-clear field at bit lo. -/
def clr {w : Nat} (old : BitVec w) (v : Word) (lo : Nat) : BitVec w := old &&& ~~~ BitVec.ofNat w (v.toNat / 2 ^ lo)

/-- A change of one slice's block, or of every live slice's (R194). -/
def modSlices (s : State) (k : Nat) (f : SliceSt → SliceSt) : State :=
  (if k = 256 then liveSlices s.gw.slhash else [k]).foldl (fun s i => setSlice s i (f (getSlice s i))) s

/-- REGISTER_WRITE: fields with Access RW take the value written, W1C bits written 1 clear (R7). -/
def regWrite (s : State) (r : GReg) (v : Word) : State :=
  match r with
  | .tbinv0 c => { s with gw := { s.gw with tb0 := tset s.gw.tb0 c (v &&& 0x00FFFFFFFFFF0FFF) } }
  | .sldmask k => modSlices s k fun x => { x with dmask := v }
  | .slqsel k => modSlices s k fun x => { x with qsel := v.setWidth 10 }
  | .slquota k => modSlices s k fun x => { x with quota := tset x.quota x.qsel.toNat (fld v 29 16) }
  | .sllock k => modSlices s k fun x => { x with bypass := clr x.bypass v 0 }
  | .fqsel => { s with gw := { s.gw with fqsel := v.setWidth 10 } }
  | .fqstat =>
    let q := getRing s s.gw.fqsel.toNat
    setRing s s.gw.fqsel.toNat { q with noring := clr q.noring v 0 }
  | .prqcfg vf => setPrq s vf { getPrq s vf with cfg := v &&& 0x8000FFFFFFFFF01F }
  | .errsig => { s with gw := { s.gw with errsig := v &&& 0x7FFFF } }
  | .errlost => { s with gw := { s.gw with errlost := clr s.gw.errlost v 0 } }
  | .wgcnt d => modDie s d fun x => { x with
      stale := clr x.stale v 48, cycles := clr x.cycles v 32, orphans := clr x.orphans v 16
      unassisted := clr x.unassisted v 0 }
  | .netenc p => { s with gw := { s.gw with netenc := tset s.gw.netenc p (v.setWidth 16) } }
  | .netstat p => { s with gw := { s.gw with
      refused := tset s.gw.refused p (clr ((tget s.gw.refused p).getD 0) v 32)
      endpoint := tset s.gw.endpoint p (clr ((tget s.gw.endpoint p).getD 0) v 0) } }
  | .ecccnt d => modDie s d fun x => { x with
      thresh := (v >>> 48).setWidth 16, uncorr := clr x.uncorr v 32, corr := clr x.corr v 0 }
  | .apr i => { s with gw := { s.gw with apr := tset s.gw.apr i (v &&& 0x83FFFC0000FFFFFF) } }
  | .table pa => slWrite s none (pa / 8 * 8) (bytesOf 8 v.toNat)
  | .micro e off => { s with micro := tset s.micro e (wrBytes ((tget s.micro e).getD []) (off / 8 * 8 % 65536)
      (bytesOf 8 v.toNat)) }
  | .root asid vf =>
    let t := if fld v 0 0 = 1 then tset s.gw.root asid ⟨fld v 47 13 * 8192, vf⟩ else tdel s.gw.root asid
    -- an ASID that had no root and is given one is used anew: its key is replaced (R27; log 53)
    let anew := (tget s.gw.root asid).isNone && fld v 0 0 = 1
    { s with
      gw := { s.gw with root := t }
      epochs := if anew then tset s.epochs asid ((tget s.epochs asid).getD 0 + 1) else s.epochs }
  | .vfroot vf =>
    let t := if fld v 0 0 = 1 then tset s.gw.vfroot vf (fld v 47 13 * 8192) else tdel s.gw.vfroot vf
    { s with gw := { s.gw with vfroot := t } }
  | .counterVf col k =>
    let t := if fld v 5 0 = 0 then tdel s.gw.vfctrs (8 * col + k) else tset s.gw.vfctrs (8 * col + k) (fld v 5 0)
    { s with gw := { s.gw with vfctrs := t } }

/-- REGISTER_WRITE (R7). -/
def execRegisterWrite (r : GReg) (v : Word) (s : State) : Host.Outcome State Fault Refusal := .next (regWrite s r v)

/-! ### What a read of a memory-mapped register returns (R7) -/

/-- A register of the gateway control window or of the host as a read names it: one that REGISTER_WRITE may write, one whose
write has an event row of its own, or one that software cannot write. -/
inductive RReg where
  | plain (r : GReg)
  | slocc (slice : Nat)      -- R194
  | tbinv1 (core : Nat)      -- R155
  | fqring                   -- R337
  | fqnote
  | prresp (vf : Nat)        -- R343
  | errcfg                   -- R366
  | bootstat                 -- R377
  | clusterRemap (die i : Nat)   -- R19
  | coreRemap (die i : Nat)
  deriving DecidableEq, Repr

/-- The valid lines of a class in a slice (R194). -/
def classCount (sl : SliceSt) (cls : Nat) : Nat :=
  sl.sets.foldl (fun n e => n + (e.2.filter fun w => w.2.cls = cls).length) 0

/-- SLOCC (R194). -/
def sloccWord (sl : SliceSt) : Word :=
  put (classCount sl 3) 48 ||| put (classCount sl 2) 32 ||| put (classCount sl 1) 16 ||| put (classCount sl 0) 0

/-- SLLOCK (R194). -/
def sllockWord (sl : SliceSt) : Word :=
  put (sl.sets.foldl (fun n e => n + lockedIn e.2) 0) 32 ||| put sl.bypass.toNat 0

/-- SLQUOTA, of the ASID in SLQSEL (R194). -/
def slquotaWord (sl : SliceSt) : Word :=
  put ((tget sl.quota sl.qsel.toNat).getD 0) 16 ||| put (usedBy sl sl.qsel.toNat) 0

/-- A register of a slice's block; those of the block at index 256 read as zero (R194). -/
def slRegRead (s : State) (k : Nat) (f : SliceSt → Word) : Word := if k = 256 then 0 else f (getSlice s k)

/-- A cluster remap entry as it is read; one that the firmware has not written names the cluster's own site (R19; log 25). -/
def clusterRemapWord (d : DieSt) (i : Nat) : Word :=
  match tget d.clusterMap i with
  | some m => (m &&& 0x83FF).setWidth 64
  | none => put 1 15 ||| put i 0

def RemapEntry.word (e : RemapEntry) : Word :=
  put (boolN e.valid) 31 ||| put (e.lrow % 64) 18 ||| put (e.lcol % 64) 12 ||| put (e.prow % 64) 6 ||| put (e.pcol % 64) 0

/-- The remap tables of a core die, which every level reads (R19). -/
def remapRead (s : State) : RReg → Option Word
  | .clusterRemap d i => if d < 40 && i < 1000 then some (clusterRemapWord (getDie s d) i) else none
  | .coreRemap d i =>
    if d < 40 && i < 16 then some (((getDie s d).coreMap[i]?.map RemapEntry.word).getD 0) else none
  | _ => none

/-- What a read of a register returns at a level: none where the reader cannot reach it, as task level cannot reach the
gateway control window (R194), and for what is no register. Task level reads the remap tables (R19). BOOTSTAT lies in BAR0
too (R7, R377). (Log 47.) -/
def regRead (s : State) (level : BitVec 2) (r : RReg) : Option Word :=
  if level = 0 then remapRead s r
  else match r with
  | .plain (.tbinv0 c) => some ((tget s.gw.tb0 c).getD 0)
  | .plain (.sldmask k) => some (slRegRead s k fun x => x.dmask)
  | .plain (.slqsel k) => some (slRegRead s k fun x => x.qsel.setWidth 64)
  | .plain (.slquota k) => some (slRegRead s k slquotaWord)
  | .plain (.sllock k) => some (slRegRead s k sllockWord)
  | .plain .fqsel => some (s.gw.fqsel.setWidth 64)
  | .plain .fqstat => some ((getRing s s.gw.fqsel.toNat).noring.setWidth 64)
  | .plain (.prqcfg vf) => some (getPrq s vf).cfg
  | .plain .errsig => some s.gw.errsig
  | .plain .errlost => some (s.gw.errlost.setWidth 64)
  | .plain (.wgcnt d) =>
    let x := getDie s d
    some (put x.stale.toNat 48 ||| put x.cycles.toNat 32 ||| put x.orphans.toNat 16 ||| put x.unassisted.toNat 0)
  | .plain (.netenc p) => some (((tget s.gw.netenc p).getD 0xFFFF).setWidth 64)
  | .plain (.netstat p) =>
    some (put ((tget s.gw.refused p).getD 0).toNat 32 ||| put ((tget s.gw.endpoint p).getD 0).toNat 0)
  | .plain (.ecccnt d) =>
    let x := getDie s d
    some (put x.thresh.toNat 48 ||| put x.uncorr.toNat 32 ||| put x.corr.toNat 0)
  | .plain (.apr i) => some ((tget s.gw.apr i).getD 0)
  | .plain (.table _) => none
  | .plain (.micro _ _) => none
  | .plain (.root _ _) => none
  | .plain (.vfroot _) => none
  | .plain (.counterVf _ _) => none
  | .slocc k => some (slRegRead s k sloccWord)
  | .tbinv1 c => some ((tget s.gw.tb1 c).getD 0)
  | .fqring => some (getRing s s.gw.fqsel.toNat).cfg
  | .fqnote => some s.gw.fqnote
  | .prresp vf => some (getPrq s vf).resp
  | .errcfg => some s.gw.errcfg
  | .bootstat => some s.gw.bootstat
  | .clusterRemap _ _ => remapRead s r
  | .coreRemap _ _ => remapRead s r

end Sys2Proof.Machine
end

