-- ==== Sys2Proof/Machine/Fabric.lean ====
section
/-!
DEFINITION. The host, soft errors, frozen cores, reset and boot (R18 to R20, R26, R47, R48, R156, R236, R366, R375 to
R378).
-/
set_option Elab.async false
namespace Sys2Proof.Machine

/-! ### The host (R47, R48, R366) -/

/-- ERRCFG_WRITE: the error ring set up, its next entry 0 (R366). -/
def execErrcfgWrite (v : Word) (s : State) : Host.Outcome State Fault Refusal :=
  .next { s with gw := { s.gw with errcfg := v &&& 0x800FFFFFFFFFF01F, errnext := 0, errlast := [] } }

/-- Whether a function sees a counter in its counter window: the physical function sees all, a virtual one those that the
runtime assigned to it (R47; log 47). -/
def seesCounter (s : State) (vf col k : Nat) : Bool := vf = 0 || tget s.gw.vfctrs (8 * col + k) = some vf

/-- HOST_COUNTER_WRITE: a write of a function to its counter window adds n to a counter of a G0 control core, in the next
router cycle where its table has fired in this one (R45, R47). -/
def execHostCounterWrite (window k : Nat) (n : BitVec 32) (s : State) : Host.Outcome State Fault Refusal :=
  let col := window % 16
  let c := packCoord 56 0 col
  .next (if !(k < 8 && seesCounter s (window / 16) col k) then s
    else if tableFired s c then sendMsg s { coord := c, ctr := k, add := n, asid := none }
    else ctrAdd s c k n)

/-- The aperture of a BAR2 offset, when the function sees it and it is open: ASID and virtual address (R48). (Log 47.) -/
def apertureAt (s : State) (x : Bar2Access) : Option (Nat × Nat) :=
  let r := (tget s.gw.apr (x.off / 2 ^ 32 % 16)).getD 0
  if fld r 63 63 = 1 && fld r 57 52 = x.vf then some (fld r 51 42, fld r 23 0 * 2 ^ 32 + x.off % 2 ^ 32) else none

/-- An access through a closed aperture, or one that failed: logged; a read completes without data (R48). -/
def hostAbort (s : State) (x : Bar2Access) (asid va : Nat) : State :=
  let s := errPost s 0x13 (packCoord 56 0 0) asid va (x.off / 2 ^ 32 % 16 + 256 * boolN x.write)
  if x.write then s else { s with gw := { s.gw with hostdata := [] } }

/-- An open aperture's access in its ASID (R48). DESIGN CHOICE: a host write is no release, since R164 names none, though R163
has host accesses synchronise at system scope (log 47). (Log 47.) -/
def hostAccess (s : State) (x : Bar2Access) (asid va : Nat) : State :=
  if inWin va then hostAbort s x asid va
  else if x.write then
    (match devWrite s asid va x.data with
     | .ok s => s
     | .error _ => hostAbort s x asid va)
  else match devRead s asid va x.len with
    | .ok (s, bs, none) => { s with gw := { s.gw with hostdata := bs } }
    | .ok (_, _, some a) => hostAbort s x asid a
    | .error _ => hostAbort s x asid va

/-- HOST_BAR2_ACCESS (R48). A virtual function's other offsets read as all ones and drop writes. -/
def execHostBar2Access (x : Bar2Access) (s : State) : Host.Outcome State Fault Refusal :=
  match apertureAt s x with
  | some (asid, va) => .next (hostAccess s x asid va)
  | none =>
    let shown := x.vf = 0 || fld ((tget s.gw.apr (x.off / 2 ^ 32 % 16)).getD 0) 57 52 = x.vf
    if shown then .next (hostAbort s x 0 0)
    else if x.write then .next s
    else .next { s with gw := { s.gw with hostdata := List.replicate x.len 0xFF } }

/-! ### Frozen cores and spares (R18 to R20, R375, R376) -/

/-- A context of the Pod ended as KEND does, its KSEND FAULTED (R375, R378). -/
def endCtx (s : State) (c i : Nat) : State :=
  match tget (getCore s c).pod i with
  | none => s
  | some p =>
    match getTask s p.task with
    | some k => if k.coro.isSome then endTask s p.task 6 else freeCtx s ⟨c, p.stage, i, none⟩
    | none => freeCtx s ⟨c, p.stage, i, none⟩

/-- What the ECC check of a freeze makes of a resident task: one whose state fails ends, and a coroutine that is lost ends its
KSEND FAULTED (R375). -/
def freezeCheck (s : State) (c i : Nat) : State :=
  match slotAt s c i with
  | none => s
  | some sl =>
    match getTask s sl.task with
    | none => delSlot s c i
    | some k =>
      if Config.stateFails c sl.task s.now then
        errPost (endTask s sl.task (if k.coro.isSome then 6 else 3)) 0x0C c k.asid 0 k.tile
      else s

/-- A KSEND whose record is still to be read undone: the slot stands before it (R268, R375). -/
def undoUnread (s : State) (c i : Nat) : State :=
  match slotAt s c i with
  | none => s
  | some sl => match sl.hold with
    | .ksend id => (match tget s.cmds id with
      | some m => if m.state = .issued then
          setSlot { s with cmds := tdel s.cmds id } c i
            { sl with hold := .none, pc := sl.pc - 16, undo := sl.undo.filter fun u => u.id ≠ id }
        else s
      | none => s)
    | _ => s

/-- Whether a slot still waits: for direct accesses other than those lost with a link, or for the answer to a record that it has
sent (R53, R375). -/
def slotWaits (s : State) (sl : SlotSt) : Bool :=
  sl.ops.any (fun m => m.lost.isNone) || awaitsAnswer s sl.task || (match sl.hold with
    | .ksend _ => true
    | _ => false)

/-- A resident task that passes saved as for pre-emption, once its direct accesses are performed (R52, R375). -/
def freezeSlot (s : State) (c i : Nat) : State :=
  let s := undoUnread s c i
  match slotAt s c i with
  | none => s
  | some sl => if slotWaits s sl then s else saveNow s c i true

/-- The physical clusters that carry logical ones (R19). -/
def usedClusters (d : DieSt) : List Nat :=
  (below 1000).map fun i => match tget d.clusterMap i with
    | some m => m.toNat % 1024
    | none => i

/-- The spare cluster sites of a die: those that carry no logical cluster and pass test, at least four (R18; log 25). -/
def spareClusters (s : State) (die : Nat) : List Nat :=
  let used := usedClusters (getDie s die)
  let rest := (below 1024).filter fun cl => !used.contains cl
  let failed := (rest.filter fun cl => !Config.sitePasses die cl).take (rest.length - 4)
  rest.filter fun cl => !failed.contains cl

/-- The free core of a spare cluster site with the lowest physical row, then the lowest column; a site whose core has frozen
is not free (R375). -/
def spareSite (s : State) (die : Nat) : Option (Nat × Nat) :=
  let free (r k : Nat) : Bool := !(getDie s die).frozen.contains (r, k) &&
    !(getDie s die).coreMap.any fun e => e.valid && e.prow = r && e.pcol = k
  let sites := ((spareClusters s die).map fun cl =>
    (below 4).map fun q => (2 * (cl / 32) + q / 2, 2 * (cl % 32) + q % 2)).flatten
  leastBy (fun p => 64 * p.1 + p.2) (sites.filter fun p => free p.1 p.2)

/-- The core remap entry of a coordinate written: its own, else the first that is not in use; none where all 16 are (R19,
R375). -/
def remapCore (d : DieSt) (c : Nat) (site : Nat × Nat) : Option DieSt :=
  let e : RemapEntry := ⟨true, rowOf c, colOf c, site.1, site.2⟩
  let mine := d.coreMap.findIdx? fun e => e.valid && e.lrow = rowOf c && e.lcol = colOf c
  match mine.orElse fun _ => d.coreMap.findIdx? fun e => !e.valid with
  | some i => some { d with coreMap := setAt d.coreMap i e, topo := d.topo + 1 }
  | none =>
    if 16 ≤ d.coreMap.length then none else some { d with coreMap := d.coreMap ++ [e], topo := d.topo + 1 }

/-- What a spare takes over: the local image, counters, waiting-task table, triggers, stage bindings and inbox, the Pod
with its keys, and what the router layer keeps for the coordinate. FEAT regains no bit (R326). Its other registers are those
of a core right after reset (log 28). -/
def spareCore (c : Nat) (k : CoreSt) : CoreSt :=
  { CoreSt.reset c with
    owner := k.owner, feat := k.feat, lmem := k.lmem, lpoison := k.lpoison, ctrs := k.ctrs, wt := k.wt, trig := k.trig
    stages := k.stages, pod := k.pod, inbox := k.inbox, waiters := k.waiters, resvd := k.resvd, queue := k.queue
    images := k.images, badImage := k.badImage, fwvec := k.fwvec, fwframe := k.fwframe, slots := k.slots }

/-- Saved tasks of a coordinate queued on its spare (R46, R375). -/
def requeueSaved (s : State) (c : Nat) : State :=
  s.tasks.foldl (fun s e =>
    let again (q : Nat) (r : RecAt) : State :=
      if q = c && e.2.fw then enqueue (modTask s e.1 fun k => { k with fw := false }) e.1 (.record r) false else s
    match e.2.place with
    | .saved q r => again q r
    | .parked q r => again q r
    | _ => s) s

/-- The coordinate leaves service: its saved tasks are unpinned, and what was queued there moves (R376). -/
def loseCoord (s : State) (c : Nat) : State :=
  let qs := (getCore s c).queue
  let s := modCore s c fun k => { k with unavail := true, freezing := false, queue := [] }
  let s := s.tasks.foldl (fun s e => match e.2.kept with
    | some (q, r) => if q = c then clearPin (modTask s e.1 fun k => { k with pin := false }) r else s
    | none => s) s
  qs.foldl (fun s q => enqueue s q.task q.start q.acq) s

/-- A coordinate in a cluster whose matrix unit has failed lacks that unit's features (R326, R376). -/
def lackUnit (s : State) (c : Nat) : State :=
  if (getUnit s (clusterOf s c)).failed then modCore s c fun k => { k with feat := k.feat &&& ~~~ (6 : BitVec 16) } else s

/-- The physical site of a frozen core noted. -/
def noteFrozen (s : State) (c : Nat) : State :=
  let p := physSite s c
  modDie s (dieOf c) fun d => { d with frozen := (rowOf p, colOf p) :: d.frozen }

/-- Steps 1 to 3 of a freeze begun: issue stops, the freeze is logged, and what fails the ECC check ends (R375). -/
def beginFreeze (s : State) (c : Nat) : State :=
  let s := errPost s 0x0B c ((getCore s c).owner.getD 0) 0 (if isControl c then c else physSite s c)
  let s := modCore s c fun k => { k with freezing := true }
  let s := (below 4).foldl (fun s i => freezeCheck s c i) s
  (getCore s c).pod.foldl (fun s e => if Config.stateFails c e.2.task s.now then endCtx s c e.1 else s) s

/-- Steps 4 and 5 of a freeze: the coordinate moved to a spare, or lost (R375, R376). -/
def moveCoord (s : State) (c : Nat) : State :=
  let s := if isControl c then s else noteFrozen s c
  match (if isControl c then none else (spareSite s (dieOf c)).bind fun p => remapCore (getDie s (dieOf c)) c p) with
  | some d => requeueSaved (lackUnit (modCore (setDie s (dieOf c) d) c (spareCore c)) c) c
  | none => loseCoord s c

/-- Whether nothing of a freezing core is left to be performed or saved; a save that waits on its page goes on at the spare
(R251, R354, R375). -/
def freezeOver (s : State) (c : Nat) : Bool :=
  (getCore s c).mq.isEmpty && (getCore s c).slots.all fun e => match e.2.hold with
    | .saving _ _ _ _ => true
    | _ => false

/-- A freeze as far as it can go now: the slots that wait for nothing saved, then, once the matrix queue has been served, the
coordinate moved. -/
def freezeOn (s : State) (c : Nat) : State :=
  let s := (below 4).foldl (fun s i => freezeSlot s c i) s
  if freezeOver s c then moveCoord s c else s

/-- A core frozen: its direct accesses and its matrix entries are performed before it moves, as for a pre-emption (R52, R251,
R375). -/
def freezeCore (s : State) (c : Nat) : State := freezeOn (if (getCore s c).freezing then s else beginFreeze s c) c

/-- CORE_FREEZE, the first time the failure, later the progress of the freeze (R375, R376). -/
def execCoreFreeze (core : Nat) (s : State) : Host.Outcome State Fault Refusal :=
  .next (if coreOk s core && !isHart core then freezeCore s core else s)

/-! ### Soft errors (R349, R351, R378) -/

/-- The number of the structure of an error (R378). DESIGN CHOICE: a near cache and a read-only cache, whose words R349 poisons and
to which R378 gives no number, are 0 (log 46). -/
def eccStructure : EccLoc → Nat
  | .stack _ => 1
  | .slice _ _ => 2
  | .localMem _ _ => 3
  | .nearWord _ _ _ _ => 0
  | .roWord _ _ _ _ => 0
  | .regFile _ => 4
  | .pod _ _ => 5

/-- The die that counts an error, a gateway die g as 40 + g, and the coordinate that reports it. -/
def eccPlace (s : State) : EccLoc → Nat × Nat
  | .stack pa => let g := (Config.stackDie (pa / 128)).val; (40 + g, packCoord (56 + g) 0 0)
  | .slice k _ => (40 + k / 32, packCoord (56 + k / 32) 0 0)
  | .localMem c _ => (dieKey c, c)
  | .nearWord cl _ _ _ => (cl / 1024, clusterCoord s cl)
  | .roWord cl _ _ _ => (cl / 1024, clusterCoord s cl)
  | .regFile c => (dieKey c, c)
  | .pod c _ => (dieKey c, c)

def eccAddr : EccLoc → Nat
  | .stack pa => pa
  | .slice _ pa => pa
  | .localMem _ off => winBase + off
  | .nearWord _ _ line w => 128 * line + 4 * (w % 32)
  | .roWord _ _ line w => 128 * line + 4 * (w % 32)
  | .regFile _ => 0
  | .pod _ _ => 0

/-- The first byte and the length that an uncorrectable error of a line poisons: 128 bytes, or the 512-byte unit of a
compressed page (R349, R351). -/
def lostUnit (s : State) (pa : Nat) : Nat × Nat :=
  if s.cmps.contains (pa / 65536) then (pa / 512 * 512, 512) else (pa / 128 * 128, 128)

/-- A word of a near-cache line poisoned, where the cache holds the line and the word is valid (R349). -/
def nearWordBad (s : State) (cl asid line w : Nat) : State :=
  match nearFind s cl asid line with
  | some l => putNear s cl { l with poison := l.poison ||| (wordRange (4 * w) (4 * w + 4) &&& l.valid) }
  | none => s

/-- A word of a read-only cache's line poisoned, where the cache holds the line (R349). -/
def roWordBad (s : State) (cl asid line w : Nat) : State :=
  modCluster s cl fun u => { u with ro := u.ro.map fun l =>
    if l.asid = asid && l.line = line then { l with poison := l.poison ||| wordRange (4 * w) (4 * w + 4) } else l }

/-- What a double-bit error does to its structure (R349, R378). -/
def eccDouble (s : State) : EccLoc → State
  | .stack pa => memPoison s (lostUnit s pa).1 (lostUnit s pa).2
  | .slice _ pa => memPoison s (pa / 128 * 128) 128
  | .localMem c off => lmPoison s c (off % 65536) 1
  | .nearWord cl asid line w => nearWordBad s cl asid line (w % 32)
  | .roWord cl asid line w => roWordBad s cl asid line (w % 32)
  | .regFile c => if coreOk s c && !isHart c then freezeCore s c else s
  | .pod c i => endCtx s c i

/-- A corrected error counted; the report when a structure reaches the threshold (R378). (Log 46.) -/
def eccSingle (s : State) (x : EccLoc) : State :=
  let (k, coord) := eccPlace s x
  let d := getDie s k
  let n := (tget d.eccBy (eccStructure x)).getD 0 + 1
  let hit := d.thresh ≠ 0 && d.thresh.toNat ≤ n
  let s := setDie s k { d with corr := satInc d.corr, eccBy := tset d.eccBy (eccStructure x) (if hit then 0 else n) }
  if hit then errPost s 0x12 coord 0 (eccAddr x) (eccStructure x) else s

/-- ECC_ERROR (R378). -/
def execEccError (loc : EccLoc) (double : Bool) (s : State) : Host.Outcome State Fault Refusal :=
  if !double then .next (eccSingle s loc)
  else
    let (k, coord) := eccPlace s loc
    let s := modDie s k fun d => { d with uncorr := satInc d.uncorr }
    .next (eccDouble (errPost s 0x0E coord 0 (eccAddr loc) (eccStructure loc)) loc)

/-! ### Reset and boot (R156, R236, R377) -/

/-- DEVICE_RESET: every register, table and unit at its reset value, with new secret keys (R236). What the stacks hold, under
the keys that it was written with, is none of these, and stays. (Log 47.) -/
def execDeviceReset (s : State) : Host.Outcome State Fault Refusal :=
  .next { State.reset with
    agenda := s.agenda, mem := s.mem, mpoison := s.mpoison, keys := s.keys, epochs := s.epochs, cmps := s.cmps
    seq := s.seq, resets := s.resets + 1 }

def lowBits (v n : Nat) : List Nat := (below n).filter fun i => bitN v i

/-- SLHASH as the firmware sets it: with a gateway die excluded, variant 3 with lostv = 1, and hmode the harvest of the
others (R156, R377). -/
def bootHash (b : BootInfo) : Word :=
  match lowBits b.gwlost.toNat 8 with
  | g :: _ =>
    put 1 51 ||| put g 48 ||| (b.slhash &&& 0x0000FFFFFFFFFF00) ||| put (fld b.slhash 1 0) 2 ||| put 3 0
  | [] => b.slhash &&& 0x000FFFFFFFFFFF03

/-- The state field of BOOTSTAT (R377). -/
def bootState (b : BootInfo) : Nat :=
  let gs := lowBits b.gwlost.toNat 8
  if gs.contains 0 || 2 ≤ gs.length then 2
  else if gs.isEmpty && (lowBits b.dielost.toNat 40).isEmpty then 0 else 1

def bootStatus (b : BootInfo) : Word :=
  put (bootState b) 61 ||| put (if b.gwlost = 0 then 1024 else 896) 50 ||| put b.gwlost.toNat 40 ||| put b.dielost.toNat 0

/-- A die excluded: it has no cores, and its links are disabled at both ends (R377). -/
def excludeDie (s : State) (d : Nat) : State :=
  let s := modDie s d fun x => { x with lost := true }
  (below 6).foldl (fun s p => match linkEnd d p with
    | some (d2, p2) => modDie (modDie s d fun x => { x with links := p :: x.links }) d2 fun x => { x with links := p2 :: x.links }
    | none => s) s

/-- A core remap entry from its word (R19). -/
def RemapEntry.ofWord (w : BitVec 32) : RemapEntry :=
  let v := w.toNat
  ⟨bitN v 31, bitsN v 23 18, bitsN v 17 12, bitsN v 11 6, bitsN v 5 0⟩

/-- BOOT: dies authenticated, remap tables and SLHASH written, BOOTSTAT reported, the firmware's vectors set on every core
(R26, R377). It happens before any launch. (Log 47.) -/
def execBoot (b : BootInfo) (s : State) : Host.Outcome State Fault Refusal :=
  if !s.launches.isEmpty then .next s
  else
    let lost := lowBits b.dielost.toNat 40
    let s := lost.foldl excludeDie s
    let s := (lowBits b.gwlost.toNat 8).foldl (fun s g => modDie s (40 + g) fun x => { x with lost := true }) s
    let s := b.clusters.foldl (fun s e => modDie s e.1 fun d => { d with clusterMap := tset d.clusterMap e.2.1 e.2.2 }) s
    let s := b.cores.foldl (fun s e => modDie s e.1 fun d =>
      { d with coreMap := (d.coreMap ++ [RemapEntry.ofWord e.2]).take 16 }) s
    let s := { s with
      pool := s.pool - 40000 * lost.length
      gw := { s.gw with
        slhash := bootHash b, bootstat := bootStatus b
        fwvec := b.fwvec &&& 0x00FFFFFFFFFFFFF0, fwframe := b.fwframe &&& 0x00FFFFFFFFFFF800 } }
    .next { s with cores := s.cores.map fun e => (e.1, { e.2 with
      fwvec := (CoreSt.booted s.gw e.1).fwvec, fwframe := (CoreSt.booted s.gw e.1).fwframe }) }

end Sys2Proof.Machine
end

