-- ==== Sys2Proof/Machine/Dispatch.lean ====
section
/-!
DEFINITION. One arm per instruction and per device event: a direct call of its meaning.
-/
namespace Sys2Proof.Machine

def exec (i : Instr) (s : State) : Host.Outcome State Fault Refusal :=
  match i with
  -- class 0 (R94 to R105)
  | .illegal w => Sys2Proof.Machine.execIllegal w s
  | .nop h => Sys2Proof.Machine.execNop h s
  | .brk h code => Sys2Proof.Machine.execBrk h code s
  | .trap h code => Sys2Proof.Machine.execTrap h code s
  | .trapret h => Sys2Proof.Machine.execTrapret h s
  | .trapretMove h => Sys2Proof.Machine.execTrapretMove h s
  | .trapretEnd h => Sys2Proof.Machine.execTrapretEnd h s
  | .upret h => Sys2Proof.Machine.execUpret h s
  | .crrd h d r => Sys2Proof.Machine.execCrrd h d r s
  | .crwr h a r => Sys2Proof.Machine.execCrwr h a r s
  | .crset h d a r => Sys2Proof.Machine.execCrset h d a r s
  | .crclr h d a r => Sys2Proof.Machine.execCrclr h d a r s
  | .ident h d => Sys2Proof.Machine.execIdent h d s
  | .feat h d => Sys2Proof.Machine.execFeat h d s
  | .halt h => Sys2Proof.Machine.execHalt h s
  | .sleep h d c b timeout => Sys2Proof.Machine.execSleep h d c b timeout s
  -- class 1 (R88)
  | .br h p t inv imm => Sys2Proof.Machine.execBr h p t inv imm s
  | .bri h a imm => Sys2Proof.Machine.execBri h a imm s
  | .call h imm => Sys2Proof.Machine.execCall h imm s
  | .calli h a imm => Sys2Proof.Machine.execCalli h a imm s
  | .ret h a => Sys2Proof.Machine.execRet h a s
  | .loop h a imm => Sys2Proof.Machine.execLoop h a imm s
  | .endTask h => Sys2Proof.Machine.execEndTask h s
  | .yieldSlot h => Sys2Proof.Machine.execYieldSlot h s
  | .ipf h n imm => Sys2Proof.Machine.execIpf h n imm s
  -- class 2 (R79)
  | .add h w d a b => Sys2Proof.Machine.execAdd h w d a b s
  | .sub h w d a b => Sys2Proof.Machine.execSub h w d a b s
  | .addi h w d a imm => Sys2Proof.Machine.execAddi h w d a imm s
  | .mul h w d a b => Sys2Proof.Machine.execMul h w d a b s
  | .mulh h w d a b => Sys2Proof.Machine.execMulh h w d a b s
  | .mulhn h w d a b => Sys2Proof.Machine.execMulhn h w d a b s
  | .mad h w d a b c => Sys2Proof.Machine.execMad h w d a b c s
  | .div h w d a b => Sys2Proof.Machine.execDiv h w d a b s
  | .divn h w d a b => Sys2Proof.Machine.execDivn h w d a b s
  | .rem h w d a b => Sys2Proof.Machine.execRem h w d a b s
  | .remn h w d a b => Sys2Proof.Machine.execRemn h w d a b s
  | .and h d a b => Sys2Proof.Machine.execAnd h d a b s
  | .or h d a b => Sys2Proof.Machine.execOr h d a b s
  | .xor h d a b => Sys2Proof.Machine.execXor h d a b s
  | .andn h d a b => Sys2Proof.Machine.execAndn h d a b s
  | .orn h d a b => Sys2Proof.Machine.execOrn h d a b s
  | .shl h w d a b => Sys2Proof.Machine.execShl h w d a b s
  | .shr h w d a b => Sys2Proof.Machine.execShr h w d a b s
  | .sar h w d a b => Sys2Proof.Machine.execSar h w d a b s
  | .rol h w d a b => Sys2Proof.Machine.execRol h w d a b s
  | .shli h w d a n => Sys2Proof.Machine.execShli h w d a n s
  | .shri h w d a n => Sys2Proof.Machine.execShri h w d a n s
  | .sari h w d a n => Sys2Proof.Machine.execSari h w d a n s
  -- class 3 (R82)
  | .min h d a b => Sys2Proof.Machine.execMin h d a b s
  | .max h d a b => Sys2Proof.Machine.execMax h d a b s
  | .minn h d a b => Sys2Proof.Machine.execMinn h d a b s
  | .maxn h d a b => Sys2Proof.Machine.execMaxn h d a b s
  | .clz h d a => Sys2Proof.Machine.execClz h d a s
  | .ctz h d a => Sys2Proof.Machine.execCtz h d a s
  | .popc h d a => Sys2Proof.Machine.execPopc h d a s
  | .brev h d a => Sys2Proof.Machine.execBrev h d a s
  | .bfx h d a pos len => Sys2Proof.Machine.execBfx h d a pos len s
  | .bfxz h d a pos len => Sys2Proof.Machine.execBfxz h d a pos len s
  | .bfi h d a b pos len => Sys2Proof.Machine.execBfi h d a b pos len s
  | .lea h d a b pcrel sh imm => Sys2Proof.Machine.execLea h d a b pcrel sh imm s
  | .li h d imm => Sys2Proof.Machine.execLi h d imm s
  | .lih h d a imm => Sys2Proof.Machine.execLih h d a imm s
  | .mov h d a => Sys2Proof.Machine.execMov h d a s
  | .sel h d a b c => Sys2Proof.Machine.execSel h d a b c s
  -- class 4 (R85, R86)
  | .cmp h cc w d a b => Sys2Proof.Machine.execCmp h cc w d a b s
  | .cmpi h cc w d a imm => Sys2Proof.Machine.execCmpi h cc w d a imm s
  | .pand h d a b => Sys2Proof.Machine.execPand h d a b s
  | .por h d a b => Sys2Proof.Machine.execPor h d a b s
  | .pxor h d a b => Sys2Proof.Machine.execPxor h d a b s
  | .pnot h d a => Sys2Proof.Machine.execPnot h d a s
  | .pset h d imm => Sys2Proof.Machine.execPset h d imm s
  | .psetX h d a => Sys2Proof.Machine.execPsetX h d a s
  | .pget h d a => Sys2Proof.Machine.execPget h d a s
  -- class 5 (R127)
  | .fadd h t rm d a b => Sys2Proof.Machine.execFadd h t rm d a b s
  | .fsub h t rm d a b => Sys2Proof.Machine.execFsub h t rm d a b s
  | .fmul h t rm d a b => Sys2Proof.Machine.execFmul h t rm d a b s
  | .fma h t rm d a b c => Sys2Proof.Machine.execFma h t rm d a b c s
  | .fms h t rm d a b c => Sys2Proof.Machine.execFms h t rm d a b c s
  | .fnma h t rm d a b c => Sys2Proof.Machine.execFnma h t rm d a b c s
  | .fmin h t d a b => Sys2Proof.Machine.execFmin h t d a b s
  | .fmax h t d a b => Sys2Proof.Machine.execFmax h t d a b s
  | .fabs h t d a => Sys2Proof.Machine.execFabs h t d a s
  | .fneg h t d a => Sys2Proof.Machine.execFneg h t d a s
  | .fdiv h t rm d a b => Sys2Proof.Machine.execFdiv h t rm d a b s
  | .fsqrt h t rm d a => Sys2Proof.Machine.execFsqrt h t rm d a s
  | .frcp h t rm d a => Sys2Proof.Machine.execFrcp h t rm d a s
  | .frsq h t rm d a => Sys2Proof.Machine.execFrsq h t rm d a s
  | .fexp2 h t rm d a => Sys2Proof.Machine.execFexp2 h t rm d a s
  | .flog2 h t rm d a => Sys2Proof.Machine.execFlog2 h t rm d a s
  | .fcmp h cc t odd d a b => Sys2Proof.Machine.execFcmp h cc t odd d a b s
  | .fclass h t d a => Sys2Proof.Machine.execFclass h t d a s
  | .fscale h t rm d a b => Sys2Proof.Machine.execFscale h t rm d a b s
  | .fred h t rm d a => Sys2Proof.Machine.execFred h t rm d a s
  | .fredmax h t d a => Sys2Proof.Machine.execFredmax h t d a s
  | .fredmin h t d a => Sys2Proof.Machine.execFredmin h t d a s
  | .fdot h t rm d a b => Sys2Proof.Machine.execFdot h t rm d a b s
  -- class 6 (R135)
  | .vadd h t sat d a b => Sys2Proof.Machine.execVadd h t sat d a b s
  | .vsub h t sat d a b => Sys2Proof.Machine.execVsub h t sat d a b s
  | .vmul h t sat d a b => Sys2Proof.Machine.execVmul h t sat d a b s
  | .vmad h t sat d a b c => Sys2Proof.Machine.execVmad h t sat d a b c s
  | .vand h t d a b => Sys2Proof.Machine.execVand h t d a b s
  | .vor h t d a b => Sys2Proof.Machine.execVor h t d a b s
  | .vxor h t d a b => Sys2Proof.Machine.execVxor h t d a b s
  | .vshl h t imm d a b => Sys2Proof.Machine.execVshl h t imm d a b s
  | .vshr h t imm d a b => Sys2Proof.Machine.execVshr h t imm d a b s
  | .vsar h t imm d a b => Sys2Proof.Machine.execVsar h t imm d a b s
  | .vmin h t d a b => Sys2Proof.Machine.execVmin h t d a b s
  | .vmax h t d a b => Sys2Proof.Machine.execVmax h t d a b s
  | .vcmp h cc t odd d a b => Sys2Proof.Machine.execVcmp h cc t odd d a b s
  | .vred h t d a => Sys2Proof.Machine.execVred h t d a s
  | .vbcast h t imm d a => Sys2Proof.Machine.execVbcast h t imm d a s
  | .vperm h t d a b c => Sys2Proof.Machine.execVperm h t d a b c s
  | .vsel h t d a b c => Sys2Proof.Machine.execVsel h t d a b c s
  | .vins h t d a lane => Sys2Proof.Machine.execVins h t d a lane s
  | .vext h t d a lane => Sys2Proof.Machine.execVext h t d a lane s
  | .vmovx h toX v x => Sys2Proof.Machine.execVmovx h toX v x s
  -- class 7 (R140, R147, R149)
  | .cvt h dst src rm half d a => Sys2Proof.Machine.execCvt h dst src rm half d a s
  | .cvti h dst src rm half d a => Sys2Proof.Machine.execCvti h dst src rm half d a s
  | .cvtf h dst src rm half d a => Sys2Proof.Machine.execCvtf h dst src rm half d a s
  | .dec8 h dst rm grp d a tblB => Sys2Proof.Machine.execDec8 h dst rm grp d a tblB s
  | .enc8 h src grp d a tblB => Sys2Proof.Machine.execEnc8 h src grp d a tblB s
  | .pack h byte hi d a b => Sys2Proof.Machine.execPack h byte hi d a b s
  | .unpack h byte hi x half d a => Sys2Proof.Machine.execUnpack h byte hi x half d a s
  | .tblld h o src tblB a off => Sys2Proof.Machine.execTblld h o src tblB a off s
  -- class 8 (R170)
  | .ld h o sz ext d a off => Sys2Proof.Machine.execLd h o sz ext d a off s
  | .st h o sz a b off => Sys2Proof.Machine.execSt h o sz a b off s
  | .ldv h o d a off => Sys2Proof.Machine.execLdv h o d a off s
  | .stv h o a b off => Sys2Proof.Machine.execStv h o a b off s
  | .ldro h o sz ext d a off => Sys2Proof.Machine.execLdro h o sz ext d a off s
  | .ldg h o word sc d a b off => Sys2Proof.Machine.execLdg h o word sc d a b off s
  | .sts h o word sc d a b off => Sys2Proof.Machine.execSts h o word sc d a b off s
  | .pfx h t n a off => Sys2Proof.Machine.execPfx h t n a off s
  -- class 9 (R175, R176, R184)
  | .amo h o op dword ext d a b off => Sys2Proof.Machine.execAmo h o op dword ext d a b off s
  | .cas h o dword ext d a b off => Sys2Proof.Machine.execCas h o dword ext d a b off s
  | .wbr h o d a b off => Sys2Proof.Machine.execWbr h o d a b off s
  | .invr h o d a b off => Sys2Proof.Machine.execInvr h o d a b off s
  | .invrRo h o d a b off => Sys2Proof.Machine.execInvrRo h o d a b off s
  | .wbinvr h o d a b off => Sys2Proof.Machine.execWbinvr h o d a b off s
  | .zeror h o d a b off => Sys2Proof.Machine.execZeror h o d a b off s
  | .lockl h o n d a off => Sys2Proof.Machine.execLockl h o n d a off s
  | .unlockl h o n d a off => Sys2Proof.Machine.execUnlockl h o n d a off s
  -- class A (R209)
  | .cpy h o rtn d a b off => Sys2Proof.Machine.execCpy h o rtn d a b off s
  | .cpyi h o rtn d a b off => Sys2Proof.Machine.execCpyi h o rtn d a b off s
  | .gather h o sz ix sc d a b off => Sys2Proof.Machine.execGather h o sz ix sc d a b off s
  | .scatter h o sz ix sc d a b off => Sys2Proof.Machine.execScatter h o sz ix sc d a b off s
  | .halo h o dirs a b off => Sys2Proof.Machine.execHalo h o dirs a b off s
  | .cpyq h o d b => Sys2Proof.Machine.execCpyq h o d b s
  -- class B (R219, R220)
  | .send h o d a b c toff => Sys2Proof.Machine.execSend h o d a b c toff s
  | .sendi h o sz a b c toff => Sys2Proof.Machine.execSendi h o sz a b c toff s
  | .cntrd h o d c => Sys2Proof.Machine.execCntrd h o d c s
  | .cntadd h o self a b c k => Sys2Proof.Machine.execCntadd h o self a b c k s
  | .cntset h o b c => Sys2Proof.Machine.execCntset h o b c s
  | .wtset h d e c a b => Sys2Proof.Machine.execWtset h d e c a b s
  | .wtsetS h d e c a b => Sys2Proof.Machine.execWtsetS h d e c a b s
  | .wtsetL h d e c a b => Sys2Proof.Machine.execWtsetL h d e c a b s
  | .wtclr h d e => Sys2Proof.Machine.execWtclr h d e s
  | .arm h o d a off => Sys2Proof.Machine.execArm h o d a off s
  | .disarm h d n => Sys2Proof.Machine.execDisarm h d n s
  | .launch h o d a off => Sys2Proof.Machine.execLaunch h o d a off s
  | .exch h o d a off => Sys2Proof.Machine.execExch h o d a off s
  | .vote h a => Sys2Proof.Machine.execVote h a s
  | .ttsel h a => Sys2Proof.Machine.execTtsel h a s
  | .nsend h o a off => Sys2Proof.Machine.execNsend h o a off s
  -- class C (R245)
  | .mfmt h ta tb => Sys2Proof.Machine.execMfmt h ta tb s
  | .mtbl h o src tblB a off => Sys2Proof.Machine.execMtbl h o src tblB a off s
  | .mring h a b => Sys2Proof.Machine.execMring h a b s
  | .mlda h o a b off => Sys2Proof.Machine.execMlda h o a b off s
  | .mldb h o a b off => Sys2Proof.Machine.execMldb h o a b off s
  | .mma h t => Sys2Proof.Machine.execMma h t s
  | .mmas h t => Sys2Proof.Machine.execMmas h t s
  | .mskip h a => Sys2Proof.Machine.execMskip h a s
  | .mskipOff h => Sys2Proof.Machine.execMskipOff h s
  | .mrot h => Sys2Proof.Machine.execMrot h s
  | .mzero h t => Sys2Proof.Machine.execMzero h t s
  | .mdrain h o f rm z t a b off => Sys2Proof.Machine.execMdrain h o f rm z t a b off s
  | .mcmd h o a off => Sys2Proof.Machine.execMcmd h o a off s
  | .mcap h d rights => Sys2Proof.Machine.execMcap h d rights s
  | .mcapRev h d => Sys2Proof.Machine.execMcapRev h d s
  | .mstat h d t => Sys2Proof.Machine.execMstat h d t s
  | .mstatU h d => Sys2Proof.Machine.execMstatU h d s
  -- class D (R280)
  | .kstage h o d a off => Sys2Proof.Machine.execKstage h o d a off s
  | .kstageU h o d b => Sys2Proof.Machine.execKstageU h o d b s
  | .ksend h o a b off => Sys2Proof.Machine.execKsend h o a b off s
  | .ksendt h o d a b off => Sys2Proof.Machine.execKsendt h o d a b off s
  | .kyield h => Sys2Proof.Machine.execKyield h s
  | .kend h => Sys2Proof.Machine.execKend h s
  | .kstatOcc h d a => Sys2Proof.Machine.execKstatOcc h d a s
  | .kstatCnt h d a => Sys2Proof.Machine.execKstatCnt h d a s
  | .kflush h d a => Sys2Proof.Machine.execKflush h d a s
  -- class E (R306)
  | .gnew h d a => Sys2Proof.Machine.execGnew h d a s
  | .gfree h d a => Sys2Proof.Machine.execGfree h d a s
  | .join h d a => Sys2Proof.Machine.execJoin h d a s
  | .leave h d a => Sys2Proof.Machine.execLeave h d a s
  | .trylk h o d a off => Sys2Proof.Machine.execTrylk h o d a off s
  | .unlk h o d a off => Sys2Proof.Machine.execUnlk h o d a off s
  | .qpusht h o d a b off => Sys2Proof.Machine.execQpusht h o d a b off s
  | .qpopt h o n d a off => Sys2Proof.Machine.execQpopt h o n d a off s
  | .bararr h o d a b off => Sys2Proof.Machine.execBararr h o d a b off s
  | .bartry h o d a b off => Sys2Proof.Machine.execBartry h o d a b off s
  | .parkLk h o a off => Sys2Proof.Machine.execParkLk h o a off s
  | .parkQn h o a off => Sys2Proof.Machine.execParkQn h o a off s
  | .parkQs h o a off => Sys2Proof.Machine.execParkQs h o a off s
  | .parkBar h o a b off => Sys2Proof.Machine.execParkBar h o a b off s
  | .parkRp h o a off => Sys2Proof.Machine.execParkRp h o a off s
  | .shgive h d a b => Sys2Proof.Machine.execShgive h d a b s
  | .shresv h d a => Sys2Proof.Machine.execShresv h d a s
  | .shrd h d a => Sys2Proof.Machine.execShrd h d a s
  | .shrdL h d a => Sys2Proof.Machine.execShrdL h d a s
  | .oprd h d a => Sys2Proof.Machine.execOprd h d a s
  -- device events: cores and tasks
  | .sleepTimeout core slot => Sys2Proof.Machine.execSleepTimeout core slot s
  | .claimRelease core slot id => Sys2Proof.Machine.execClaimRelease core slot id s
  | .icacheFill core slot => Sys2Proof.Machine.execIcacheFill core slot s
  | .userInterruptTake core slot => Sys2Proof.Machine.execUserInterruptTake core slot s
  | .detachedAccessPerformed task op => Sys2Proof.Machine.execDetachedAccessPerformed task op s
  | .placement core => Sys2Proof.Machine.execPlacement core s
  | .continuationResume core => Sys2Proof.Machine.execContinuationResume core s
  | .doneIncrement launch => Sys2Proof.Machine.execDoneIncrement launch s
  -- memory
  | .memoryOpPerform task op => Sys2Proof.Machine.execMemoryOpPerform task op s
  -- engines
  | .streamerKick id => Sys2Proof.Machine.execStreamerKick id s
  | .streamerChunk engine => Sys2Proof.Machine.execStreamerChunk engine s
  | .completionRelease id => Sys2Proof.Machine.execCompletionRelease id s
  -- counters, triggers, exchange, network
  | .counterUpdate id => Sys2Proof.Machine.execCounterUpdate id s
  | .wtEntryFire core e => Sys2Proof.Machine.execWtEntryFire core e s
  | .triggerStart core n => Sys2Proof.Machine.execTriggerStart core n s
  | .triggerComplete core n => Sys2Proof.Machine.execTriggerComplete core n s
  | .exchPhaseRelease launch => Sys2Proof.Machine.execExchPhaseRelease launch s
  | .timetableStart launch => Sys2Proof.Machine.execTimetableStart launch s
  | .timetableEnd core => Sys2Proof.Machine.execTimetableEnd core s
  | .nsendAck id => Sys2Proof.Machine.execNsendAck id s
  -- matrix
  | .matrixEntryService cluster => Sys2Proof.Machine.execMatrixEntryService cluster s
  | .ringTileArrive id => Sys2Proof.Machine.execRingTileArrive id s
  | .ringCreditReturn id => Sys2Proof.Machine.execRingCreditReturn id s
  | .mcmdKickArrive id => Sys2Proof.Machine.execMcmdKickArrive id s
  -- keyed stages
  | .ksendAnswer id => Sys2Proof.Machine.execKsendAnswer id s
  | .keyedRecordArrive id => Sys2Proof.Machine.execKeyedRecordArrive id s
  | .dispatch core => Sys2Proof.Machine.execDispatch core s
  | .huskLookupDone core stage => Sys2Proof.Machine.execHuskLookupDone core stage s
  | .huskSpillDone core stage => Sys2Proof.Machine.execHuskSpillDone core stage s
  | .huskReloadDone core stage => Sys2Proof.Machine.execHuskReloadDone core stage s
  -- power and waits
  | .shareMessage group => Sys2Proof.Machine.execShareMessage group s
  | .probeMessage id => Sys2Proof.Machine.execProbeMessage id s
  | .cycleWakeMessage id => Sys2Proof.Machine.execCycleWakeMessage id s
  | .opChange core => Sys2Proof.Machine.execOpChange core s
  | .clockSwitch core => Sys2Proof.Machine.execClockSwitch core s
  -- time limits, failures and the outside world
  | .preemptionRequest core slot => Sys2Proof.Machine.execPreemptionRequest core slot s
  | .detachTimeout core slot => Sys2Proof.Machine.execDetachTimeout core slot s
  | .handlerCut core slot => Sys2Proof.Machine.execHandlerCut core slot s
  | .handlerAbandon core slot => Sys2Proof.Machine.execHandlerAbandon core slot s
  | .prefetchFill id => Sys2Proof.Machine.execPrefetchFill id s
  | .nearCacheEvict cluster asid line => Sys2Proof.Machine.execNearCacheEvict cluster asid line s
  | .tbinv1Write core v => Sys2Proof.Machine.execTbinv1Write core v s
  | .tbInvalidationDone id => Sys2Proof.Machine.execTbInvalidationDone id s
  | .registerWrite r v => Sys2Proof.Machine.execRegisterWrite r v s
  | .fqnoteWrite v => Sys2Proof.Machine.execFqnoteWrite v s
  | .fqringWrite v => Sys2Proof.Machine.execFqringWrite v s
  | .pageRequestRetry id => Sys2Proof.Machine.execPageRequestRetry id s
  | .prrespWrite vf v => Sys2Proof.Machine.execPrrespWrite vf v s
  | .descriptorFreeTimeout task handle => Sys2Proof.Machine.execDescriptorFreeTimeout task handle s
  | .nsendArrival m => Sys2Proof.Machine.execNsendArrival m s
  | .mrotTimeout cluster => Sys2Proof.Machine.execMrotTimeout cluster s
  | .leaseExpire cluster => Sys2Proof.Machine.execLeaseExpire cluster s
  | .matrixUnitFail cluster => Sys2Proof.Machine.execMatrixUnitFail cluster s
  | .ksendResend core slot => Sys2Proof.Machine.execKsendResend core slot s
  | .reservationLapse core => Sys2Proof.Machine.execReservationLapse core s
  | .retireDue core ctx => Sys2Proof.Machine.execRetireDue core ctx s
  | .stageAutoUnbind core stage => Sys2Proof.Machine.execStageAutoUnbind core stage s
  | .gnewGroupSettle index => Sys2Proof.Machine.execGnewGroupSettle index s
  | .probeRecordExpire id => Sys2Proof.Machine.execProbeRecordExpire id s
  | .slewHoldEnd die => Sys2Proof.Machine.execSlewHoldEnd die s
  | .slewUnassisted die => Sys2Proof.Machine.execSlewUnassisted die s
  | .errcfgWrite v => Sys2Proof.Machine.execErrcfgWrite v s
  | .hostCounterWrite window k n => Sys2Proof.Machine.execHostCounterWrite window k n s
  | .hostBar2Access x => Sys2Proof.Machine.execHostBar2Access x s
  | .linkFlitResend die port => Sys2Proof.Machine.execLinkFlitResend die port s
  | .linkDown die port => Sys2Proof.Machine.execLinkDown die port s
  | .linkLossComplete task op => Sys2Proof.Machine.execLinkLossComplete task op s
  | .eccError loc double => Sys2Proof.Machine.execEccError loc double s
  | .coreFreeze core => Sys2Proof.Machine.execCoreFreeze core s
  | .deviceReset => Sys2Proof.Machine.execDeviceReset s
  | .boot b => Sys2Proof.Machine.execBoot b s

end Sys2Proof.Machine
end

