-- ==== Sys2Proof/Machine/Schedule.lean ====
section
/-!
DEFINITION. Whose turn it is (log 1): the head of the agenda, else a fixed default; the passing of router cycles; and a
program placed for the next step.
-/
set_option Elab.async false
namespace Sys2Proof.Machine

/-- Whether a row of the opcode table is a device event. -/
def isEvent (i : Instr) : Bool :=
  match i with
  | .illegal _ => false
  | _ => (hdrOf i).isNone

/-- The settled GNEW groups that nothing keeps any longer freed (R286). -/
def settleIdle (s : State) : State :=
  (s.groups.filter fun e => e.2.live && e.2.settled).foldl (fun s e => groupCheck s (gidOf e.1 e.2.gen)) s

/-- Router cycles pass: TIME advances and the capacitor bank of every die recharges, 512 level-raises each microsecond of
1,600 router cycles; the sleeps that a counter ends wake, the launches that waited for a matrix queue are tried again, the
exchange phases under way move their flits, settled groups that nothing keeps are freed, and freezes go on (R97, R105, R230,
R262, R286, R292, R375). (Log 11.) -/
def tick (s : State) (n : Nat) : State :=
  let s := passCycles s n
  let s : State := { s with dies := s.dies.map fun e => (e.1, { e.2 with spent := e.2.spent - 8 * n }) }
  let s := settleIdle (lateLaunches ((s.cores.map fun e => e.1).foldl wakeSleepers s))
  (s.cores.filter fun e => e.2.freezing).foldl (fun s e => freezeOn s e.1) s

/-- The cores that hold a resident task. -/
def busyCores (s : State) : List Nat := s.cores.filterMap fun e => if e.2.slots.isEmpty then none else some e.1

/-- The core whose cycle comes next by default: the first one after the one that had the last. -/
def nextCore (s : State) : Option Nat :=
  match (busyCores s).find? fun c => s.focus < c with
  | some c => some c
  | none => (busyCores s).head?

/-- Events of one resident slot that may be due. Time limits, failures and what comes from outside are the agenda's alone. -/
def slotEvents (s : State) (c i : Nat) (sl : SlotSt) : List Instr :=
  (if sl.frozen.isSome then [Instr.icacheFill c i] else []) ++
  (sl.ops.map fun m => Instr.memoryOpPerform sl.task m.id) ++
  (sl.inflight.filterMap fun e => if e.left.isNone && !e.byOp then some (Instr.claimRelease c i e.id) else none) ++
  (match sl.hold with
   | .sleep _ _ _ _ _ => [Instr.sleepTimeout c i]
   | _ => []) ++
  (if userIntReady s sl then [Instr.userInterruptTake c i] else [])

/-- Events of one core that may be due. -/
def coreEvents (s : State) (c : Nat) (k : CoreSt) : List Instr :=
  (k.slots.map fun e => slotEvents s c e.1 e.2).flatten ++
  (if k.queue.isEmpty then [] else [Instr.placement c]) ++ [Instr.continuationResume c] ++
  (k.wt.filterMap fun e => if e.2.ready.isSome then some (Instr.wtEntryFire c e.1) else none) ++
  (k.trig.filterMap fun e => if e.2.ready.isSome then some (Instr.triggerStart c e.1) else none) ++
  (k.trig.filterMap fun e => if e.2.started then some (Instr.triggerComplete c e.1) else none) ++
  (if k.mq.isEmpty then [] else [Instr.matrixEntryService (clusterOf s c)]) ++
  (if k.stages.isEmpty then [] else [Instr.dispatch c]) ++
  (k.stages.map fun e => [Instr.huskLookupDone c e.1, Instr.huskSpillDone c e.1, Instr.huskReloadDone c e.1]).flatten ++
  (if (exchRunning s c).any fun e => e.2.ended s then [Instr.timetableEnd c] else []) ++
  [Instr.opChange c, Instr.clockSwitch c]

/-- The device events that may be due; one that is not does nothing. -/
def dueEvents (s : State) : List Instr :=
  (s.cores.map fun e => coreEvents s e.1 e.2).flatten ++
  (s.clusters.filterMap fun e => if e.2.unit.front.isEmpty then none else some (Instr.matrixEntryService e.1)) ++
  (s.tasks.map fun e => e.2.detached.map fun m => Instr.detachedAccessPerformed e.1 m.id).flatten ++
  (s.cmds.map fun e => [Instr.streamerKick e.1, Instr.mcmdKickArrive e.1, Instr.keyedRecordArrive e.1,
    Instr.completionRelease e.1, Instr.streamerChunk e.2.engine]).flatten ++
  (s.cmsgs.map fun e => Instr.counterUpdate e.1) ++ (s.kmsgs.map fun e => Instr.ksendAnswer e.1) ++
  (s.tiles.map fun e => Instr.ringTileArrive e.1) ++ (s.credits.map fun e => Instr.ringCreditReturn e.1) ++
  (s.nets.map fun e => Instr.nsendAck e.1) ++
  (s.launches.map fun e => [Instr.exchPhaseRelease e.1, Instr.timetableStart e.1, Instr.doneIncrement e.1]).flatten ++
  (s.groups.filterMap fun e => if e.2.live then some (Instr.shareMessage (gidOf e.1 e.2.gen)) else none) ++
  (s.probes.map fun e => Instr.probeMessage e.1) ++ (s.wakes.map fun e => Instr.cycleWakeMessage e.1)

/-- The turn that follows when nothing is asked for: an event that may be due, a core's cycle and router cycles take turns,
the events one after another (log 1). -/
def defaultTurn (s : State) : State × Turn :=
  let n := s.turns
  let s := { s with turns := n + 1 }
  let es := dueEvents s
  match n % 3 with
  | 0 => (match es[n / 3 % es.length]? with
    | some e => (s, .event e)
    | none => (s, .tick 1))
  | 1 => (match nextCore s with
    | some c => ({ s with focus := c }, .core c)
    | none => (s, .tick 1))
  | _ => (s, .tick 1)

/-- The next turn, and the state without it. -/
def nextTurn (s : State) : State × Turn :=
  match s.agenda with
  | t :: ts => ({ s with agenda := ts }, t)
  | [] => defaultTurn s

/-! ### A program placed for the next step (log 3) -/

def wordCode : Nat := 0x4000000000

def wordLaunch : LaunchRec :=
  { kbind := 0, doneEn := false, doneCtr := 0, doneCoord := 0, image := 0, save := 0, lmsize := 1, lmoff := 0
    parkmask := 0, feat := 0, asid := 0, prio := 0, cap := 0, shares := 10, group := 0, gmode := 4, layers := 1
    ncol := 1, nrow := 1, ndie := 1, orgcol := 0, orgrow := 0, orgdie := 0, args := 0
    entry := BitVec.ofNat 64 wordCode, limit := BitVec.ofNat 64 (wordCode + 64), code := BitVec.ofNat 64 wordCode }

/-- A launch of one task on core (0, 0, 0), placed, with a word at its entry. -/
def placeWord (s : State) (w : Nat) : State :=
  let l : LaunchSt := { r := wordLaunch, level := 0, argv := List.replicate 8 0 }
  let k : TaskSt := { launch := 0, asid := 0, group := 64, place := .resident 0 0 }
  let g : GroupSt := { gen := 0, own := 10, origin := .launch 0 }
  let s := { s with
    launches := tset s.launches 0 l
    tasks := tset s.tasks 0 k
    groups := tset s.groups 1 g
    seq := s.seq + 1
    agenda := [.core 0] }
  let s := modCore s 0 fun c => { c with
    owner := some 0, op := 3, target := 3, slots := [(0, freshSlot 0 l)], settle := 0, halted := false }
  blockAdd (setDie s 0 { getDie s 0 with holding := false }) (clusterOf s 0)
    ⟨some 0, wordCode / 64, BitVec.ofNat 512 (w % 2 ^ 128), false⟩

end Sys2Proof.Machine
end

