-- ==== Sys2Proof/Machine/Step.lean ====
section
/-!
DEFINITION. One step of the machine: the turn that the agenda names, or, when it is empty, the default turn.
-/
set_option Elab.async false
namespace Sys2Proof.Machine

/-- One step: a device event, a core's cycle with the instruction that it issues, or router cycles that pass. An
instruction in the agenda is none of the environment's business and does nothing. -/
def step (s : State) : Host.Outcome State Fault Refusal :=
  match nextTurn s with
  | (s, .event i) => if isEvent i then exec i s else .next s
  | (s, .core c) =>
    match coreTurn s c with
    | (s, some i) => exec i s
    | (s, none) => .next s
  | (s, .tick n) => .next (tick s n)

/-- The state in which the next step fetches and runs the instruction whose bits are w: a task that a launch has placed
in slot 0 of core 0, its pc at the code base, its first fetch block in the instruction cache (log 3). -/
def State.withFetchWord (s : State) (nbits w : Nat) : State := placeWord s (w % 2 ^ nbits)

end Sys2Proof.Machine
end

