-- ==== Sys2Proof/Safety.lean ====
section
/-!
DEFINITION. What a safe run is, in the terms that statements use: canonical memories, the conditions under which an
instruction has its effect, and the state that an instruction leaves whose effect is on its own slot.
-/
set_option Elab.async false
namespace Sys2Proof.Machine

/-- The memories of a state in canonical form: physical memory, every local memory, every microcode store. -/
def State.memOk (s : State) : Bool :=
  Memory.wf s.mem && (s.cores.all fun e => Memory.wf e.2.lmem) && s.micro.all fun e => Memory.wf e.2

/-- The current slot holds this task record, and the checks of R75 let instruction i have its effect: the core has its
features, no dependence hint traps, its guard is readable and on, no source is poisoned, and no notice has left a PAGE for it
(R340). -/
structure State.Runs (s : State) (h : Hdr) (i : Instr) (sl : SlotSt) (k : TaskSt) : Prop where
  slot  : curSlot s = some sl
  task  : getTask s sl.task = some k
  feats : ∀ b ∈ (profile i).feats, (getCore s s.core).feat.getLsbD b = true
  hints : hintKind sl h (profile i) false = 0 ∨ sl.strict = false ∨ sl.level ≠ k.level0
  guard : sl.poisoned (physRegs sl.bank [.p h.guard.val]) = none
  on    : guardOff sl h (profile i) = false
  clean : sl.poisoned (if (profile i).vec && sl.mask h = 0 then [] else physRegs sl.bank (profile i).sources) = none
  fresh : sl.mark = none

/-- The checks of R75 with a guard that turns the instruction off. -/
structure State.Skips (s : State) (h : Hdr) (i : Instr) (sl : SlotSt) (k : TaskSt) : Prop where
  slot  : curSlot s = some sl
  task  : getTask s sl.task = some k
  feats : ∀ b ∈ (profile i).feats, (getCore s s.core).feat.getLsbD b = true
  hints : hintKind sl h (profile i) true = 0 ∨ sl.strict = false ∨ sl.level ≠ k.level0
  guard : sl.poisoned (physRegs sl.bank [.p h.guard.val]) = none
  off   : guardOff sl h (profile i) = true

/-- The slot as the issue of an instruction leaves it, before the effect (R57, R64 to R72). -/
def SlotSt.started (sl : SlotSt) (h : Hdr) (i : Instr) (id : Nat) : SlotSt :=
  sl.issued h i false (hintKind sl h (profile i) false) id

/-- The slot as an instruction that its guard turns off leaves it. -/
def SlotSt.skipped (sl : SlotSt) (h : Hdr) (i : Instr) (id : Nat) : SlotSt :=
  sl.issued h i true (hintKind sl h (profile i) true) id

/-- The state with the current slot changed to q, the issue choice noted (R49), and nothing else changed. -/
def State.withSlot (s : State) (yld : Bool) (q : SlotSt) : State :=
  { s with cores := tset s.cores s.core { getCore s s.core with
      rr := s.slot, last := s.slot, yielded := yld, slots := tset (getCore s s.core).slots s.slot q } }

/-- The state in which an instruction has issued: its slot is q, and two names have been handed out. -/
def State.after (s : State) (h : Hdr) (q : SlotSt) : State := { s.withSlot h.yld q with seq := s.seq + 2 }

/-- Where instruction i has its effect, that effect is f on its own slot, and nothing outside the slot changes. -/
def State.Gives (s : State) (h : Hdr) (i : Instr) (f : SlotSt → SlotSt) : Prop :=
  ∀ sl k, s.Runs h i sl k → exec i s = .next (s.after h (f (sl.started h i s.seq)))

/-- The state in which an instruction has issued and its effect begins. -/
def State.begun (s : State) (h : Hdr) (i : Instr) (sl : SlotSt) : State := s.after h (sl.started h i s.seq)

/-- Where instruction i has its effect, and the slot, the task and the state in which it has issued are such as `ok` asks,
it answers the state that f makes of that state. -/
def State.Does (s : State) (h : Hdr) (i : Instr) (ok : SlotSt → TaskSt → State → Prop)
    (f : SlotSt → TaskSt → State → State) : Prop :=
  ∀ sl k, s.Runs h i sl k → ok sl k (s.begun h i sl) → exec i s = .next (f sl k (s.begun h i sl))

/-- Where instruction i has its effect, but the slot, the task and the state are such as `bad` says, it takes the trap that
t gives: the check is the entry's own, so the word has issued and leaves its pace and its yield bit, and nothing else (R49, R64,
R65, R75, R101; log 56). -/
def State.Traps (s : State) (h : Hdr) (i : Instr) (bad : SlotSt → TaskSt → State → Prop) (t : SlotSt → Trap) : Prop :=
  ∀ sl k, s.Runs h i sl k → bad sl k (s.begun h i sl) →
    exec i s = .next (raiseTrap (tried s h) s.core s.slot { t sl with word := wordOf i })

/-- An operation of the width that .w chooses: on the low 32 bits with the result sign-extended, or on all 64 (R80). -/
def inWidth (w : Bool) (f : (n : Nat) → BitVec n → BitVec n → BitVec n) (x y : Word) : Word :=
  if w then (f 32 (x.setWidth 32) (y.setWidth 32)).signExtend 64 else f 64 x y

/-- Lane j of width w: bits [w·j + w − 1 : w·j] (R123). -/
def laneOf (w : Nat) (v : Vec) (j : Nat) : BitVec w := v.extractLsb' (w * j) w

/-- Where instruction i has its effect, it writes vector d lane by lane: the lanes whose guard bit is set get f's value,
the others keep theirs; FPSTAT gains the flags of the lanes that are on; nothing else changes (R123 to R125). -/
def State.GivesLanes (s : State) (h : Hdr) (i : Instr) (w : Nat) (d : VReg)
    (f : SlotSt → Nat → BitVec w × Flags) : Prop :=
  ∀ sl k, s.Runs h i sl k → ∃ (r : Vec) (fl : Flags),
    exec i s = .next (s.after h (((sl.started h i s.seq).setV d.val r).orFlags fl)) ∧
    (∀ j, j < 256 / w → laneOf w r j = if (sl.mask h).getLsbD (w * j / 32) then (f sl j).1 else laneOf w (sl.v d.val) j) ∧
    (∀ b, fl.getLsbD b = true ↔
      ∃ j, j < 256 / w ∧ (sl.mask h).getLsbD (w * j / 32) = true ∧ (f sl j).2.getLsbD b = true)

/-- Where instruction i has its effect, it writes predicate d bit by bit: the bits that the guard turns on get f's value,
the others keep theirs, and writes to p0 are discarded; FPSTAT gains the flags of the bits that are on (R131). -/
def State.GivesBits (s : State) (h : Hdr) (i : Instr) (d : PReg) (f : SlotSt → Nat → Bool × Flags) : Prop :=
  ∀ sl k, s.Runs h i sl k → ∃ (r : Pred) (fl : Flags),
    exec i s = .next (s.after h (((sl.started h i s.seq).setPr d.val r).orFlags fl)) ∧
    (∀ j, j < 8 → r.getLsbD j = if (sl.mask h).getLsbD j then (f sl j).1 else (sl.p d.val).getLsbD j) ∧
    (∀ b, fl.getLsbD b = true ↔ ∃ j, j < 8 ∧ (sl.mask h).getLsbD j = true ∧ (f sl j).2.getLsbD b = true)

end Sys2Proof.Machine
end

