-- ==== Sys2Proof/Certificates/Slice0/Obligations.lean ====
section
/-!
DEFINITION. The statements about the model that are to be proved. Each cites the rules that it rests on; where a clause
rests on a choice of the model, its text says so and names the log entry.
-/
set_option Elab.async false
open Sys2Proof Sys2Proof.Machine

/-- A step (R49, R50, R73 to R75): what the agenda asks for, then; on a core's turn, with one resident slot at a fetched
word inside its code bounds, nothing held, nothing to wait for and every dependence met, the instruction of that word, in
the state in which the slot is a core cycle older. Of several slots that may issue, one of the highest priority does, the
next after the last one in turn, and not the one that yielded if there is another. The agenda is the model's (log 1). -/
def Obligations.StepRunsDecoded : Prop :=
  ∀ (s : State) (ts : List Turn) (c i n : Nat) (e : Instr) (sl : SlotSt) (k : TaskSt) (b : IBlock) (p : Plan),
    (s.agenda = .event e :: ts →
      (isEvent e = true → step s = exec e { s with agenda := ts }) ∧ (isEvent e = false → step s = .next { s with agenda := ts })) ∧
    (s.agenda = .tick n :: ts → s.late = [] → exchanging s = false → (∀ e ∈ s.groups, e.2.settled = false) →
      (∀ e ∈ s.cores, e.2.freezing = false) → (∀ d j q ctr v t x y, slotAt s d j = some q → q.hold ≠ .sleep ctr v t x y) →
      ∃ t, step s = .next t ∧ t.now = s.now + n ∧ t.agenda = ts ∧ t.cores = s.cores ∧ t.mem = s.mem ∧ t.tasks = s.tasks) ∧
    (s.agenda = .core c :: ts → (getCore s c).slots = [(i, sl)] → i < 4 → isHart c = false → getTask s sl.task = some k →
      sl.hold = .none → sl.frozen = none → sl.gap ≤ 1 → sl.preReq = none → userIntReady s sl = false → clockRuns s c = true →
      let q := ageSlot sl
      let word := b.word sl.pc.toNat
      boundsTrap s c q k = none → b.bad = false →
      (if uncached c then ∃ u g, blockAt s (fetchTag s c q k) (sl.pc.toNat / 64) = .ok (u, g) ∧
          b = blockRead u (fetchTag s c q k) (sl.pc.toNat / 64) g.pa
        else blockFind s (clusterOf s c) (fetchTag s c q k) (sl.pc.toNat / 64) = some b) →
      (decode word = .ok e ∨ (∃ r, decode word = .error r) ∧ e = .illegal word) →
      (∀ h, hdrOf e = some h → trapsEarly s c e = true ∨ mustWait s c q e h = false ∧
        (strictMiss q k e h = true ∨ shadowReady q h (profile e) (guardOff q h (profile e)) = true)) →
      step s = exec e (fetchDirect (takeMark { modCore { s with agenda := ts } c fun x => { x with slots := [(i, q)] } with
        core := c, slot := i } c i (.run e)) c i)) ∧
    (let el := eligible s c
     let core := getCore s c
     (el = [] → choose s c = .idle) ∧
     let w := slotsOf c
     (core.rr < w → (el.map Prod.fst).Nodup → (∀ x ∈ el, x.1 < w) →
       (el ≠ [] → choose s c ≠ .idle) ∧
       (choose s c = .pick i p → ∃ m, (i, m, p) ∈ el ∧ (∀ x ∈ el, x.2.1 ≤ m) ∧
         (core.yielded = true → i = core.last → ∀ x ∈ el, x.2.1 = m → x.1 = i) ∧
         (core.yielded = false → ∀ x ∈ el, x.2.1 = m → (i + (2 * w - 1) - core.rr) % w ≤ (x.1 + (2 * w - 1) - core.rr) % w))))

/-- Words written out from the encodings of the spec decode to the instructions that they stand for, one of each class (R56 to
R62, and the encoding tables of the classes); words that break R59, R60, R62 or R74 decode to none. The BR, FMA, DEC8, CPY, LD
and ADD words are the spec's worked ones. -/
def Obligations.DecodeWords : Prop :=
  let h : Hdr := { pace := 0, yld := false, reuse := 0, claim := .none, wait := 0, neg := false, guard := 0 }
  let sched : Hdr := { pace := 3, yld := false, reuse := 4, claim := .written 1, wait := 5, neg := false, guard := 0 }
  decode 0x1A24_1400_2002_051C_0000_0000_0000_0000 = .ok (.add sched false 8 5 7) ∧
  decode 0x1000_0100_0002_FFFF_FFFF_FFFB = .ok (.br h 1 .all false 0xFFFFFFFFFFFB) ∧
  decode 0x3080_4200_0000_0000_0000_00CC = .ok (.bfx h 1 2 12 3) ∧
  decode 0x4001_DE7C_0019_0000_0000_0000 = .ok (.cmp h .gen true 7 30 31) ∧
  decode 0x5030_420C_4008_0000_0000_0000 = .ok (.fma h .f32 .rne 1 2 3 4) ∧
  decode 0x60C1_C20C_05C5_0000_0000_0000 = .ok (.vcmp h .len .n16 true 7 2 3) ∧
  decode 0x7031_4600_048D_0000_0000_0000 = .ok (.dec8 h .f32 .rne 1 5 6 false) ∧
  decode 0x8003_4A01_8101_8000_0000_0040 = .ok (.ld h ⟨3, 2, .none, .core⟩ .d false 13 10 64) ∧
  decode 0x9000_420C_0069_4008_0000_0004 = .ok (.amo h ⟨0, 0, .acqrel, .die⟩ .swap false true 1 2 3 4) ∧
  decode 0xA005_1559_0000_0000_0000_0000 = .ok (.cpy h ⟨2, 0, .none, .core⟩ 0 20 21 22 0) ∧
  decode 0xB030_000C_0000_0015_FFFF_FFFF = .ok (.cntadd h ⟨0, 0, .none, .core⟩ true 0 3 5 0xFFFFFFFF) ∧
  decode 0xC060_0000_0000_0000_0000_0000 = .ok (.mmas h 0) ∧
  decode 0xD050_4200_0001_0000_0000_0000 = .ok (.kstatCnt h 1 2) ∧
  decode 0xE070_4200_0001_8007_0000_0040 = .ok (.qpopt h ⟨0, 0, .none, .core⟩ 7 1 2 64) ∧
  decode 0x07 = .ok (.illegal 7) ∧
  (∀ w ∈ ([
    0x8003_4A01_8102_8000_0000_0040, 0x8003_4A00_000D_8000_0000_0000,
    0x8003_4A00_0001_C000_0000_0000, 0x8009_4A00_0001_8000_0000_0000,
    0x0000_0001_8003_4A01_8101_8000_0000_0040, 0xF000_0000_0000_0000_0000_0000,
    0x01F0_0000_0000_0000_0000_0000, 0x2000_0000_0000_0000_0000_0001,
    0x1010_2000_0000_0000_0000_0000, 0x0060_0000_2000_0000_0000_0000_0000_0000,
    0x0004_0000_2000_0000_0000_0000_0000_0000] : List (BitVec 128)), ∃ r, decode w = .error r)

/-- Every well-formed instruction has a word, which decodes to it; every word that decodes is the word of what it decodes to,
and that is well-formed (R56 to R62, R74). -/
def Obligations.EncodeDecode : Prop :=
  (∀ i, wellFormed i = true → ∃ w, encode i = some w ∧ decode w = .ok i) ∧
  (∀ w i, decode w = .ok i → wellFormed i = true ∧ encode i = some w)

/-- The machine after reset: TIME, the memories, the registers of every core, the matrix units, the gateway's registers, no
task, launch, command or message (R7, R27, R96, R97, R117, R192, R196, R236, R288, R290, R339, R378). The values that the spec
does not give are the model's choice (log 4): the counters at 0, the topology generations at 0, the banks full (spent 0),
SLHASH at 0, the FEAT and the operating point of a hart. -/
def Obligations.ResetState : Prop :=
  let s := State.reset
  s.memOk = true ∧ s.now = 0 ∧ s.agenda = [] ∧ s.tasks = [] ∧ s.launches = [] ∧ s.groups = [] ∧ s.cmds = [] ∧ s.cmsgs = [] ∧
  s.edges = [] ∧ s.tlb = [] ∧
  (∀ c, let k := getCore s c
    k.owner = none ∧ k.slots = [] ∧ k.queue = [] ∧ k.wt = [] ∧ k.trig = [] ∧ k.stages = [] ∧ k.pod = [] ∧ k.inbox = [] ∧
    k.feat = (if isHart c then 0x0001 else if isControl c then 0x0069 else 0x003F) ∧
    k.op = (if isHart c || isControl c then 3 else 0) ∧ k.waymask = BitVec.allOnes 64 ∧ k.tblA = .q43 ∧ k.tblB = .q43 ∧
    k.tvec = 0 ∧ k.uvec = 0 ∧ k.tframe = 0 ∧ k.fwvec = 0 ∧ k.fwframe = 0 ∧ k.rtcode = 0 ∧ k.rtlimit = 0 ∧ k.upcode = 0 ∧
    k.uplimit = 0 ∧ (∀ n, ctrOf s c n = 0) ∧
    k.fmtA = .bf16 ∧ k.fmtB = .bf16 ∧ k.mint = false ∧ k.mTA = .q43 ∧ k.mTB = .q43 ∧ k.latA = {} ∧ k.skOn = false ∧
    k.a0 = {} ∧ k.a1 = {} ∧ k.mq = []) ∧
  (∀ cl, let u := getUnit s cl
    u.latB = {} ∧ u.bnext = none ∧ u.succ.getD cl = cl ∧ u.pred.getD cl = cl ∧ u.credit = true ∧ u.lease = none ∧
    u.front = [] ∧ u.gen = 0 ∧ u.ag0 = {} ∧ u.ag1 = {} ∧ u.failed = false) ∧
  (∀ d, let v := getDie s d
    v.thresh = 0x0100 ∧ v.uncorr = 0 ∧ v.corr = 0 ∧ v.topo = 0 ∧ v.links = [] ∧ v.spent = 0 ∧ v.holding = false) ∧
  s.gw.slhash = 0 ∧ s.gw.errcfg = 0 ∧ s.gw.errsig = 0 ∧ s.gw.fqsel = 0 ∧ s.gw.apr = []

/-- No step takes the memories out of their canonical form: physical memory, every local memory, every microcode store. -/
def Obligations.StepKeepsMemOk : Prop :=
  ∀ s t, s.memOk = true → step s = .next t → t.memOk = true

/-- The checks of R75 in their order, for every instruction that a word can hold: an absent feature, a hint miss under
strict hints, a poisoned guard, a false guard, a poisoned source (R12, R73, R75, R78, R101, R171). An instruction that its guard
turns off only moves on. That a word which traps at one of these checks has not issued, and so leaves neither its pace nor its
yield bit, is the model's choice (log 56); so is that a YIELD turned off marks its slot only through its yield bit. -/
def Obligations.IssueChecks : Prop :=
  ∀ (s : State) (i : Instr) (h : Hdr) (sl : SlotSt) (k : TaskSt) (a b : Nat), hdrOf i = some h → curSlot s = some sl →
    getTask s sl.task = some k →
    let prof := profile i
    let off := guardOff sl h prof
    let kind := hintKind sl h prof off
    let strict := sl.strict = true ∧ sl.level = k.level0 ∧ kind ≠ 0
    let traps (u : State) (t : Trap) : Prop := exec i s = .next (raiseTrap u s.core s.slot { t with word := wordOf i })
    let absent (f : Nat) : Prop := (getCore s s.core).feat.getLsbD f = false
    let guard := sl.poisoned (physRegs sl.bank [.p h.guard.val])
    let sources := if prof.vec = true ∧ sl.mask h = 0 then [] else physRegs sl.bank prof.sources
    (∀ f r, prof.feats.filter (fun f => !(getCore s s.core).feat.getLsbD f) = f :: r →
      traps (picked s false) { cause := .featureAbsent, detail := f }) ∧
    ((∀ f ∈ prof.feats, ¬ absent f) →
      (strict → traps (modCur (picked s false) fun q => q.countMiss kind) { cause := .hintMiss, detail := kind }) ∧
      (¬ strict → guard = some a → traps (picked s false) { cause := .poison, addr := BitVec.ofNat 64 a }) ∧
      (¬ strict → guard = none → off = true → exec i s = .next (s.withSlot h.yld (sl.skipped h i s.seq))) ∧
      (¬ strict → guard = none → off = false → sl.poisoned sources = some b →
        traps (picked s false) { cause := .poison, addr := BitVec.ofNat 64 b }))

/-- Number formats and rounding (R109 to R115, R128, R130, R143): what the bits of a format stand for; sums, products,
quotients and roots are exact on finite values, or bracketed with a mark that says whether anything was left over; rounding gives
the neighbour that the mode selects, with the flags of R112; special values. 2^x and log2 have their special values and
exact powers alone here: R130 makes every such result correctly rounded, and the general case is left out by the model's choice
(log 14). -/
def Obligations.FloatArithmetic : Prop :=
  ∀ (f : Fmt) (rm : Rnd) (n k sg : Bool) (m l frac ex : Nat) (e g t lo hi : Int) (x : Exact) (r : ℝ) (v w : FVal),
    let mag (m : Nat) (e : Int) : ℝ := m * (2 : ℝ) ^ e
    let sign (n : Bool) : ℝ := if n then -1 else 1
    let real (v : FVal) : ℝ := match v with
      | .fin n m e => sign n * mag m e
      | .nan _ => 0
      | .inf _ => 0
    -- x stands for the magnitude r: it is r cut down, and sticky says whether anything was cut off
    let cut (x : Exact) (r : ℝ) : Prop :=
      mag x.m x.e ≤ r ∧ r < mag (x.m + 1) x.e ∧ (x.sticky = false ↔ r = mag x.m x.e)
    -- j quanta of 2^q are the neighbour of the magnitude r that the mode selects under a sign
    let selects (n : Bool) (r : ℝ) (q : Int) (j : Nat) : Prop := match rm with
      | .rtz => mag j q ≤ r ∧ r < mag (j + 1) q
      | .rdn => if n then r ≤ mag j q ∧ mag j q < r + mag 1 q else mag j q ≤ r ∧ r < mag (j + 1) q
      | .rup => if n then mag j q ≤ r ∧ r < mag (j + 1) q else r ≤ mag j q ∧ mag j q < r + mag 1 q
      | .rne => |r - mag j q| ≤ mag 1 (q - 1) ∧ (|r - mag j q| = mag 1 (q - 1) → j % 2 = 0)
    let away (n : Bool) : Bool := match rm with
      | .rne => true
      | .rtz => false
      | .rdn => n
      | .rup => !n
    let approx (y : Res × Flags) (n : Bool) (r : ℝ) : Prop :=
      ∃ z, y = (.approx z, 0) ∧ z.neg = n ∧ 2 ^ 70 ≤ z.m ∧ cut z r
    f ∈ [fmtF32, fmtF16, fmtBF16, fmtE8M12, fmtF40] →
    -- the bits of a format
    (frac < 2 ^ f.fb → ex < 2 ^ f.eb → f.decode (f.signed n (ex * 2 ^ f.fb + frac)) =
      if ex = 2 ^ f.eb - 1 then (if frac = 0 then .inf n else .nan (decide (frac < 2 ^ (f.fb - 1))))
      else if ex = 0 then (if f.sub then .fin n frac (1 - f.bias - f.fb) else .fin n 0 0)
      else .fin n (2 ^ f.fb + frac) (ex - f.bias - f.fb)) ∧
    -- rounding
    (1 ≤ x.m → (x.sticky = true → 2 ^ (f.fb + 3) ≤ x.m) → cut x r → (2 : ℝ) ^ t ≤ r → r < (2 : ℝ) ^ (t + 1) →
      let out := f.round rm x
      let is (y : ℝ) (fl : Flags) : Prop :=
        real (f.decode out.1) = sign x.neg * y ∧ (f.decode out.1).neg = x.neg ∧ out.1 < 2 ^ (f.eb + f.fb + 1) ∧
        (∃ m e, f.decode out.1 = .fin x.neg m e) ∧ out.2 = if y = r then 0 else fl
      ∃ j, selects x.neg r (t - f.fb) j ∧
        ((2 : ℝ) ^ (f.bias + 1) ≤ mag j (t - f.fb) →
          out = (if away x.neg then f.infBits x.neg else f.maxBits x.neg, flOF ||| flNX)) ∧
        (mag j (t - f.fb) < (2 : ℝ) ^ (1 - f.bias) → f.sub = false → out = (f.signed x.neg 0, flUF ||| flNX)) ∧
        (mag j (t - f.fb) < (2 : ℝ) ^ (1 - f.bias) → f.sub = true → ∃ i, selects x.neg r (1 - f.bias - f.fb) i ∧
          is (mag i (1 - f.bias - f.fb)) (flUF ||| flNX)) ∧
        ((2 : ℝ) ^ (1 - f.bias) ≤ mag j (t - f.fb) → mag j (t - f.fb) < (2 : ℝ) ^ (f.bias + 1) →
          is (mag j (t - f.fb)) flNX)) ∧
    (f.pack rm (.val (.nan sg)) = (f.qnan, 0) ∧ f.pack rm (.val (.inf n)) = (f.infBits n, 0) ∧
      f.pack rm (.val (.fin n 0 e)) = (f.signed n 0, 0) ∧ (m ≠ 0 → f.pack rm (.val (.fin n m e)) = f.round rm ⟨n, m, e, false⟩)) ∧
    -- sums and products of finite values
    (let y := addV rm (.fin n m e) (.fin k l g)
     y.2 = 0 ∧ (∃ s a c, y.1 = .fin s a c) ∧ real y.1 = real (.fin n m e) + real (.fin k l g) ∧
     (real y.1 = 0 → y.1.neg = if n = k then n else rm = .rdn)) ∧
    mulV (.fin n m e) (.fin k l g) = (.fin (n != k) (m * l) (e + g), 0) ∧
    -- a fused sum of finite values: the exact product plus the exact addend, rounded once when it is packed
    (let y := fmaV rm (.fin n m e) (.fin k l g) (.fin sg frac t)
     y.2 = 0 ∧ (∃ s a c, y.1 = .fin s a c) ∧ real y.1 = real (.fin n m e) * real (.fin k l g) + real (.fin sg frac t) ∧
     (real y.1 = 0 → y.1.neg = if (n != k) = sg then sg else rm = .rdn)) ∧
    -- quotients, roots and reciprocals of finite values that are not zero
    (m ≠ 0 → l ≠ 0 → approx (divV (.fin n m e) (.fin k l g)) (n != k) (mag m e / mag l g)) ∧
    (m ≠ 0 → approx (rcpV (.fin n m e)) n (1 / mag m e)) ∧
    (m ≠ 0 → approx (sqrtV (.fin false m e)) false (Real.sqrt (mag m e))) ∧
    (m ≠ 0 → approx (rsqV (.fin false m e)) false (1 / Real.sqrt (mag m e))) ∧
    -- special values
    (v.isNan = true → addV rm v w = (qNaN, 0) ∧ addV rm w v = (qNaN, 0) ∧ mulV v w = (qNaN, 0) ∧ mulV w v = (qNaN, 0) ∧
      divV v w = (.val qNaN, 0) ∧ divV w v = (.val qNaN, 0) ∧ sqrtV v = (.val qNaN, 0) ∧ rcpV v = (.val qNaN, 0) ∧
      rsqV v = (.val qNaN, 0) ∧ exp2V v = (.val qNaN, 0) ∧ log2V v = (.val qNaN, 0)) ∧
    addV rm (.inf n) (.inf k) = (if n = k then (.inf n, 0) else (qNaN, flNV)) ∧
    addV rm (.inf n) (.fin k m e) = (.inf n, 0) ∧ addV rm (.fin k m e) (.inf n) = (.inf n, 0) ∧
    mulV (.inf n) (.inf k) = (.inf (n != k), 0) ∧
    mulV (.inf n) (.fin k m e) = (if m = 0 then (qNaN, flNV) else (.inf (n != k), 0)) ∧
    mulV (.fin k m e) (.inf n) = (if m = 0 then (qNaN, flNV) else (.inf (k != n), 0)) ∧
    (fmaV rm v w (.fin n m e)).2 = (mulV v w).2 ||| (addV rm (mulV v w).1 (.fin n m e)).2 ∧
    fmaV rm (.inf n) (.fin k 0 e) (.nan false) = (qNaN, flNV) ∧
    divV (.inf n) (.inf k) = (.val qNaN, flNV) ∧ divV (.inf n) (.fin k m e) = (.val (.inf (n != k)), 0) ∧
    divV (.fin n m e) (.inf k) = (.val (.fin (n != k) 0 0), 0) ∧
    divV (.fin n m e) (.fin k 0 g) = (if m = 0 then (.val qNaN, flNV) else (.val (.inf (n != k)), flDZ)) ∧
    (l ≠ 0 → divV (.fin n 0 e) (.fin k l g) = (.val (.fin (n != k) 0 0), 0)) ∧
    rcpV (.inf n) = (.val (.fin n 0 0), 0) ∧ rcpV (.fin n 0 e) = (.val (.inf n), flDZ) ∧
    sqrtV (.inf true) = (.val qNaN, flNV) ∧ sqrtV (.inf false) = (.val (.inf false), 0) ∧
    sqrtV (.fin n 0 e) = (.val (.fin n 0 0), 0) ∧ (m ≠ 0 → sqrtV (.fin true m e) = (.val qNaN, flNV)) ∧
    rsqV (.inf true) = (.val qNaN, flNV) ∧ rsqV (.inf false) = (.val (.fin false 0 0), 0) ∧
    rsqV (.fin n 0 e) = (.val (.inf n), flDZ) ∧ (m ≠ 0 → rsqV (.fin true m e) = (.val qNaN, flNV)) ∧
    exp2V (.inf true) = (.val (.fin false 0 0), 0) ∧ exp2V (.inf false) = (.val (.inf false), 0) ∧
    exp2V (.fin n 0 e) = (.val (.fin false 1 0), 0) ∧
    (e < 0 → exp2V (.fin n (m * 2 ^ (-e).toNat) e) =
      if m = 0 then (.val (.fin false 1 0), 0) else (.approx ⟨false, 1, if n then -m else m, false⟩, 0)) ∧
    log2V (.inf true) = (.val qNaN, flNV) ∧ log2V (.inf false) = (.val (.inf false), 0) ∧
    log2V (.fin n 0 e) = (.val (.inf true), flDZ) ∧ (m ≠ 0 → log2V (.fin true m e) = (.val qNaN, flNV)) ∧
    log2V (.fin false (2 ^ m) e) = (.val (.fin (decide (e + m < 0)) (e + m).natAbs 0), 0) ∧
    -- numeric order, with -0 below +0 for FMIN and FMAX
    (cmpV (.fin n m e) (.fin k l g) < 0 ↔ real (.fin n m e) < real (.fin k l g)) ∧
    (cmpV (.fin n m e) (.fin k l g) = 0 ↔ real (.fin n m e) = real (.fin k l g)) ∧
    cmpV (.inf n) (.inf k) = (if n = k then 0 else if n then -1 else 1) ∧
    cmpV (.inf n) (.fin k m e) = (if n then -1 else 1) ∧ cmpV (.fin k m e) (.inf n) = (if n then 1 else -1) ∧
    ltV v w = (decide (cmpV v w < 0) || (decide (cmpV v w = 0) && v.isZero && w.isZero && v.neg && !w.neg)) ∧
    -- scaling, and integers
    (scaleV (.fin n m e) t).neg = n ∧ real (scaleV (.fin n m e) t) = real (.fin n m e) * (2 : ℝ) ^ t ∧
    (-2 ^ 31 ≤ lo → lo ≤ 0 → 0 ≤ hi → hi < 2 ^ 32 → toIntSat rm lo hi (.nan sg) = (0, flNV) ∧
      toIntSat rm lo hi (.inf n) = (if n then lo else hi, flNV) ∧
      ∃ j : Nat, selects n (mag m e) 0 j ∧
        let i : Int := if n then -j else j
        toIntSat rm lo hi (.fin n m e) = if i < lo then (lo, flNV) else if hi < i then (hi, flNV)
          else (i, if mag j 0 = mag m e then 0 else flNX)) ∧
    (real (ofIntV e) = e)

/-- Class 2 (R80, R81): every function, in both widths. -/
def Obligations.IntegerResults : Prop :=
  ∀ (s : State) (h : Hdr) (w : Bool) (d a b c : XReg) (imm : BitVec 48) (n : BitVec 6),
    let gives (i : Instr) (f : SlotSt → Word) : Prop := s.Gives h i fun q => q.setX d.val (f q)
    gives (.add h w d a b) (fun q => inWidth w (fun _ x y => x + y) (q.x a.val) (q.x b.val)) ∧
    gives (.sub h w d a b) (fun q => inWidth w (fun _ x y => x - y) (q.x a.val) (q.x b.val)) ∧
    gives (.addi h w d a imm) (fun q => inWidth w (fun _ x y => x + y) (q.x a.val) (imm.signExtend 64)) ∧
    gives (.mul h w d a b) (fun q => inWidth w (fun _ x y => x * y) (q.x a.val) (q.x b.val)) ∧
    gives (.mulh h w d a b) (fun q => inWidth w
      (fun m x y => (x.signExtend (m + m) * y.signExtend (m + m)).extractLsb' m m) (q.x a.val) (q.x b.val)) ∧
    gives (.mulhn h w d a b) (fun q => inWidth w
      (fun m x y => (x.setWidth (m + m) * y.setWidth (m + m)).extractLsb' m m) (q.x a.val) (q.x b.val)) ∧
    gives (.mad h w d a b c) (fun q => inWidth w (fun _ x y => x + y)
      (inWidth w (fun _ x y => x * y) (q.x a.val) (q.x b.val)) (q.x c.val)) ∧
    gives (.div h w d a b) (fun q => inWidth w
      (fun m x y => if y = 0 then BitVec.allOnes m else x.sdiv y) (q.x a.val) (q.x b.val)) ∧
    gives (.divn h w d a b) (fun q => inWidth w
      (fun m x y => if y = 0 then BitVec.allOnes m else x / y) (q.x a.val) (q.x b.val)) ∧
    gives (.rem h w d a b) (fun q => inWidth w
      (fun _ x y => if y = 0 then x else x.srem y) (q.x a.val) (q.x b.val)) ∧
    gives (.remn h w d a b) (fun q => inWidth w
      (fun _ x y => if y = 0 then x else x % y) (q.x a.val) (q.x b.val)) ∧
    gives (.and h d a b) (fun q => q.x a.val &&& q.x b.val) ∧
    gives (.or h d a b) (fun q => q.x a.val ||| q.x b.val) ∧
    gives (.xor h d a b) (fun q => q.x a.val ^^^ q.x b.val) ∧
    gives (.andn h d a b) (fun q => q.x a.val &&& ~~~ q.x b.val) ∧
    gives (.orn h d a b) (fun q => q.x a.val ||| ~~~ q.x b.val) ∧
    gives (.shl h w d a b) (fun q => inWidth w (fun m x y => x <<< (y.toNat % m)) (q.x a.val) (q.x b.val)) ∧
    gives (.shr h w d a b) (fun q => inWidth w (fun m x y => x >>> (y.toNat % m)) (q.x a.val) (q.x b.val)) ∧
    gives (.sar h w d a b) (fun q => inWidth w (fun m x y => x.sshiftRight (y.toNat % m)) (q.x a.val) (q.x b.val)) ∧
    gives (.rol h w d a b) (fun q => inWidth w (fun m x y => x.rotateLeft (y.toNat % m)) (q.x a.val) (q.x b.val)) ∧
    gives (.shli h w d a n) (fun q => inWidth w (fun m x _ => x <<< (n.toNat % m)) (q.x a.val) 0) ∧
    gives (.shri h w d a n) (fun q => inWidth w (fun m x _ => x >>> (n.toNat % m)) (q.x a.val) 0) ∧
    gives (.sari h w d a n) (fun q => inWidth w (fun m x _ => x.sshiftRight (n.toNat % m)) (q.x a.val) 0)

/-- Class 3 (R82 to R84): every function. A field of BFX, BFXZ and BFI is cut at bit 63. -/
def Obligations.BitAndMoveResults : Prop :=
  ∀ (s : State) (h : Hdr) (d a b : XReg) (c : PReg) (pos len : BitVec 6) (pcrel : Bool) (sh : BitVec 3)
    (imm : BitVec 48) (k : BitVec 16),
    let gives (i : Instr) (f : SlotSt → Word) : Prop := s.Gives h i fun q => q.setX d.val (f q)
    let l := Nat.min (len.toNat + 1) (64 - pos.toNat)
    gives (.min h d a b) (fun q => if (q.x a.val).toInt ≤ (q.x b.val).toInt then q.x a.val else q.x b.val) ∧
    gives (.max h d a b) (fun q => if (q.x a.val).toInt ≤ (q.x b.val).toInt then q.x b.val else q.x a.val) ∧
    gives (.minn h d a b) (fun q => if (q.x a.val).toNat ≤ (q.x b.val).toNat then q.x a.val else q.x b.val) ∧
    gives (.maxn h d a b) (fun q => if (q.x a.val).toNat ≤ (q.x b.val).toNat then q.x b.val else q.x a.val) ∧
    gives (.clz h d a) (fun q => (q.x a.val).clz) ∧
    gives (.ctz h d a) (fun q => (q.x a.val).ctz) ∧
    gives (.popc h d a) (fun q => (q.x a.val).cpop) ∧
    gives (.brev h d a) (fun q => (q.x a.val).reverse) ∧
    gives (.bfx h d a pos len) (fun q => ((q.x a.val).extractLsb' pos.toNat l).signExtend 64) ∧
    gives (.bfxz h d a pos len) (fun q => ((q.x a.val).extractLsb' pos.toNat l).setWidth 64) ∧
    (∃ f : SlotSt → Word, gives (.bfi h d a b pos len) f ∧ ∀ q j, j < 64 → (f q).getLsbD j =
      if pos.toNat ≤ j ∧ j < pos.toNat + l then (q.x b.val).getLsbD (j - pos.toNat) else (q.x a.val).getLsbD j) ∧
    gives (.lea h d a b pcrel sh imm) (fun q =>
      (if pcrel then q.pc - 16 else q.x a.val) + (q.x b.val <<< sh.toNat) + imm.signExtend 64) ∧
    gives (.li h d imm) (fun _ => imm.signExtend 64) ∧
    gives (.lih h d a k) (fun q => k ++ (q.x a.val).extractLsb' 0 48) ∧
    gives (.mov h d a) (fun q => q.x a.val) ∧
    gives (.sel h d a b c) (fun q => if (q.p c.val).getLsbD 0 then q.x a.val else q.x b.val)

/-- Class 4 (R85, R86). CMP and CMPI write one truth value to all eight lanes. -/
def Obligations.PredicateResults : Prop :=
  ∀ (s : State) (h : Hdr) (w : Bool) (d a b : PReg) (e f g : XReg) (imm8 : BitVec 8) (imm : BitVec 48) (cc : Cc),
    let gives (i : Instr) (v : SlotSt → Pred) : Prop := s.Gives h i fun q => q.setPr d.val (v q)
    let holds (n : Nat) (x y : BitVec n) : Bool := match cc with
      | .eq => x == y
      | .ne => x != y
      | .lt => x.slt y
      | .le => x.sle y
      | .gt => y.slt x
      | .ge => y.sle x
      | .ltn => x.ult y
      | .len => x.ule y
      | .gtn => y.ult x
      | .gen => y.ule x
    let test (x y : Word) : Pred :=
      if (if w then holds 32 (x.setWidth 32) (y.setWidth 32) else holds 64 x y) then 0xFF else 0x00
    gives (.cmp h cc w d e f) (fun q => test (q.x e.val) (q.x f.val)) ∧
    gives (.cmpi h cc w d e imm) (fun q => test (q.x e.val) (imm.signExtend 64)) ∧
    gives (.pand h d a b) (fun q => q.p a.val &&& q.p b.val) ∧
    gives (.por h d a b) (fun q => q.p a.val ||| q.p b.val) ∧
    gives (.pxor h d a b) (fun q => q.p a.val ^^^ q.p b.val) ∧
    gives (.pnot h d a) (fun q => ~~~ q.p a.val) ∧
    gives (.pset h d imm8) (fun _ => imm8) ∧
    gives (.psetX h d e) (fun q => (q.x e.val).extractLsb' 0 8) ∧
    s.Gives h (.pget h g a) (fun q => q.setX g.val ((q.p a.val).setWidth 64))

/-- Class 1 (R87 to R90, R92): where a transfer goes. In the effect the pc is already that of the next word. -/
def Obligations.ControlTransfers : Prop :=
  ∀ (s : State) (h : Hdr) (p : PReg) (t : BrTest) (inv : Bool) (a : XReg) (imm : BitVec 48),
    let rel (q : SlotSt) : Word := q.pc - 16 + imm.signExtend 64 * 16
    let abs (q : SlotSt) (v : Word) : Word := (q.x a.val + v) - ((q.x a.val + v) &&& 15)
    let test (m : Pred) : Bool := match t with
      | .l0 => m.getLsbD 0
      | .any => m != 0
      | .all => m == 0xFF
    s.Gives h (.br h p t inv imm) (fun q => if test (q.p p.val) = inv then q else { q with pc := rel q }) ∧
    s.Gives h (.bri h a imm) (fun q => { q with pc := abs q (imm.signExtend 64) }) ∧
    s.Gives h (.call h imm) (fun q => { q.setX 31 q.pc with pc := rel q }) ∧
    s.Gives h (.calli h a imm) (fun q => { q.setX 31 q.pc with pc := abs q (imm.signExtend 64) }) ∧
    s.Gives h (.ret h a) (fun q => { q with pc := abs q 0 }) ∧
    s.Gives h (.loop h a imm) (fun q =>
      let r := q.setX a.val (q.x a.val - 1)
      if q.x a.val = 1 then r else { r with pc := rel q }) ∧
    (∀ sl k, s.Runs h (.yieldSlot h) sl k →
      exec (.yieldSlot h) s = .next { s.withSlot true (sl.started h (.yieldSlot h) s.seq) with seq := s.seq + 2 }) ∧
    s.Gives h (.nop h) (fun q => q)

/-- Class 5, element by element (R123 to R131): every active lane is the operation on the exact values of the operands'
lanes, rounded once into the lane's format; FCMP's predicate bits. The operations and the rounding are the model's
functions on FVal; FloatArithmetic say what those are.

FABS clears the sign bit of a lane, FNEG inverts it, FCLASS gives the class, FMIN and FMAX give one of the two lanes'
bits, or the canonical quiet NaN where both are NaN; none of them rounds (R110, R128, R129, R132). -/
def Obligations.FloatLanes : Prop :=
  (∀ (s : State) (h : Hdr) (t : FTy) (rm : Rnd) (d a b c : VReg) (p : PReg) (cc : FCc) (odd : Bool),
    let val (v : Vec) (j : Nat) : FVal := (FTy.fmt t).decode (laneOf t.bits v j).toNat
    let out (ops : List FVal) (r : Res × Flags) : BitVec t.bits × Flags :=
      (BitVec.ofNat t.bits ((FTy.fmt t).pack rm r.1).1, ((FTy.fmt t).pack rm r.1).2 ||| r.2 ||| sigFlags ops)
    let one (i : Instr) (f : FVal → Res × Flags) : Prop :=
      s.GivesLanes h i t.bits d fun q j => out [val (q.v a.val) j] (f (val (q.v a.val) j))
    let two (i : Instr) (f : FVal → FVal → Res × Flags) : Prop :=
      s.GivesLanes h i t.bits d fun q j =>
        out [val (q.v a.val) j, val (q.v b.val) j] (f (val (q.v a.val) j) (val (q.v b.val) j))
    let three (i : Instr) (f : FVal → FVal → FVal → FVal × Flags) : Prop :=
      s.GivesLanes h i t.bits d fun q j =>
        let x := val (q.v a.val) j
        let y := val (q.v b.val) j
        let z := val (q.v c.val) j
        out [x, y, z] (.val (f x y z).1, (f x y z).2)
    let exactly (r : FVal × Flags) : Res × Flags := (.val r.1, r.2)
    two (.fadd h t rm d a b) (fun x y => exactly (addV rm x y)) ∧
    two (.fsub h t rm d a b) (fun x y => exactly (addV rm x y.negate)) ∧
    two (.fmul h t rm d a b) (fun x y => exactly (mulV x y)) ∧
    two (.fdiv h t rm d a b) divV ∧
    three (.fma h t rm d a b c) (fun x y z => fmaV rm x y z) ∧
    three (.fms h t rm d a b c) (fun x y z => fmaV rm x y z.negate) ∧
    three (.fnma h t rm d a b c) (fun x y z => fmaV rm x.negate y z) ∧
    one (.fsqrt h t rm d a) sqrtV ∧
    one (.frcp h t rm d a) rcpV ∧
    one (.frsq h t rm d a) rsqV ∧
    one (.fexp2 h t rm d a) exp2V ∧
    one (.flog2 h t rm d a) log2V ∧
    s.GivesLanes h (.fscale h t rm d a b) t.bits d (fun q j =>
      out [val (q.v a.val) j] (.val (scaleV (val (q.v a.val) j) (laneOf t.bits (q.v b.val) j).toInt), 0)) ∧
    s.GivesBits h (.fcmp h cc t odd p a b) p (fun q j =>
      let k := if t.bits = 16 then 2 * j + (if odd then 1 else 0) else j
      let x := val (q.v a.val) k
      let y := val (q.v b.val) k
      let un := x.isNan || y.isNan
      let invalid (ordered : Bool) : Flags := if x.isSig || y.isSig || (ordered && un) then flNV else 0
      match cc with
      | .eq => (!un && cmpV x y = 0, invalid false)
      | .ne => (un || cmpV x y ≠ 0, invalid false)
      | .lt => (!un && cmpV x y < 0, invalid true)
      | .le => (!un && cmpV x y ≤ 0, invalid true)
      | .gt => (!un && 0 < cmpV x y, invalid true)
      | .ge => (!un && 0 ≤ cmpV x y, invalid true)
      | .ord => (!un, invalid false)
      | .uno => (un, invalid false))) ∧
  (∀ (s : State) (h : Hdr) (t : FTy) (d a b : VReg),
    let val (x : BitVec t.bits) : FVal := (FTy.fmt t).decode x.toNat
    let top : BitVec t.bits := BitVec.ofNat t.bits (2 ^ (t.bits - 1))
    let nv (x y : BitVec t.bits) : Flags := if (val x).isSig || (val y).isSig then flNV else 0
    let pick (mx : Bool) (x y : BitVec t.bits) : BitVec t.bits :=
      if (val x).isNan && (val y).isNan then BitVec.ofNat t.bits (FTy.fmt t).qnan
      else if (val x).isNan then y
      else if (val y).isNan then x
      else if mx then (if ltV (val y) (val x) then x else y) else (if ltV (val y) (val x) then y else x)
    let cls (x : BitVec t.bits) : Nat := match val x with
      | .inf true => 0
      | .fin true m _ => if m = 0 then 3 else if m < 2 ^ (FTy.fmt t).fb then 2 else 1
      | .fin false m _ => if m = 0 then 4 else if m < 2 ^ (FTy.fmt t).fb then 5 else 6
      | .inf false => 7
      | .nan true => 8
      | .nan false => 9
    s.GivesLanes h (.fabs h t d a) t.bits d (fun q j => (laneOf t.bits (q.v a.val) j &&& ~~~ top, 0)) ∧
    s.GivesLanes h (.fneg h t d a) t.bits d (fun q j => (laneOf t.bits (q.v a.val) j ^^^ top, 0)) ∧
    s.GivesLanes h (.fclass h t d a) t.bits d (fun q j => (1#t.bits <<< cls (laneOf t.bits (q.v a.val) j), 0)) ∧
    s.GivesLanes h (.fmin h t d a b) t.bits d (fun q j =>
      (pick false (laneOf t.bits (q.v a.val) j) (laneOf t.bits (q.v b.val) j),
        nv (laneOf t.bits (q.v a.val) j) (laneOf t.bits (q.v b.val) j))) ∧
    s.GivesLanes h (.fmax h t d a b) t.bits d (fun q j =>
      (pick true (laneOf t.bits (q.v a.val) j) (laneOf t.bits (q.v b.val) j),
        nv (laneOf t.bits (q.v a.val) j) (laneOf t.bits (q.v b.val) j))))

/-- The reductions (R121, R133): the fixed tree over the lanes, lanes that are off as the identity, the flags of every
operation of the tree, and the result zero-extended into xd. FDOT's first level rounds the sum of two exact products. -/
def Obligations.FloatReductions : Prop :=
  ∀ (s : State) (h : Hdr) (t : FTy) (rm : Rnd) (d : XReg) (a b : VReg) (sl : SlotSt) (k : TaskSt),
    let on (j : Nat) : Bool := (sl.mask h).getLsbD (t.bits * j / 32)
    let tree8 (f : Nat × Flags → Nat × Flags → Nat × Flags) (l : Nat → Nat × Flags) (o : Nat) : Nat × Flags :=
      f (f (f (l o) (l (o + 1))) (f (l (o + 2)) (l (o + 3)))) (f (f (l (o + 4)) (l (o + 5))) (f (l (o + 6)) (l (o + 7))))
    let tree (f : Nat × Flags → Nat × Flags → Nat × Flags) (l : Nat → Nat × Flags) : Nat × Flags :=
      if t.bits = 16 then f (tree8 f l 0) (tree8 f l 8) else tree8 f l 0
    let lane (o : Nat) (j : Nat) : Nat × Flags := (if on j then (laneOf t.bits (sl.v a.val) j).toNat else o, 0)
    let add (f : Fmt) (x y : Nat × Flags) : Nat × Flags :=
      let r := addV rm (f.decode x.1) (f.decode y.1)
      ((f.pack rm (.val r.1)).1,
        x.2 ||| y.2 ||| (f.pack rm (.val r.1)).2 ||| r.2 ||| sigFlags [f.decode x.1, f.decode y.1])
    let pick (mx : Bool) (x y : Nat × Flags) : Nat × Flags :=
      ((minmaxBits (FTy.fmt t) mx x.1 y.1).1, x.2 ||| y.2 ||| (minmaxBits (FTy.fmt t) mx x.1 y.1).2)
    let zero : FVal := .fin (rm != .rdn) 0 0
    let val (v : Vec) (j : Nat) : FVal := (FTy.fmt t).decode (laneOf t.bits v j).toNat
    let prod (j : Nat) : FVal := if on j then (mulV (val (sl.v a.val) j) (val (sl.v b.val) j)).1 else zero
    let prodFl (j : Nat) : Flags := if on j then (mulV (val (sl.v a.val) j) (val (sl.v b.val) j)).2 |||
      sigFlags [val (sl.v a.val) j, val (sl.v b.val) j] else 0
    let first (j : Nat) : Nat × Flags :=
      let r := addV rm (prod (2 * j)) (prod (2 * j + 1))
      ((fmtF32.pack rm (.val r.1)).1, prodFl (2 * j) ||| prodFl (2 * j + 1) ||| (fmtF32.pack rm (.val r.1)).2 ||| r.2)
    let add32 := add fmtF32
    let dot : Nat × Flags := if t.bits = 16 then tree8 add32 first 0
      else add32 (add32 (first 0) (first 1)) (add32 (first 2) (first 3))
    let gives (i : Instr) (r : Nat × Flags) : Prop := s.Runs h i sl k →
      exec i s = .next (s.after h (((sl.started h i s.seq).setX d.val (BitVec.ofNat 64 r.1)).orFlags r.2))
    gives (.fred h t rm d a) (tree (add (FTy.fmt t)) (lane ((FTy.fmt t).pack rm (.val zero)).1)) ∧
    gives (.fredmax h t d a) (tree (pick true) (lane ((FTy.fmt t).infBits true))) ∧
    gives (.fredmin h t d a) (tree (pick false) (lane ((FTy.fmt t).infBits false))) ∧
    gives (.fdot h t rm d a b) dot

/-- Class 6 arithmetic (R134, R136 to R138), lane by lane; no flag is set. -/
def Obligations.IntegerLanes : Prop :=
  ∀ (s : State) (h : Hdr) (t : ITy) (u : LTy) (sat odd : Bool) (imm : Option (BitVec 5)) (cc : Cc) (d a b c : VReg)
    (p : PReg) (x : XReg),
    let signed : Bool := t == .i16 || t == .i32
    let w := t.bits
    let int (v : BitVec w) : Int := if signed then v.toInt else v.toNat
    let lo : Int := if signed then -(2 ^ (w - 1)) else 0
    let hi : Int := if signed then 2 ^ (w - 1) - 1 else 2 ^ w - 1
    let fit (e : Int) : BitVec w := BitVec.ofInt w (if sat then max lo (min hi e) else e)
    let lane (v : Vec) (j : Nat) : BitVec w := laneOf w v j
    let arith (i : Instr) (f : Int → Int → Int → BitVec w) : Prop := s.GivesLanes h i w d fun q j =>
      (f (int (lane (q.v a.val) j)) (int (lane (q.v b.val) j)) (int (lane (q.v c.val) j)), 0)
    let shift (i : Instr) (f : BitVec w → Nat → BitVec w) : Prop := s.GivesLanes h i w d fun q j =>
      (f (lane (q.v a.val) j) ((match imm with | some n => n.toNat | none => (lane (q.v b.val) j).toNat) % w), 0)
    let bits (i : Instr) (f : BitVec u.bits → BitVec u.bits → BitVec u.bits) : Prop := s.GivesLanes h i u.bits d fun q j =>
      (f (laneOf u.bits (q.v a.val) j) (laneOf u.bits (q.v b.val) j), 0)
    let holds (x y : BitVec w) : Bool := match cc with
      | .eq => x == y
      | .ne => x != y
      | .lt => x.slt y
      | .le => x.sle y
      | .gt => y.slt x
      | .ge => y.sle x
      | .ltn => x.ult y
      | .len => x.ule y
      | .gtn => y.ult x
      | .gen => y.ule x
    arith (.vadd h t sat d a b) (fun x y _ => fit (x + y)) ∧
    arith (.vsub h t sat d a b) (fun x y _ => fit (x - y)) ∧
    arith (.vmul h t sat d a b) (fun x y _ => fit (x * y)) ∧
    arith (.vmad h t sat d a b c) (fun x y z => fit (x * y + z)) ∧
    arith (.vmin h t d a b) (fun x y _ => BitVec.ofInt w (min x y)) ∧
    arith (.vmax h t d a b) (fun x y _ => BitVec.ofInt w (max x y)) ∧
    bits (.vand h u d a b) (fun x y => x &&& y) ∧
    bits (.vor h u d a b) (fun x y => x ||| y) ∧
    bits (.vxor h u d a b) (fun x y => x ^^^ y) ∧
    shift (.vshl h t imm d a b) (fun x n => x <<< n) ∧
    shift (.vshr h t imm d a b) (fun x n => x >>> n) ∧
    shift (.vsar h t imm d a b) (fun x n => x.sshiftRight n) ∧
    s.GivesBits h (.vcmp h cc t odd p a b) p (fun q j =>
      let k := if w = 16 then 2 * j + (if odd then 1 else 0) else j
      (holds (lane (q.v a.val) k) (lane (q.v b.val) k), 0)) ∧
    s.Gives h (.vred h t x a) (fun q => q.setX x.val (BitVec.ofInt 64
      (((List.range (256 / w)).map fun j => if (q.mask h).getLsbD (w * j / 32) then int (lane (q.v a.val) j) else 0).sum)))

/-- The moves and permutes of class 6 (R139). -/
def Obligations.LaneMoves : Prop :=
  ∀ (s : State) (h : Hdr) (u : LTy) (imm : Option (BitVec 32)) (d a b c : VReg) (p : PReg) (x y : XReg) (n : BitVec 4)
    (sl : SlotSt) (k : TaskSt),
    let w := u.bits
    let signed : Bool := match u with
      | .int .i16 => true
      | .int .i32 => true
      | .int .n16 => false
      | .int .n32 => false
      | .flt _ => false
    s.GivesLanes h (.vbcast h u imm d x) w d (fun q _ =>
      (match imm with | some i => i.setWidth w | none => (q.x x.val).setWidth w, 0)) ∧
    s.GivesLanes h (.vperm h u d a b c) w d (fun q j =>
      let i := (laneOf w (q.v b.val) j).toNat % (2 * (256 / w))
      (if i < 256 / w then laneOf w (q.v a.val) i else laneOf w (q.v c.val) (i - 256 / w), 0)) ∧
    s.GivesLanes h (.vsel h u d a b p) w d (fun q j =>
      (if (q.p p.val).getLsbD (j * w / 32) then laneOf w (q.v a.val) j else laneOf w (q.v b.val) j, 0)) ∧
    (n.toNat < 256 / w → s.Runs h (.vins h u d x n) sl k → ∃ r : Vec,
      exec (.vins h u d x n) s = .next (s.after h (if (sl.mask h).getLsbD (w * n.toNat / 32)
        then (sl.started h (.vins h u d x n) s.seq).setV d.val r else sl.started h (.vins h u d x n) s.seq)) ∧
      ∀ j, j < 256 / w → laneOf w r j = if j = n.toNat then (sl.x x.val).setWidth w else laneOf w (sl.v d.val) j) ∧
    s.Gives h (.vext h u y a n) (fun q => q.setX y.val
      (if signed then (laneOf w (q.v a.val) n.toNat).signExtend 64 else (laneOf w (q.v a.val) n.toNat).setWidth 64)) ∧
    (y.val % 4 ≠ 0 → ∀ w dir, decode w ≠ .ok (.vmovx h dir a y)) ∧
    (y.val % 4 = 0 → s.Gives h (.vmovx h true a y) (fun q =>
      (((q.setX y.val (laneOf 64 (q.v a.val) 0)).setX (y.val + 1) (laneOf 64 (q.v a.val) 1)).setX (y.val + 2)
        (laneOf 64 (q.v a.val) 2)).setX (y.val + 3) (laneOf 64 (q.v a.val) 3))) ∧
    (y.val % 4 = 0 → s.Gives h (.vmovx h false d y) (fun q =>
      q.setV d.val (q.x (y.val + 3) ++ q.x (y.val + 2) ++ q.x (y.val + 1) ++ q.x y.val)))

/-- Class 7 without TBLLD (R141 to R147). A lane of a conversion that has no source keeps its value.

Decode tables (R117 to R119): what an entry decodes to; the shipped tables; the order of the codes; and the code that encodes
a value, by the bisection of R119 whatever the table holds. A saturated extreme is marked, for OF (R146). -/
def Obligations.Conversions : Prop :=
  (∀ (s : State) (h : Hdr) (cd cs : CTy) (ti : ITy) (rm : Rnd) (half tb byte hi sx : Bool) (g : BitVec 2) (d a b : VReg),
    let signed : Bool := ti == .i16 || ti == .i32
    let conv (i : Instr) (ws wd : Nat) (f : BitVec ws → Nat × Flags) : Prop :=
      s.GivesLanes h i wd d fun q j =>
        let src (n : Nat) : BitVec wd × Flags :=
          (BitVec.ofNat wd (f (laneOf ws (q.v a.val) n)).1, (f (laneOf ws (q.v a.val) n)).2)
        if ws = wd then src j
        else if ws < wd then src (if half then 8 + j else j)
        else if half then (if 8 ≤ j then src (j - 8) else (laneOf wd (q.v d.val) j, 0))
        else (if j < 8 then src j else (laneOf wd (q.v d.val) j, 0))
    let val (b : BitVec cs.bits) : FVal := (CTy.fmt cs).decode b.toNat
    let int (b : BitVec ti.bits) : Int := if signed then b.toInt else b.toNat
    let lo : Int := if signed then -(2 ^ (ti.bits - 1)) else 0
    let top : Int := if signed then 2 ^ (ti.bits - 1) - 1 else 2 ^ ti.bits - 1
    let table : DecTable := if tb then (getCore s s.core).tblB else (getCore s s.core).tblA
    let e := if byte then 16 else 32
    (halfOk cd.bits cs.bits half = true → conv (.cvt h cd cs rm half d a) cs.bits cd.bits (fun b =>
      (((CTy.fmt cd).pack rm (.val (val b))).1, ((CTy.fmt cd).pack rm (.val (val b))).2 ||| sigFlags [val b]))) ∧
    (halfOk ti.bits cs.bits half = true → conv (.cvti h ti cs rm half d a) cs.bits ti.bits (fun b =>
      let r := toIntSat rm lo top (val b)
      ((BitVec.ofInt ti.bits r.1).toNat, r.2))) ∧
    (halfOk cd.bits ti.bits half = true → conv (.cvtf h cd ti rm half d a) ti.bits cd.bits (fun b =>
      (CTy.fmt cd).pack rm (.val (ofIntV (int b))))) ∧
    (grpOk cd.bits g = true → s.GivesLanes h (.dec8 h cd rm g d a tb) cd.bits d (fun q j =>
      let v := (CTy.fmt cd).pack rm (.val (table.value (laneOf 8 (q.v a.val) (256 / cd.bits * g.toNat + j)).toNat))
      (BitVec.ofNat cd.bits v.1, if cd = .e8m12 then 0 else v.2))) ∧
    (grpOk cs.bits g = true → s.GivesLanes h (.enc8 h cs g d a tb) 8 d (fun q k =>
      let n := 256 / cs.bits
      let x := val (laneOf cs.bits (q.v a.val) (k - n * g.toNat))
      let c := table.encode x
      let y := table.value c.1
      if n * g.toNat ≤ k ∧ k < n * g.toNat + n then
        (BitVec.ofNat 8 c.1, (if x.isSig then flNV else 0) |||
          (if !x.isNan && (y.isNan || cmpV x y != 0) then flNX else 0) ||| (if c.2 then flOF else 0))
      else (laneOf 8 (q.v d.val) k, 0))) ∧
    s.GivesLanes h (.pack h byte hi d a b) (e / 2) d (fun q j =>
      let wide : BitVec e := if j < 256 / e then laneOf e (q.v a.val) j else laneOf e (q.v b.val) (j - 256 / e)
      (wide.extractLsb' (if hi then e / 2 else 0) (e / 2), 0)) ∧
    s.GivesLanes h (.unpack h byte hi sx half d a) e d (fun q m =>
      let v : BitVec (e / 2) := laneOf (e / 2) (q.v a.val) ((if half then 256 / e else 0) + m)
      (if hi then v.setWidth e <<< (e / 2) else if sx then v.signExtend e else v.setWidth e, 0))) ∧
  (∀ (t : DecTable) (ws : List (BitVec 32)) (c : Nat) (x : FVal),
    let real (v : FVal) : ℝ := match v with
      | .fin n m e => (if n then -1 else 1) * (m * (2 : ℝ) ^ e)
      | .nan _ => 0
      | .inf _ => 0
    let signMag : List Nat := ((List.range 128).map fun i => 255 - i) ++ List.range 128
    let word : BitVec 32 := ws.getD c 0
    let sg := word.getLsbD 20
    let ex := (word.extractLsb' 12 8).toNat
    let frac := (word.extractLsb' 0 12).toNat
    (word.extractLsb' 30 2 = 0 → DecTable.value (.img ws) c =
      if ex = 255 then (if frac = 0 then .inf sg else .nan (decide (frac < 2048)))
      else if ex = 0 then .fin sg 0 0 else .fin sg (4096 + frac) ((ex : Int) - 139)) ∧
    (word.extractLsb' 30 2 = 1 → (DecTable.value (.img ws) c).isNan = true) ∧
    (word.extractLsb' 30 2 = 2 → DecTable.value (.img ws) c = .inf false) ∧
    (word.extractLsb' 30 2 = 3 → DecTable.value (.img ws) c = .inf true) ∧
    -- the shipped tables
    (c < 256 → c ≠ 0x80 → ∃ m e, DecTable.value .q43 c = .fin (decide (128 ≤ c)) m e ∧
      real (.fin false m e) = if c / 8 % 16 = 0 then (c % 8 : Nat) * (2 : ℝ) ^ (-9 : Int)
        else (2 : ℝ) ^ ((c / 8 % 16 : Nat) - 7 : Int) * (1 + (c % 8 : Nat) / 8)) ∧
    (DecTable.value .q43 0x80).isNan = true ∧
    (c < 256 → c / 4 % 32 ≠ 31 → ∃ m e, DecTable.value .q52 c = .fin (decide (128 ≤ c)) m e ∧
      real (.fin false m e) = if c / 4 % 32 = 0 then (c % 4 : Nat) * (2 : ℝ) ^ (-16 : Int)
        else (2 : ℝ) ^ ((c / 4 % 32 : Nat) - 15 : Int) * (1 + (c % 4 : Nat) / 4)) ∧
    (c < 256 → c / 4 % 32 = 31 → if c % 4 = 0 then DecTable.value .q52 c = .inf (decide (128 ≤ c))
      else (DecTable.value .q52 c).isNan = true) ∧
    DecTable.entry .q43 0x5C = 0x00083800 ∧ DecTable.entry .q43 0 = 0x20000000 ∧ DecTable.entry .q43 0x80 = 0x40000000 ∧
    DecTable.order .q43 = signMag ∧ DecTable.order .q52 = signMag ∧
    DecTable.order (.img ws) = (if (ws.getD 0 0).getLsbD 29 then signMag else List.range 256) ∧
    -- encoding: -0 lies just below +0
    (let below (a b : FVal) : Prop := real a < real b ∨
       (real a = real b ∧ a.isZero = true ∧ b.isZero = true ∧ a.neg = true ∧ b.neg = false)
     let L : List Nat := t.order.filter fun c => match t.value c with
       | .fin _ _ _ => true
       | .nan _ => false
       | .inf _ => false
     let v (i : Nat) : FVal := t.value (L.getD i 0)
     let lowest (p : FVal → Bool) : Option Nat := (List.range 256).find? fun c => p (t.value c)
     (∀ n, x = .nan n → t.encode x = ((lowest FVal.isNan).getD 0, false)) ∧
     (∀ n, x = .inf n → t.encode x = match lowest (fun y => y = .inf n) with
       | some c => (c, false)
       | none => if L = [] then (0, false) else (L.getD (if n then 0 else L.length - 1) 0, true)) ∧
     (∀ n m e, x = .fin n m e → L = [] → t.encode x = (0, false)) ∧
     (∀ n m e top, x = .fin n m e → L.length = top + 1 →
       (¬ below x (v top) → (t.encode x).1 = L.getD top 0 ∧ ((t.encode x).2 = true ↔ real x ≠ real (v top))) ∧
       (below x (v top) → ¬ below (v 0) x → (t.encode x).1 = L.getD 0 0 ∧ ((t.encode x).2 = true ↔ real x ≠ real (v 0))) ∧
       (below x (v top) → below (v 0) x → (t.encode x).2 = false ∧ ∃ (lo hi : Nat → Nat) (k : Nat),
         lo 0 = 0 ∧ hi 0 = top ∧
         (∀ j, 1 < hi j - lo j →
           (below x (v ((lo j + hi j) / 2)) → lo (j + 1) = lo j ∧ hi (j + 1) = (lo j + hi j) / 2) ∧
           (¬ below x (v ((lo j + hi j) / 2)) → lo (j + 1) = (lo j + hi j) / 2 ∧ hi (j + 1) = hi j)) ∧
         (∀ j, j < k → 1 < hi j - lo j) ∧ hi k - lo k ≤ 1 ∧
         (let a := L.getD (lo k) 0
          let b := L.getD (hi k) 0
          let dl := real x - real (v (lo k))
          let dh := real (v (hi k)) - real x
          (dl < dh → (t.encode x).1 = a) ∧ (dh < dl → (t.encode x).1 = b) ∧
          (dl = dh → (t.encode x).1 = if b % 2 = 0 ∧ a % 2 = 1 then b else a))))))

/-- CRRD, IDENT and FEAT (R31, R72, R94 to R99, R290, R304, R305): every control register, read where the level allows it.
HINTCTL is read after the issue, so that it counts the miss of the CRRD itself. SHARES and OPNOW are given by what the group's
account and the core hold: the state and the density are groupState and coreDensity, of which OperatingPoints says what they
compute; that OPNOW.target reads 0 while no step is under way is the model's reading (log 15). -/
def Obligations.ControlRegisterReads : Prop :=
  ∀ (s : State) (h : Hdr) (d : XReg) (sl : SlotSt) (k : TaskSt),
    let core := getCore s s.core
    let gives (i : Instr) (v : SlotSt → Word) : Prop := s.Runs h i sl k →
      exec i s = .next (s.after h ((sl.started h i s.seq).setX d.val (v (sl.started h i s.seq))))
    let ident : Word := BitVec.ofNat 16 k.launch ++ BitVec.ofNat 2 s.slot ++ BitVec.ofNat 2 k.layer ++ k.group ++ 0#2 ++
      BitVec.ofNat 18 s.core
    let feat : Word := 0#32 ++ Config.stepping ++ 0#8 ++ core.feat
    (s.slot < 4 → k.layer < 4 → gives (.crrd h d .ident) fun _ => ident) ∧
    (s.slot < 4 → k.layer < 4 → gives (.ident h d) fun _ => ident) ∧
    gives (.crrd h d .feat) (fun _ => feat) ∧
    gives (.feat h d) (fun _ => feat) ∧
    gives (.crrd h d .asid) (fun _ => BitVec.ofNat 64 k.asid) ∧
    gives (.crrd h d .hintctl) (fun q =>
      q.misses ++ q.slips ++ 0#9 ++ q.lastkind ++ 0#3 ++ BitVec.ofBool q.strict) ∧
    gives (.crrd h d .fpstat) (fun _ => 0#59 ++ sl.fpstat) ∧
    gives (.crrd h d .tstat) (fun _ =>
      0#59 ++ BitVec.ofBool sl.inh ++ sl.level ++ BitVec.ofBool sl.upcall ++ BitVec.ofBool sl.scopemiss) ∧
    gives (.crrd h d .strmsnap) (fun _ => strmsnap s sl.task) ∧
    (∀ g, getGroup s k.group = some g → inSum g < 2 ^ 21 → g.resv < 2 ^ 21 → g.own < 2 ^ 21 →
      gives (.crrd h d .shares) fun _ => BitVec.ofBool (groupState s k.group = 1) ++ BitVec.ofNat 21 (inSum g) ++
        BitVec.ofNat 21 g.resv ++ BitVec.ofNat 21 g.own) ∧
    (let holds : Word := BitVec.ofNat 64 (getDie s (dieKey s.core)).slewholds.toNat <<< 48
     let mhz : Nat := match core.op with
       | 1 => 500
       | 2 => 650
       | 3 => 800
       | 4 => 950
       | 5 => 1050
       | 6 => 1150
       | 7 => 1250
       | _ => 0
     (isControl s.core = true ∨ isHart s.core = true →
       gives (.crrd h d .opnow) fun _ => holds ||| BitVec.ofNat 64 (800 * 2 ^ 16 + 3)) ∧
     (isControl s.core = false → isHart s.core = false → core.op < 8 → core.target < 8 →
       gives (.crrd h d .opnow) fun _ => holds ||| BitVec.ofNat 64
         ((if core.stepping then 2 ^ 35 + core.target * 2 ^ 32 else 0) + mhz * 2 ^ 16 +
           Nat.min 255 (coreDensity s s.core) * 2 ^ 8 + core.op))) ∧
    gives (.crrd h d .time) (fun _ => BitVec.ofNat 64 s.now) ∧
    gives (.crrd h d .xferid) (fun _ => sl.xlast ++ sl.xid) ∧
    gives (.crrd h d .uepc) (fun _ => sl.uepc) ∧
    gives (.crrd h d .uvec) (fun _ => core.uvec) ∧
    gives (.crrd h d .slhash) (fun _ => s.gw.slhash) ∧
    gives (.crrd h d .upcode) (fun _ => core.upcode) ∧
    gives (.crrd h d .uplimit) (fun _ => core.uplimit) ∧
    (sl.level ≠ 0 →
      gives (.crrd h d .tvec) (fun _ => core.tvec) ∧
      gives (.crrd h d .tframe) (fun _ => core.tframe) ∧
      gives (.crrd h d .waymask) (fun _ => core.waymask) ∧
      gives (.crrd h d .rtcode) (fun _ => core.rtcode) ∧
      gives (.crrd h d .rtlimit) (fun _ => core.rtlimit)) ∧
    (2 ≤ sl.level.toNat →
      gives (.crrd h d .fwvec) (fun _ => core.fwvec) ∧
      gives (.crrd h d .fwframe) (fun _ => core.fwframe))

/-- CRWR, CRSET and CRCLR (R7, R72, R94, R95, R97, R98, R125): the whole state they leave, for every register and level. A
register that the level may not write keeps its value, and the instruction still completes. -/
def Obligations.ControlRegisterWrites : Prop :=
  ∀ (s : State) (h : Hdr) (d a : XReg) (r : CReg) (sl : SlotSt) (k : TaskSt),
    let hidden : Bool := match r with
      | .tvec => sl.level = 0
      | .tframe => sl.level = 0
      | .waymask => sl.level = 0
      | .rtcode => sl.level = 0
      | .rtlimit => sl.level = 0
      | .fwvec => sl.level.toNat < 2
      | .fwframe => sl.level.toNat < 2
      | _ => false
    let settable : Word := match r with
      | .hintctl => 0xFFFFFFFFFFFF0001
      | .fpstat => 0x1F
      | .uepc => 0x00FFFFFFFFFFFFF0
      | .tvec => 0x00FFFFFFFFFFFFF0
      | .uvec => if sl.level = 0 then 0 else 0x00FFFFFFFFFFFFF0
      | .tframe => 0x00FFFFFFFFFFF800
      | .slhash => if sl.level.toNat < 2 then 0 else 0x000FFFFFFFFFFF0F
      | .waymask => 0xFFFFFFFFFFFFFFFF
      | .rtcode => 0x00FFFFFFFFFFFFF0
      | .rtlimit => 0x00FFFFFFFFFFFFF0
      | .fwvec => 0x00FFFFFFFFFFFFF0
      | .fwframe => 0x00FFFFFFFFFFF800
      | .upcode => if sl.level = 0 then 0 else 0x00FFFFFFFFFFFFF0
      | .uplimit => if sl.level = 0 then 0 else 0x00FFFFFFFFFFFFF0
      | _ => 0
    let clears : Word := if r = .tstat then 1 else 0
    let leaves (i : Instr) (new : Word → Word) (back : Bool) : Prop := s.Runs h i sl k → hidden = false →
      let g := s.begun h i sl
      let q := sl.started h i s.seq
      let old := crRead g s.core s.slot q k r
      let v := new old
      let core (f : CoreSt → CoreSt) : State := modCore g s.core f
      let t : State := match r with
        | .hintctl => s.after h { q with
            misses := v.extractLsb' 32 32, slips := v.extractLsb' 16 16, strict := v.getLsbD 0 }
        | .fpstat => s.after h { q with fpstat := v.extractLsb' 0 5 }
        | .tstat => s.after h { q with scopemiss := v.getLsbD 0 }
        | .uepc => s.after h { q with uepc := v }
        | .tvec => core fun k => { k with tvec := v }
        | .uvec => if sl.level = 0 then g else core fun k => { k with uvec := v }
        | .tframe => core fun k => { k with tframe := v }
        | .slhash => if sl.level.toNat < 2 then g else { g with gw := { g.gw with slhash := v } }
        | .waymask => core fun k => { k with waymask := v }
        | .rtcode => core fun k => { k with rtcode := v }
        | .rtlimit => core fun k => { k with rtlimit := v }
        | .fwvec => core fun k => { k with fwvec := v }
        | .fwframe => core fun k => { k with fwframe := v }
        | .upcode => if sl.level = 0 then g else core fun k => { k with upcode := v }
        | .uplimit => if sl.level = 0 then g else core fun k => { k with uplimit := v }
        | _ => g
      exec i s = .next (if back then modCur t fun q => q.setX d.val old else t)
    let x := sl.x a.val
    leaves (.crwr h a r) (fun old => ((old &&& ~~~ settable) ||| (x &&& settable)) &&& ~~~ (x &&& clears)) false ∧
    leaves (.crset h d a r) (fun old => (old ||| (x &&& settable)) &&& ~~~ (x &&& clears)) true ∧
    leaves (.crclr h d a r) (fun old => old &&& ~~~ (x &&& settable)) true

/-- Privileged instructions at a level that may not run them trap: the check is the entry's own, so the word has issued and
leaves its pace and its yield bit, which is the model's reading (log 56), and nothing else before the trap (R78, R94, R102 to
R104). -/
def Obligations.PrivilegedInstructionsTrap : Prop :=
  ∀ (s : State) (h : Hdr) (d a : XReg) (r : CReg),
    let low (sl : SlotSt) : Prop := match r with
      | .tvec => sl.level = 0
      | .tframe => sl.level = 0
      | .waymask => sl.level = 0
      | .rtcode => sl.level = 0
      | .rtlimit => sl.level = 0
      | .fwvec => sl.level.toNat < 2
      | .fwframe => sl.level.toNat < 2
      | _ => False
    let priv (n : Nat) (_ : SlotSt) : Trap := { cause := .privileged, detail := n }
    s.Traps h (.crrd h d r) (fun sl _ _ => low sl) (priv 3) ∧
    s.Traps h (.crwr h a r) (fun sl _ _ => low sl) (priv 3) ∧
    s.Traps h (.crset h d a r) (fun sl _ _ => low sl) (priv 3) ∧
    s.Traps h (.crclr h d a r) (fun sl _ _ => low sl) (priv 3) ∧
    s.Traps h (.trapret h) (fun sl _ _ => sl.level = 0) (priv 1) ∧
    s.Traps h (.trapretMove h) (fun sl _ _ => sl.level = 0) (priv 1) ∧
    s.Traps h (.trapretEnd h) (fun sl _ _ => sl.level = 0) (priv 1) ∧
    s.Traps h (.halt h) (fun sl _ _ => sl.level ≠ 2) (priv 2) ∧
    s.Traps h (.upret h) (fun sl _ _ => sl.inh = false) (fun _ => { cause := .noHandler })

/-- BREAK, TRAP and a word that is no instruction, at runtime or firmware level or with TVEC.handler = 0, once no direct
access is outstanding: the handler's slot, every word of the frame, and the rest of memory unchanged (R100, R101, R315,
R317 to R319). -/
def Obligations.FirmwareTrapEntry : Prop :=
  ∀ (s : State) (h : Hdr) (code : BitVec 16) (w : BitVec 128) (why : Reject) (sl : SlotSt) (k : TaskSt),
    let core := getCore s s.core
    let a := 2048 * (core.fwframe.extractLsb' 11 45).toNat + 512 * s.slot
    let enters (i : Instr) (cause : BitVec 16) (code : BitVec 16) (detail : BitVec 8) (pc : Word) (word : BitVec 128) : Prop :=
      let frame : List Word :=
        [ 0#8 ++ pc.extractLsb' 0 56, 0#8 ++ detail ++ code ++ 0#16 ++ cause, 0, sl.tstat,
          word.extractLsb' 0 64, word.extractLsb' 64 64, strmsnap s sl.task, k.feat ++ 0#48 ] ++
        handleWords s sl.task ++
        [ sl.x 24, sl.x 25, sl.x 26, sl.x 27, sl.x 28, sl.x 29, sl.x 30, sl.x 31,
          sharesWord s k.group, 0#40 ++ k.group, opnowWord s s.core, sl.hintctl, 0, 0, 0, 0 ]
      ∃ t q, exec i s = .next t ∧ curSlot t = some q ∧
        q.level = 2 ∧ q.inh = false ∧ q.pc = 0#8 ++ core.fwvec.extractLsb' 4 52 ++ 0#4 ∧
        q.hist = [] ∧ q.latA = none ∧ q.latB = none ∧ q.latC = none ∧
        q.xs = sl.xs ∧ q.vs = sl.vs ∧ q.ps = sl.ps ∧ q.fpstat = sl.fpstat ∧ q.bank = sl.bank ∧ q.task = sl.task ∧
        q.uepc = sl.uepc ∧ q.xid = sl.xid ∧ q.xlast = sl.xlast ∧ q.misses = sl.misses ∧ q.scopemiss = sl.scopemiss ∧
        (∀ j, j < 32 → rdNat t.mem (a + 8 * j) 8 = (frame.getD j 0).toNat) ∧
        (∀ b, b < a ∨ a + 256 ≤ b → rd t.mem b = rd s.mem b) ∧
        t.tasks = s.tasks ∧ t.groups = s.groups ∧ t.gw = s.gw ∧
        (∀ c, c ≠ s.core → getCore t c = getCore s c)
    s.memOk = true → sl.ops = [] → (sl.level ≠ 0 ∨ core.tvec.extractLsb' 4 52 = 0) →
      (s.Runs h (.brk h code) sl k → enters (.brk h code) 4 code 0 sl.pc (wordOf (.brk h code))) ∧
      (s.Runs h (.trap h code) sl k → enters (.trap h code) 5 code 0 (sl.pc + 16) (wordOf (.trap h code))) ∧
      (curSlot s = some sl → getTask s sl.task = some k → decode w = .error why →
        enters (.illegal w) 1 0 (BitVec.ofNat 8 why.detail) sl.pc w) ∧
      (curSlot s = some sl → getTask s sl.task = some k → decode w = .ok (.illegal w) →
        enters (.illegal w) 1 0 3 sl.pc w)

/-- The same at task level with TVEC set and its frame in the core's local window: runtime level, the frame in local memory,
global memory and every other core unchanged (R100, R101, R317 to R319).

A trap whose slot still has direct accesses outstanding is taken once they are performed: until then the slot holds the
trap and nothing else changes (R101 step 1). -/
def Obligations.RuntimeTrapEntry : Prop :=
  (∀ (s : State) (h : Hdr) (code : BitVec 16) (w : BitVec 128) (sl : SlotSt) (k : TaskSt),
    let core := getCore s s.core
    let a := 2048 * (core.tframe.extractLsb' 11 45).toNat + 512 * s.slot
    let o := a - 0x00FFFFFFFFFF0000
    let enters (i : Instr) (pc : Word) (cause : Nat) : Prop :=
      ∃ t q, exec i s = .next t ∧ curSlot t = some q ∧
        q.level = 1 ∧ q.inh = false ∧ q.pc = 0#8 ++ core.tvec.extractLsb' 4 52 ++ 0#4 ∧
        q.hist = [] ∧ q.latA = none ∧ q.latB = none ∧ q.latC = none ∧
        q.xs = sl.xs ∧ q.vs = sl.vs ∧ q.ps = sl.ps ∧ q.fpstat = sl.fpstat ∧ q.bank = sl.bank ∧ q.task = sl.task ∧
        rdNat (getCore t s.core).lmem o 8 = (pc.extractLsb' 0 56).toNat ∧
        rdNat (getCore t s.core).lmem (o + 8) 8 % 65536 = cause ∧
        rdNat (getCore t s.core).lmem (o + 24) 8 = sl.tstat.toNat ∧
        (∀ j, j < 8 → rdNat (getCore t s.core).lmem (o + 128 + 8 * j) 8 = (sl.x (24 + j)).toNat) ∧
        (∀ b, b < o ∨ o + 256 ≤ b → rd (getCore t s.core).lmem b = rd core.lmem b) ∧
        t.mem = s.mem ∧ t.tasks = s.tasks ∧ (∀ c, c ≠ s.core → getCore t c = getCore s c)
    s.memOk = true → sl.ops = [] → sl.level = 0 → core.tvec.extractLsb' 4 52 ≠ 0 → 0x00FFFFFFFFFF0000 ≤ a → s.slot < 4 →
      (s.Runs h (.brk h code) sl k → enters (.brk h code) sl.pc 4) ∧
      (s.Runs h (.trap h code) sl k → enters (.trap h code) (sl.pc + 16) 5) ∧
      (curSlot s = some sl → getTask s sl.task = some k → (∀ i, decode w ≠ .ok i) → enters (.illegal w) sl.pc 1)) ∧
  (∀ (s : State) (c i : Nat) (sl : SlotSt) (t : Trap), slotAt s c i = some sl →
    (sl.ops ≠ [] → raiseTrap s c i t = setSlot s c i { sl with hold := .trapping t }) ∧
    (sl.ops = [] → raiseTrap s c i t = enterTrap s c i t) ∧
    (sl.hold = .trapping t → sl.saveWait = none → settleHold s c i = if sl.ops.isEmpty then enterTrap s c i t else s))

/-- TRAPRET whose frame has disp 0 and no poison, once no direct access is outstanding: the slot that the frame describes, at
no higher level than the handler's, and nothing else changed; at firmware level, and at runtime level with the frame in the
local window or translated (R101, R102, R320). x24 to x31 go to the shadow bank of a user-level handler, and of a runtime handler
that was entered from one, to the main bank otherwise (R63; log 32).

TRAPRET whose frame asks for another disposition (R320): disp 1 saves the trapped task with origin 3 and the frame's
feature mask, disp 2 and 3 end it; the increment the frame asks for follows. The frame is the one at firmware level. With
its inhandler bit 0 the trapped code is what is saved; with 1 the user-level handler is cut: the task stands at UEPC in its
main bank, and the interrupt of a handler that was no upcall is pending again (R331, R332, R336). -/
def Obligations.TrapReturn : Prop :=
  (∀ (s : State) (h : Hdr) (sl : SlotSt) (k : TaskSt) (u1 u2 u3 u4 : State) (l1 l2 : List (Loc × Nat)) (b1 b2 : List Byte)
    (p1 p2 : List Bool),
    let core := getCore s s.core
    let fw := 2048 * (core.fwframe.extractLsb' 11 45).toNat + 512 * s.slot
    let rt := 2048 * (core.tframe.extractLsb' 11 45).toNat + 512 * s.slot
    let returns (i : Instr) (word : Nat → Word) (u : State) : Prop :=
      let tstat := word 3
      let level := Nat.min (Nat.min (tstat.extractLsb' 2 2).toNat 2) sl.level.toNat
      ∃ q, exec i s = .next (setSlot u s.core s.slot q) ∧
        q.pc = 0#8 ++ (word 0).extractLsb' 4 52 ++ 0#4 ∧ q.level = BitVec.ofNat 2 level ∧
        q.inh = tstat.getLsbD 4 ∧ q.bank = (tstat.getLsbD 4 || (sl.bank && decide (k.level0.toNat < level))) ∧
        q.hist = [] ∧ q.latA = none ∧ q.latB = none ∧ q.latC = none ∧ q.hold = .none ∧
        (∀ j, j < 8 → q.x (24 + j) = word (16 + j)) ∧
        (∀ n, n < 24 → q.x n = sl.x n) ∧
        q.vs = sl.vs ∧ q.ps = sl.ps ∧ q.fpstat = sl.fpstat ∧ q.task = sl.task ∧ q.uepc = sl.uepc ∧ q.ops = []
    let each (f : Instr → Prop) : Prop :=
      (s.Runs h (.trapret h) sl k → f (.trapret h)) ∧ (s.Runs h (.trapretMove h) sl k → f (.trapretMove h)) ∧
      (s.Runs h (.trapretEnd h) sl k → f (.trapretEnd h))
    let mask := if isHart s.core then none else some core.waymask
    let held (i : Instr) : State := setHold (s.begun h i sl) s.core s.slot (.returning (wordOf i))
    let bytes (bs : List Byte) (j : Nat) : Word := BitVec.ofNat 64 (wordAt bs j)
    let inMem (j : Nat) : Word := BitVec.ofNat 64 (rdNat s.mem (fw + 8 * j) 8)
    let inWindow (j : Nat) : Word := BitVec.ofNat 64 (rdNat core.lmem (rt - 0x00FFFFFFFFFF0000 + 8 * j) 8)
    sl.ops = [] → sl.saveWait = none →
      (sl.level = 2 → (inMem 7).extractLsb' 0 2 = 0 → memBad s (fw + 128) 64 = false →
        each fun i => returns i inMem (s.begun h i sl)) ∧
      (sl.level = 1 → 0x00FFFFFFFFFF0000 ≤ rt → s.slot < 4 → (inWindow 7).extractLsb' 0 2 = 0 → core.lpoison = [] →
        each fun i => returns i inWindow (s.begun h i sl)) ∧
      (sl.level = 1 → rt < 0x00FFFFFFFFFF0000 → s.slot < 4 → each fun i =>
        -- the two parts of the frame, each read as the core reads
        locate (held i) s.core k.asid rt 128 .read = .ok (u1, l1) →
        readLocs u1 s.core false mask l1 = (u2, b1, p1) →
        (∀ x ∈ p1, x = false) →
        locate u2 s.core k.asid (rt + 128) 64 .read = .ok (u3, l2) →
        readLocs u3 s.core false mask l2 = (u4, b2, p2) →
        (∀ j v ls, j < 8 → locate u4 s.core k.asid (rt + 128 + 8 * j) 8 .read = .ok (v, ls) →
          ∀ x ∈ (readLocs v s.core false mask ls).2.2, x = false) →
        (bytes (b1 ++ b2) 7).extractLsb' 0 2 = 0 → returns i (bytes (b1 ++ b2)) u4)) ∧
  (∀ (s : State) (h : Hdr) (sl : SlotSt) (k : TaskSt),
    let core := getCore s s.core
    let a := 2048 * (core.fwframe.extractLsb' 11 45).toNat + 512 * s.slot
    let word (j : Nat) : Word := BitVec.ofNat 64 (rdNat s.mem (a + 8 * j) 8)
    let ret := word 7
    let signal : Option (Nat × Nat) := if ret.getLsbD 25 then
        some ((ret.extractLsb' 3 18).toNat, (ret.extractLsb' 21 4).toNat) else none
    let leaves (i : Instr) : Prop :=
      ∃ q, q.pc = 0#8 ++ (word 0).extractLsb' 4 52 ++ 0#4 ∧ q.bank = false ∧ (∀ j, j < 8 → q.x (24 + j) = word (16 + j)) ∧
        (∀ n, n < 24 → q.x n = sl.x n) ∧ q.vs = sl.vs ∧ q.ps = sl.ps ∧ q.fpstat = sl.fpstat ∧ q.task = sl.task ∧
        q.ops = [] ∧ q.hold = .none ∧
        exec i s = .next (if ret.extractLsb' 0 2 = 1 then
            saveWhole (s.after h q) s.core s.slot 3 q.pc (some (ret.extractLsb' 48 16)) false signal
          else match signal with
            | some (coord, ctr) => sendInc (endTask (s.after h q) sl.task 3) k.asid coord ctr
            | none => endTask (s.after h q) sl.task 3)
    let cuts (i : Instr) : Prop :=
      let g := s.after h { sl.started h i s.seq with
        pc := sl.uepc, inh := false, bank := false, upcall := false, handlers := [], hold := .none
        undo := (sl.started h i s.seq).undo.map Undo.cut }
      let g : State := match sl.upcall, sl.handlers with
        | false, (hand, xid) :: _ => modTask g sl.task fun k => { k with ints := ⟨hand, xid⟩ :: k.ints }
        | _, _ => g
      exec i s = .next (if ret.extractLsb' 0 2 = 1 then
          saveWhole g s.core s.slot 3 sl.uepc (some (ret.extractLsb' 48 16)) false signal
        else match signal with
          | some (coord, ctr) => sendInc (endTask g sl.task 3) k.asid coord ctr
          | none => endTask g sl.task 3)
    let both (i : Instr) : Prop := s.Runs h i sl k →
      ((word 3).getLsbD 4 = false → memBad s (a + 128) 64 = false → leaves i) ∧ ((word 3).getLsbD 4 = true → cuts i)
    sl.ops = [] → sl.saveWait = none → sl.level = 2 → ret.extractLsb' 0 2 ≠ 0 →
      both (.trapret h) ∧ both (.trapretMove h) ∧ both (.trapretEnd h))

/-- UPRET in a user-level handler, SLEEP, and the end of a sleep by its time limit (R103, R105). A sleep whose counter
already differs ends at once with the counter's value; one whose counter differs when router cycles pass ends then. -/
def Obligations.SleepAndUserReturn : Prop :=
  ∀ (s : State) (h : Hdr) (d b : XReg) (c : CtrReg) (limit : BitVec 32),
    let ctr (k : CoreSt) : Word := ((k.ctrs[c.val]?).getD 0).setWidth 64
    s.Does h (.upret h) (fun sl _ _ => sl.inh = true) (fun sl _ _ => s.after h { sl.started h (.upret h) s.seq with
      hist := [], latA := none, latB := none, latC := none, pc := sl.uepc
      inh := false, bank := false, upcall := false, handlers := [] }) ∧
    s.Does h (.sleep h d c b limit) (fun sl _ _ => ctr (getCore s s.core) = ((sl.x b.val).setWidth 32).setWidth 64)
      (fun sl _ _ => s.after h { sl.started h (.sleep h d c b limit) s.seq with
        hold := .sleep c.val ((sl.x b.val).setWidth 32) s.now limit.toNat (sl.px d.val) }) ∧
    s.Does h (.sleep h d c b limit) (fun sl _ _ => ctr (getCore s s.core) ≠ ((sl.x b.val).setWidth 32).setWidth 64)
      (fun sl _ _ => s.after h { (sl.started h (.sleep h d c b limit) s.seq).setX d.val (ctr (getCore s s.core)) with
        hold := .none }) ∧
    (∀ core i sl v t0 n dst, slotAt s core i = some sl → sl.hold = .sleep c.val v t0 n dst →
      exec (.sleepTimeout core i) s = .next (if n ≠ 0 ∧ t0 + n ≤ s.now then
        setSlot s core i { sl.setP dst (ctr (getCore s core)) with hold := .none } else s)) ∧
    (∀ m ts core i sl v t0 n dst, s.agenda = .tick m :: ts → s.late = [] → exchanging s = false → (∀ e ∈ s.groups, e.2.settled = false) →
      (∀ e ∈ s.cores, e.2.freezing = false) → i < slotsOf core → slotAt s core i = some sl → sl.hold = .sleep c.val v t0 n dst → ∃ t, step s = .next t ∧
        slotAt t core i = some (if ctr (getCore s core) = v.setWidth 64 then sl
          else { sl.setP dst (ctr (getCore s core)) with hold := .none }))

/-- The end of a task that is no coroutine (R33, R91): its slot is empty and every other slot as before; the task is in no
place and in no wait; its commands go on; a group that loses its last member gives its own shares back to the pool.

END and HALT with no direct access outstanding, and with some: the task ends as TaskEnd says. HALT takes the core out of
service when no other task is resident there; else it asks the others to give way and waits for them (R91, R104). That END
ends the task at firmware level too is the model's choice (log 56). -/
def Obligations.TaskEnd : Prop :=
  (∀ (s : State) (t status c i : Nat) (k : TaskSt), getTask s t = some k → k.place = .resident c i → k.coro = none →
    let u := endTask s t status
    slotAt u c i = none ∧
    (∀ d j, (d, j) ≠ (c, i) → slotAt u d j = slotAt s d j) ∧
    getTask u t = some { k with place := .ended, ints := [], wait := none, coro := none, detached := [], kept := none } ∧
    (∀ id m, id ≠ t → tget s.cmds id = some m → tget u.cmds id = some m) ∧
    ((∀ e ∈ s.edges, e.dst = k.group → e.tasks = [t]) → u.mem = s.mem) ∧
    (∀ d, (getCore u d).lmem = (getCore s d).lmem) ∧
    (∀ g, getGroup s k.group = some g → (∀ n, g.origin ≠ .gnew n) → stageNames s k.group = false →
      (∀ e ∈ s.tasks, e.2.group = k.group → e.1 = t ∨ e.2.place = .ended) →
      getGroup u k.group = none ∧ u.pool = s.pool + g.own)) ∧
  (∀ (s : State) (h : Hdr),
    let done (sl : SlotSt) : Prop := sl.ops = [] ∧ sl.saveWait = none
    let held (i : Instr) (q : Hold) (sl : SlotSt) : State := s.after h { sl.started h i s.seq with hold := q }
    s.Does h (.endTask h) (fun sl _ _ => done sl) (fun sl _ _ => endTask (held (.endTask h) .ending sl) sl.task 3) ∧
    s.Does h (.endTask h) (fun sl _ _ => sl.ops ≠ []) (fun sl _ _ => held (.endTask h) .ending sl) ∧
    (∀ sl k, s.Runs h (.halt h) sl k → sl.level = 2 → done sl → k.coro = none → k.place = .resident s.core s.slot → s.slot < 4 →
      (∀ e ∈ (getCore s s.core).queue, e.task ≠ sl.task) →
      ∃ t, exec (.halt h) s = .next t ∧
        ((∀ e ∈ (getCore s s.core).slots, e.1 = s.slot) → (getCore t s.core).halted = true ∧
          slotAt t s.core s.slot = none ∧ (∀ u, getTask t sl.task = some u → u.place = .ended)) ∧
        ((∃ e ∈ (getCore s s.core).slots, e.1 ≠ s.slot) → (getCore t s.core).halted = (getCore s s.core).halted ∧
          slotAt t s.core s.slot = some { sl.started h (.halt h) s.seq with hold := .halting } ∧
          (∀ i q, i < 4 → i ≠ s.slot → slotAt s s.core i = some q →
            ∃ q', slotAt t s.core i = some q' ∧ q'.preReq.isSome ∧ q' = { q with preReq := q'.preReq }))))

/-- A whole save (R36 to R38, R52): when the record can be written, the slot is empty, the task is saved on the core with
that record, its outstanding accesses detached, and every other slot is as before. A task whose entry fired meanwhile is
queued at once (R46).

A saved task whose wait suspended it (R37, R223): PARK's record at the address given, the slot empty, the task parked,
the entry armed.

A record of ext 1 read back gives the slot it was written from: pc, x1 to x31 of the main bank, every v and p register,
FPSTAT, HINTCTL, XFERID and the sticky SCOPEMISS (R36, R37). -/
def Obligations.SavedTasks : Prop :=
  (∀ (s : State) (c i origin : Nat) (pc : Word) (feat : Option (BitVec 16)) (fw : Bool) (signal : Option (Nat × Nat))
    (sl : SlotSt) (k : TaskSt) (u : State),
    slotAt s c i = some sl → getTask s sl.task = some k →
    let w := saveCmds s sl.task
    let r := saveSlot w k
    let v : Save :=
      { sl, pc, origin, ext := true, key := coroKey w k, group := k.group, prio := k.prio, feat := feat.getD k.feat
        pin := pinNow w sl.task k, snap := snap48 w sl.task, handles := handleWords w sl.task }
    writeRecord w c v r = .ok u →
    let t := saveWhole s c i origin pc feat fw signal
    slotAt t c i = none ∧
    (∀ d j, (d, j) ≠ (c, i) → slotAt t d j = slotAt u d j) ∧
    (k.fired = none → getTask t sl.task = some { k with
      place := .saved c r, kept := some (c, r), keptAt := clusterOf u c, pin := pinNow w sl.task k, detached := sl.ops, fw
      flow := sl.flow, turned := sl.turned, feat := feat.getD k.feat }) ∧
    (∀ q, k.fired = some q → outOfService t q = false → outOfService t k.home = false → ∃ x, getTask t sl.task = some x ∧ x.place = .queued q ∧ x.fired = none)) ∧
  (∀ (s : State) (c i e : Nat) (at_ : Word) (sl : SlotSt) (k : TaskSt) (u : State) (w : WtEntry),
    slotAt s c i = some sl → getTask s sl.task = some k → sl.ops = [] → sl.saveWait = none → sl.hold = .wtSave e at_ →
    tget (getCore s c).wt e = some w → k.coro = none →
    let r : RecAt := ⟨k.asid, at_.toNat % 2 ^ 56⟩
    savePark (setHold s c i .none) c i sl.pc r = .done u →
    let t := settleHold s c i
    slotAt t c i = none ∧ (∀ d j, (d, j) ≠ (c, i) → slotAt t d j = slotAt s d j) ∧
    (getTask t sl.task).map (fun q => (q.place, q.kept)) = some (.parked c r, some (c, r)) ∧
    (∃ x, tget (getCore t c).wt e = some x ∧ x.valid = true ∧ x.recVa = w.recVa ∧ x.task = w.task ∧
      (x.ready.isSome ↔ w.thresh ≤ ((getCore s c).ctrs[w.ctr]?).getD 0))) ∧
  (∀ (v : Save) (t va : Nat) (level : BitVec 2), v.ext = true → v.handles.length = 8 → v.pc.toNat < 2 ^ 56 →
    v.group.toNat < 2 ^ 24 → v.prio < 4 → v.origin < 8 → v.snap < 2 ^ 48 →
    let q := slotOfRecord t level (bytesOfWords v.dwords) (fun _ => false) va
    (bytesOfWords v.dwords).length = 1024 ∧
    q.pc = v.pc &&& ~~~15 ∧ q.task = t ∧ q.level = level ∧ q.bank = false ∧
    (∀ n, n < 32 → q.x n = v.sl.rdP n) ∧ (∀ n, n < 16 → q.v n = v.sl.v n) ∧ (∀ n, n < 8 → q.p n = v.sl.p n) ∧
    q.fpstat = v.sl.fpstat ∧ q.strict = v.sl.strict ∧ q.misses = v.sl.misses ∧ q.slips = v.sl.slips ∧
    q.lastkind = v.sl.lastkind ∧ q.xlast = v.sl.xlast ∧ q.xid = v.sl.xid ∧ q.scopemiss = v.sl.scopemiss ∧
    q.ops = [] ∧ q.hold = .none ∧ q.poison = [])

/-- IPF (R93): the n + 1 fetch blocks from the target's on, those outside the launch's code left out, are asked for; nothing
else changes. Names are handed out in order, one to a request. -/
def Obligations.PrefetchRequests : Prop :=
  ∀ (s : State) (h : Hdr) (n m : BitVec 4) (imm : BitVec 48) (t : PfxTarget) (a : XReg) (off : BitVec 32) (ps : List Prefetch),
    let mask : Option Word := if isHart s.core then none else some (getCore s s.core).waymask
    let blocks (sl : SlotSt) (k : TaskSt) (l : LaunchSt) : List Prefetch :=
      ((List.range (n.toNat + 1)).map fun j => (sl.pc + imm.signExtend 64 * 16).toNat / 64 + j).filterMap fun b =>
        if l.r.code.toNat < 64 * b + 64 ∧ 64 * b < l.r.limit.toNat then some (.code s.core k.asid b mask) else none
    let lines (sl : SlotSt) (k : TaskSt) : List Prefetch :=
      ((List.range (m.toNat + 1)).map fun j => (sl.x a.val + off.signExtend 64).toNat / 128 + j).filterMap fun b =>
        if 128 * b < 2 ^ 56 ∧ 128 * b < 0x00FFFFFFFFFF0000 then some (match t with
          | .nc => .near s.core k.asid b mask 0
          | .ro => .ro s.core k.asid b mask
          | .sl => .slice s.core k.asid b mask) else none
    (∀ sl k l, s.Runs h (.ipf h n imm) sl k → tget s.launches k.launch = some l →
      exec (.ipf h n imm) s = .next (askFor (s.begun h (.ipf h n imm) sl) (blocks sl k l))) ∧
    (∀ sl k, s.Runs h (.pfx h t m a off) sl k →
      exec (.pfx h t m a off) s = .next (askFor (s.begun h (.pfx h t m a off) sl) (lines sl k))) ∧
    (∃ f, askFor s ps = { s with fetches := f, seq := s.seq + ps.length } ∧
      (∀ j, j < ps.length → tget f (s.seq + j) = ps[j]?) ∧
      (∀ q, q < s.seq ∨ s.seq + ps.length ≤ q → tget f q = tget s.fetches q))

/-- LD, ST, LDV, STV, LDRO, AMO and CAS at issue (R158, R170 to R176, R334, R349): an access that its checks let through joins
the slot's memory pipeline with the place it reaches and the operands it captured; one that they stop takes their trap. POISON
is judged at issue where nothing is ordered before the access, as its acquire leaves the caches, which is the model's reading
(log 32): it names the lowest poisoned part. A vector form touches the words that its guard turns on.

LDG and STS at issue (R173): with every lane that is on aligned and in the local window, one operation with those lanes'
local offsets, and for STS their values; a lane that is not takes the trap of the first one. LDG judges poison at issue where nothing
is ordered before it (the model's reading, log 32), and names the lowest poisoned lane (R349). -/
def Obligations.AccessIssue : Prop :=
  (∀ (s : State) (h : Hdr) (o : Ord) (sz : Size) (ext dw : Bool) (op : AmoOp) (d a b : XReg) (vd vb : VReg)
    (off : BitVec 32),
    let access (i : Instr) (n : Nat) (acc : Acc4) (parts : SlotSt → Nat → List (Nat × Nat))
        (bad : State → Loc → Nat → Bool) (kind : SlotSt → Loc → OpKind) : Prop :=
      ∀ sl k, s.Runs h i sl k →
        let ea := sl.x a.val + off.signExtend 64
        let ps := parts sl ea.toNat
        let spans := ps.map fun p => (ea.toNat + p.1, p.2)
        let poisoned (u : State) (l : Loc) (p : Nat × Nat) : Prop := opDeps u sl.task o spans = [] ∧
          bad (if o.sync = .acq ∨ o.sync = .acqrel then acquireFlash u u.core o.scope else u) (l.plus p.1) p.2 = true
        (∀ u l, reachEa (s.begun h i sl) ea n acc = .ok (u, l) →
          ((∀ p ∈ ps, ¬ poisoned u l p) → exec i s = .next (pushOp u s.seq o spans (kind sl l))) ∧
          (∀ qs p rs, ps = qs ++ p :: rs → (∀ q ∈ qs, ¬ poisoned u l q) → poisoned u l p →
            exec i s = .next (raiseTrap (tried s h) s.core s.slot
              { cause := .poison, detail := acc.code, addr := ea + BitVec.ofNat 64 p.1, word := wordOf i }))) ∧
        (∀ t, reachEa (s.begun h i sl) ea n acc = .error (.trap t) →
          exec i s = .next (raiseTrap (tried s h) s.core s.slot { t with word := wordOf i }))
    let size : Nat := match sz with
      | .b => 1
      | .h => 2
      | .w => 4
      | .d => 8
      | .v => 32
    let whole (n : Nat) (_ : SlotSt) (ea : Nat) : List (Nat × Nat) := wordParts ea n
    let words (sl : SlotSt) (_ : Nat) : List (Nat × Nat) :=
      (List.range 8).filterMap fun j => if (sl.mask h).getLsbD j then some (4 * j, 4) else none
    let loads (ro : Bool) (u : State) (l : Loc) (n : Nat) : Bool := (coreRead u u.core ro l n none).2.2
    let atomic (u : State) (l : Loc) (n : Nat) : Bool := (pointRead u u.core l n none).2.2
    let n := if dw then 8 else 4
    let low (x : Word) : Word := if dw then x else (x.setWidth 32).setWidth 64
    (sz ≠ .v → access (.ld h o sz ext d a off) size .read (whole size) (loads false)
      fun sl l => .load false l size ext (sl.px d.val)) ∧
    (sz ≠ .v → access (.st h o sz a b off) size .write (whole size) (fun _ _ _ => false)
      fun sl l => .store l size (sl.x b.val)) ∧
    (sz ≠ .v → access (.ldro h o sz ext d a off) size .read (whole size) (loads true)
      fun sl l => .load true l size ext (sl.px d.val)) ∧
    access (.ldro h o .v ext d a off) 32 .read words (loads true) (fun sl l => .loadV true l (sl.mask h) (d.val % 16)) ∧
    access (.ldv h o vd a off) 32 .read words (loads false) (fun sl l => .loadV false l (sl.mask h) vd.val) ∧
    access (.stv h o a vb off) 32 .write words (fun _ _ _ => false) (fun sl l => .storeV l (sl.mask h) (sl.v vb.val)) ∧
    access (.amo h o op dw ext d a b off) n .rmw (whole n) atomic
      (fun sl l => .amo l op n ext (low (sl.x b.val)) (sl.px d.val)) ∧
    access (.cas h o dw ext d a b off) n .rmw (whole n) atomic
      (fun sl l => .cas l n ext (low (sl.x d.val)) (low (sl.x b.val)) (sl.px d.val))) ∧
  (∀ (s : State) (h : Hdr) (o : Ord) (word sc : Bool) (d b : VReg) (a : XReg) (off : BitVec 32) (sl : SlotSt) (k : TaskSt),
    let w := if word then 32 else 16
    let e := if word then 4 else 2
    let on : List Nat := (List.range (256 / w)).filter fun j => (sl.mask h).getLsbD (w * j / 32)
    let addr (j : Nat) : Word := sl.x a.val + off.signExtend 64 +
      BitVec.ofNat 64 ((laneOf w (sl.v b.val) j).toNat * if sc then e else 1)
    let local_ (j : Nat) : Nat := (addr j).toNat - 0x00FFFFFFFFFF0000
    let good (j : Nat) : Prop := (addr j).toNat % e = 0 ∧ 0x00FFFFFFFFFF0000 ≤ (addr j).toNat ∧ (addr j).toNat < 2 ^ 56
    let spans := on.map fun j => ((addr j).toNat, e)
    let i := Instr.ldg h o word sc d a b off
    let i' := Instr.sts h o word sc d a b off
    let poisoned (j : Nat) : Prop := opDeps (s.begun h i sl) sl.task o spans = [] ∧ (lmRead s s.core (local_ j) e).2 = true
    (s.Runs h i sl k → (∀ j ∈ on, good j) → (∀ j ∈ on, ¬ poisoned j) →
      exec i s = .next (pushOp (s.begun h i sl) s.seq o spans
        (.gatherL s.core e (on.map fun j => (j, local_ j)) d.val))) ∧
    (s.Runs h i sl k → (∀ j ∈ on, good j) → ∀ j ∈ on, poisoned j →
      (∀ x ∈ on, poisoned x → (addr j).toNat ≤ (addr x).toNat) →
      exec i s = .next (raiseTrap (tried s h) s.core s.slot { cause := .poison, addr := addr j, word := wordOf i })) ∧
    (s.Runs h i' sl k → (∀ j ∈ on, good j) →
      exec i' s = .next (pushOp (s.begun h i' sl) s.seq o spans
        (.scatterL s.core e (on.map fun j => (j, local_ j, (laneOf w (sl.v d.val) j).toNat))))) ∧
    (∀ j r, on = j :: r → ¬ good j →
      let t : Trap := { cause := if (addr j).toNat % e ≠ 0 then .align else .window, addr := addr j }
      (s.Runs h i sl k → exec i s = .next (raiseTrap (tried s h) s.core s.slot { t with word := wordOf i })) ∧
      (s.Runs h i' sl k → exec i' s =
        .next (raiseTrap (tried s h) s.core s.slot { t with detail := 2, word := wordOf i' }))))

/-- The address checks of a direct access by a core (R151, R171, R334): alignment before the address limit, then the local
window without translation, then the page's permission, then a second tag of the line where one of the two is writable (R348);
a miss of stage two names its level as well.

The table walk of an ASID whose root is not a guest's (R153, R154): four entries of 8 bytes, indexed by VA[55:46],
[45:36], [35:26] and [25:16]; the first entry with v = 0 names its level; the leaf gives the page and its permissions. -/
def Obligations.AddressTranslation : Prop :=
  (∀ (s : State) (ea : Word) (n : Nat) (k : Acc4), 0 < n → n ≤ 32 → 128 % n = 0 → isHart s.core = false →
    let detail : Nat := match k with
      | .read => 0
      | .fetch => 1
      | .write => 2
      | .rmw => 3
    let line := ea.toNat / 128
    (ea.toNat % n ≠ 0 → reachEa s ea n k = .error (.trap { cause := .align, detail, addr := ea })) ∧
    (ea.toNat % n = 0 → 2 ^ 56 ≤ ea.toNat → reachEa s ea n k = .error (.trap { cause := .address, detail, addr := ea })) ∧
    (ea.toNat % n = 0 → 0x00FFFFFFFFFF0000 ≤ ea.toNat → ea.toNat < 2 ^ 56 →
      reachEa s ea n k = .ok (s, .loc s.core (ea.toNat - 0x00FFFFFFFFFF0000))) ∧
    (ea.toNat % n = 0 → ea.toNat < 0x00FFFFFFFFFF0000 → ∀ u p, translate s (curAsid s) ea.toNat = .ok (u, p) →
      ((k = .write ∨ k = .rmw) ∧ p.w = false ∨ k = .fetch ∧ p.x = false →
        reachEa s ea n k = .error (.trap { cause := .permission, detail, addr := ea })) ∧
      (¬ ((k = .write ∨ k = .rmw) ∧ p.w = false ∨ k = .fetch ∧ p.x = false) →
        let clash := ∃ e ∈ u.presence, e.pline = p.addr ea.toNat / 128 ∧ (e.asid ≠ curAsid s ∨ e.line ≠ line) ∧
          (e.w = true ∨ p.w = true)
        (clash → reachEa s ea n k = .error (.trap { cause := .aliased, detail, addr := ea })) ∧
        (¬ clash → reachEa s ea n k = .ok (tagPresent u (p.addr ea.toNat / 128) (curAsid s) line p.w,
          .glob (curAsid s) ⟨ea.toNat, p.addr ea.toNat, n, p.swm, p.cls, p.w⟩)))) ∧
    (ea.toNat % n = 0 → ea.toNat < 0x00FFFFFFFFFF0000 → ∀ gpa lv, translate s (curAsid s) ea.toNat = .error (.stage2 gpa lv) →
      reachEa s ea n k = .error (.stage2 ea.toNat gpa { cause := .page, detail := 128 + 16 * lv + detail, addr := ea })) ∧
    (ea.toNat % n = 0 → ea.toNat < 0x00FFFFFFFFFF0000 → ∀ lv, translate s (curAsid s) ea.toNat = .error (.level lv) →
      reachEa s ea n k = .error (.page ea.toNat { cause := .page, detail := 16 * lv + detail, addr := ea }))) ∧
  (∀ (s : State) (asid va root : Nat), va < 2 ^ 56 → tget s.gw.root asid = some ⟨root, 0⟩ →
    let entry (t sh : Nat) : Nat := rdNat s.mem (t + 8 * (va / 2 ^ sh % 1024)) 8
    let next (e : Nat) : Nat := e / 2 ^ 13 % 2 ^ 35 * 2 ^ 13
    let e1 := entry root 46
    let e2 := entry (next e1) 36
    let e3 := entry (next e2) 26
    let e4 := entry (next e3) 16
    walk s asid va =
      if e1 % 2 = 0 then .error (.level 1)
      else if e2 % 2 = 0 then .error (.level 2)
      else if e3 % 2 = 0 then .error (.level 3)
      else if e4 % 2 = 0 then .error (.level 4)
      else .ok { pa := next e4, cmp := e4 / 256 % 2 = 1, swm := e4 / 128 % 2 = 1, cls := e4 / 32 % 4, x := e4 / 16 % 2 = 1
                 w := e4 / 8 % 2 = 1, big := e4 / 4 % 2 = 1 })

/-- An operation queued (R158, R159): it joins the end of its slot's pipeline, after every outstanding operation and command
of the streams that its after-mask names, after every outstanding operation, KSEND and KSENDT that shares a byte with it (R277),
and after every outstanding KSENDT on whose predicate it or a control transfer before it depends; nothing else is ordered before
it, and nothing else changes. What an instruction depends on: it reads a register, or its guard, that a KSENDT wrote or that
such a value reached.

MEMORY_OP_PERFORM and DETACHED_ACCESS_PERFORMED perform an operation only when it is outstanding, nothing ordered before
it is, and no message or lost link keeps it; then they do what its kind says (R53, R158, R159). One that has an effect other
than a register waits as well while an older one of its slot would meet poison and so trap; when it is performed, the older ones
are past the point at which they could trap, unless it meets poison itself: that is the model's way to keep such a trap precise
(R171; log 32). -/
def Obligations.MemoryPipeline : Prop :=
  (∀ (s : State) (id : Nat) (o : Ord) (spans : List (Nat × Nat)) (kind : OpKind) (sl : SlotSt) (i : Instr) (h : Hdr) (r : Reg)
    (n : Nat),
    let meets (ps : List (Nat × Nat)) : Prop := ∃ x ∈ ps, ∃ y ∈ spans, x.1 < y.1 + y.2 ∧ y.1 < x.1 + x.2
    let q := sl.started h i id
    let reads := physRegs sl.bank (.p h.guard.val :: (profile i).sources)
    let writes := physRegs sl.bank (profile i).w
    let sendsT : Prop := ∃ g o p a b off, i = .ksendt g o p a b off
    let transfers : Prop := (∃ g p t v m, i = .br g p t v m) ∨ (∃ g a m, i = .bri g a m) ∨ (∃ g m, i = .call g m) ∨
      (∃ g a m, i = .calli g a m) ∨ (∃ g a, i = .ret g a) ∨ (∃ g a m, i = .loop g a m)
    -- a vector instruction leaves the lanes of its destination that are off as they were
    let lanes : Prop := (profile i).vec = true ∧ ∃ k, r = .v k ∨ r = .p k
    (n ∈ q.fed ↔ ∃ x ∈ reads, (x, n) ∈ sl.flow) ∧
    ((r, n) ∈ q.flow ↔ (r, n) ∈ sl.flow ∧ (r ∉ writes ∨ lanes) ∨ r ∈ writes ∧ (n ∈ q.fed ∨ sendsT ∧ n = id)) ∧
    (n ∈ q.turned ↔ n ∈ sl.turned ∨ transfers ∧ n ∈ q.fed) ∧
    (curSlot s = some sl → residence s sl.task = some (s.core, s.slot) →
    ∃ m, pushOp s id o spans kind = setSlot s s.core s.slot { sl with ops := sl.ops ++ [m] } ∧
      m.id = id ∧ m.stream = o.stream.val ∧ m.spans = spans ∧ m.sync = o.sync ∧ m.scope = o.scope ∧ m.kind = kind ∧
      m.pc = sl.pc - 16 ∧ m.sent = false ∧ m.lost = none ∧
      ∀ x, x ∈ m.deps ↔ (∃ p ∈ sl.ops, p.id = x ∧ (o.after.getLsbD p.stream = true ∨ meets p.spans)) ∨
        ∃ c ∈ s.cmds, c.1 = x ∧ c.2.task = some sl.task ∧ c.2.state.isDone = false ∧
          (o.after.getLsbD c.2.stream = true ∨ x ∈ sl.fed ∨ x ∈ sl.turned ∨
            ∃ ls v b, c.2.kind = .ksend ls v b ∧ meets (ls.map fun l => (l.ea, 32))))) ∧
  (∀ (s : State) (task op : Nat) (m : MemOp), findOp s task op = some m →
    let ready := m.sent = false ∧ m.lost = none ∧
      (∀ d ∈ m.deps, (∀ p ∈ opsOf s task, p.id ≠ d) ∧ (∀ c, tget s.cmds d = some c → c.state.isDone = true)) ∧
      (m.kind.readsOnly = true ∨ ∀ c i sl, residence s task = some (c, i) → slotAt s c i = some sl →
        ∀ u ∈ sl.undo, u.id < m.id → poisonAhead s c sl u.id = false)
    let from_ : State := match residence s task, m.kind.readsOnly with
      | some (c, i), false => modSlot s c i fun sl =>
          if poisonAhead s c sl m.id then sl else { sl with undo := sl.undo.filter fun u => m.id ≤ u.id }
      | _, _ => s
    let t := (performKind from_ (homeCore s task) task m m.kind).getD s
    (ready → (residence s task).isSome →
      exec (.memoryOpPerform task op) s = .next t ∧ exec (.detachedAccessPerformed task op) s = .next s) ∧
    (ready → residence s task = none →
      exec (.detachedAccessPerformed task op) s = .next t ∧ exec (.memoryOpPerform task op) s = .next s) ∧
    (¬ ready → exec (.memoryOpPerform task op) s = .next s ∧ exec (.detachedAccessPerformed task op) s = .next s))

/-- What plain scalar accesses to local memory do when they are performed (R151, R171, R172, R175, R176): the register, the
stored bytes, and nothing else of any memory. (undo is the model's own: log 32.)

What plain accesses to a global address do when they are performed (R152, R171, R172, R175, R176): a load's register
holds what the core reads there; a store writes as the core's store does, a vector store the words that are on; AMO and CAS
read and write at the slice, and no other byte of physical memory changes. (undo is the model's own: log 32; the moment at
which a store's bytes reach the slice: log 39.) -/
def Obligations.LocalResults : Prop :=
  (∀ (s : State) (task op c i q off n dst : Nat) (ext : Bool) (v x : Word) (a : AmoOp) (m : MemOp) (sl : SlotSt),
    residence s task = some (c, i) → slotAt s c i = some sl → findOp s task op = some m → opReady s task m = true →
    s.memOk = true → m.sync = .none → q < mailBase → (n = 1 ∨ n = 2 ∨ n = 4 ∨ n = 8) → (lmRead s q off n).2 = false →
    let old := rdNat (getCore s q).lmem off n
    let val : Word := if ext ∧ 2 ^ (8 * n - 1) ≤ old then BitVec.ofNat 64 (2 ^ 64 - 2 ^ (8 * n) + old) else BitVec.ofNat 64 old
    let free (r : SlotSt) : SlotSt := { r with
      inflight := r.inflight.filter fun e => e.id ≠ m.id
      ops := r.ops.filter fun e => e.id ≠ m.id
      hold := if r.hold = .op m.id then .none else r.hold }
    let b : BitVec (8 * n) := BitVec.ofNat (8 * n) old
    let y : BitVec (8 * n) := v.setWidth (8 * n)
    let result : BitVec (8 * n) := match a with
      | .add => b + y
      | .and => b &&& y
      | .or => b ||| y
      | .xor => b ^^^ y
      | .min => if b.sle y then b else y
      | .max => if b.sle y then y else b
      | .minn => if b.ule y then b else y
      | .maxn => if b.ule y then y else b
      | .swap => y
    let stores (r : SlotSt) (w : Nat) : Prop :=
      ∃ t u, exec (.memoryOpPerform task op) s = .next t ∧ slotAt t c i = some { free r with undo := u } ∧
        rdNat (getCore t q).lmem off n = w % 2 ^ (8 * n) ∧
        (∀ e, e < off ∨ off + n ≤ e → rd (getCore t q).lmem e = rd (getCore s q).lmem e) ∧
        (∀ e, e ≠ q → (getCore t e).lmem = (getCore s e).lmem) ∧ t.mem = s.mem ∧
        (∀ d j, (d, j) ≠ (c, i) → slotAt t d j = slotAt s d j)
    (∀ ro, m.kind = .load ro (.loc q off) n ext dst →
      ∃ u, exec (.memoryOpPerform task op) s = .next (setSlot s c i { free (sl.setP dst val) with undo := u })) ∧
    (m.kind = .store (.loc q off) n v → stores sl v.toNat) ∧
    (m.kind = .amo (.loc q off) a n ext (y.setWidth 64) dst → stores (sl.setP dst val) result.toNat) ∧
    (m.kind = .cas (.loc q off) n ext (y.setWidth 64) x dst → old = y.toNat → stores (sl.setP dst val) x.toNat) ∧
    (m.kind = .cas (.loc q off) n ext (y.setWidth 64) x dst → old ≠ y.toNat →
      ∃ u, exec (.memoryOpPerform task op) s = .next (setSlot s c i { free (sl.setP dst val) with undo := u }))) ∧
  (∀ (s : State) (task op c i asid n dst : Nat) (g : Seg) (ext : Bool) (v x : Word) (pr : Pred) (y : Vec) (a : AmoOp) (m : MemOp)
    (sl : SlotSt),
    residence s task = some (c, i) → slotAt s c i = some sl → findOp s task op = some m → opReady s task m = true →
    s.memOk = true → m.sync = .none → (n = 1 ∨ n = 2 ∨ n = 4 ∨ n = 8) →
    let l : Loc := .glob asid g
    let at_ (j : Nat) : Loc := .glob asid { g with va := g.va + 4 * j, pa := g.pa + 4 * j }
    let free (r : SlotSt) : SlotSt := { r with
      inflight := r.inflight.filter fun e => e.id ≠ m.id
      ops := r.ops.filter fun e => e.id ≠ m.id
      hold := if r.hold = .op m.id then .none else r.hold }
    let gives (t : State) (r : SlotSt) : Prop :=
      ∃ u, exec (.memoryOpPerform task op) s = .next (setSlot t c i { free r with undo := u })
    let word (b : Nat) : Word := if ext ∧ 2 ^ (8 * n - 1) ≤ b then BitVec.ofNat 64 (2 ^ 64 - 2 ^ (8 * n) + b) else BitVec.ofNat 64 b
    let old := natOf (pointRead s c l n m.mask).2.1
    let b : BitVec (8 * n) := BitVec.ofNat (8 * n) old
    let z : BitVec (8 * n) := v.setWidth (8 * n)
    let result : BitVec (8 * n) := match a with
      | .add => b + z
      | .and => b &&& z
      | .or => b ||| z
      | .xor => b ^^^ z
      | .min => if b.sle z then b else z
      | .max => if b.sle z then z else b
      | .minn => if b.ule z then b else z
      | .maxn => if b.ule z then z else b
      | .swap => z
    let atSlice (w : Nat) : Prop := ∃ t, gives t (sl.setP dst (word old)) ∧ t.cores = s.cores ∧ t.tasks = s.tasks ∧
      rdNat t.mem g.pa n = w % 2 ^ (8 * n) ∧
      ∀ e, e < g.pa ∨ g.pa + n ≤ e → rd t.mem e = rd (pointRead s c l n m.mask).1.mem e
    (∀ ro, m.kind = .load ro l n ext dst → (∀ p ∈ wordParts g.va n, (coreRead s c ro (l.plus p.1) p.2 m.mask).2.2 = false) →
      gives (coreRead s c ro l n m.mask).1 (sl.setP dst (word (natOf (coreRead s c ro l n m.mask).2.1)))) ∧
    (∀ ro, m.kind = .loadV ro l pr dst → dst < 16 → g.va % 32 = 0 → g.pa % 128 = g.va % 128 →
      (∀ j, j < 8 → pr.getLsbD j = true → (coreRead s c ro (at_ j) 4 m.mask).2.2 = false) →
      ∃ t w, gives t (sl.setV dst w) ∧ t.cores = s.cores ∧ t.tasks = s.tasks ∧ ∀ j, j < 8 →
        laneOf 32 w j = if pr.getLsbD j then BitVec.ofNat 32 (natOf (coreRead s c ro (at_ j) 4 m.mask).2.1)
          else laneOf 32 (sl.v dst) j) ∧
    (m.kind = .store l n v → gives (tagStore (coreWrite s c l (bytesOf n v.toNat) m.mask) c l n none) sl) ∧
    (m.kind = .storeV l pr y → g.va % 32 = 0 → g.pa % 128 = g.va % 128 →
      ∃ t, gives t sl ∧ t.cores = s.cores ∧ t.tasks = s.tasks ∧
        (g.swm = false ∨ uncached c = true → ∀ e, rd t.mem e =
          if g.pa ≤ e ∧ e < g.pa + 32 ∧ pr.getLsbD ((e - g.pa) / 4) = true then laneOf 8 y (e - g.pa) else rd s.mem e) ∧
        (g.swm = true → uncached c = false → ∀ j w, j < 8 → pr.getLsbD j = true →
          (coreRead t c false (at_ j) 4 w).2.1 = bytesOf 4 (laneOf 32 y j).toNat)) ∧
    (pointBad s c m l n = none →
      (m.kind = .amo l a n ext (z.setWidth 64) dst → atSlice result.toNat) ∧
      (m.kind = .cas l n ext (z.setWidth 64) x dst → old = z.toNat → atSlice x.toNat) ∧
      (m.kind = .cas l n ext (z.setWidth 64) x dst → old ≠ z.toNat → gives (pointRead s c l n m.mask).1 (sl.setP dst (word old)))))

/-- Vector loads and stores, gathers and scatters of local memory when they are performed (R172, R173): the words that are
on, lane by lane; of two lanes that store to one byte the higher wins. (undo is the model's own: log 32.) -/
def Obligations.LocalLaneResults : Prop :=
  ∀ (s : State) (task op c i q off dst : Nat) (g : Pred) (x : Vec) (word : Bool) (ls : List (Nat × Nat))
    (ws : List (Nat × Nat × Nat)) (m : MemOp) (sl : SlotSt),
    residence s task = some (c, i) → slotAt s c i = some sl → findOp s task op = some m → opReady s task m = true →
    s.memOk = true → m.sync = .none → q < mailBase → dst < 16 →
    let w := if word then 32 else 16
    let e := if word then 4 else 2
    let mem (t : State) : Mem := (getCore t q).lmem
    let free (r : SlotSt) : SlotSt := { r with
      inflight := r.inflight.filter fun e => e.id ≠ m.id
      ops := r.ops.filter fun e => e.id ≠ m.id
      hold := if r.hold = .op m.id then .none else r.hold }
    let loads (f : Nat → Option (BitVec 32)) : Prop :=
      ∃ v u, exec (.memoryOpPerform task op) s = .next (setSlot s c i { free (sl.setV dst v) with undo := u }) ∧
        ∀ j, j < 8 → laneOf 32 v j = (f j).getD (laneOf 32 (sl.v dst) j)
    let stores (f : Nat → Option Byte) : Prop :=
      ∃ t u, exec (.memoryOpPerform task op) s = .next t ∧ slotAt t c i = some { free sl with undo := u } ∧
        (∀ b, rd (mem t) b = (f b).getD (rd (mem s) b)) ∧ (∀ e, e ≠ q → (getCore t e).lmem = (getCore s e).lmem) ∧
        t.mem = s.mem
    (∀ ro, m.kind = .loadV ro (.loc q off) g dst → (∀ j, j < 8 → g.getLsbD j = true → (lmRead s q (off + 4 * j) 4).2 = false) →
      loads fun j => if g.getLsbD j then some (BitVec.ofNat 32 (rdNat (mem s) (off + 4 * j) 4)) else none) ∧
    (m.kind = .storeV (.loc q off) g x →
      stores fun b => if off ≤ b ∧ b < off + 32 ∧ g.getLsbD ((b - off) / 4) = true then some (laneOf 8 x (b - off)) else none) ∧
    (m.kind = .gatherL q e ls dst → (∀ p ∈ ls, p.1 < 256 / w ∧ (lmRead s q p.2 e).2 = false) → (ls.map Prod.fst).Nodup →
      (∀ p ∈ ls, word = false → ∃ r ∈ ls, r.1 = p.1 ^^^ 1) →
      loads fun j =>
        let half (k : Nat) : Nat := match ls.find? fun p => p.1 = k with
          | some p => rdNat (mem s) p.2 e
          | none => 0
        if (ls.find? fun p => p.1 = (if word then j else 2 * j)).isNone then none
        else some (BitVec.ofNat 32 (if word then half j else half (2 * j) + 2 ^ 16 * half (2 * j + 1)))) ∧
    (m.kind = .scatterL q e ws → stores fun b =>
      (ws.reverse.find? fun p => p.2.1 ≤ b ∧ b < p.2.1 + e).map fun p => BitVec.ofNat 8 (p.2.2 / 256 ^ (b - p.2.1)))

/-- A core reads back what it has just stored, through its near cache or from local memory (R152, R167, R180, R181). A
store to a coherent page is in physical memory at once, which R165 and R167 leave open and the model chooses (log 39), and
changes no other byte of it; one to a software-managed page changes no byte of it but what an evicted line writes back. -/
def Obligations.StoreThenLoad : Prop :=
  ∀ (s : State) (c asid q off : Nat) (g : Seg) (bs : List Byte) (m w : Option Word), s.memOk = true →
    g.len = bs.length → 0 < bs.length → g.va % 128 + bs.length ≤ 128 → g.pa % 128 = g.va % 128 →
    (∀ l ∈ (getCluster s (clusterOf s c)).near, l.asid = asid → l.line = g.va / 128 →
      l.swm = g.swm ∧ l.pa = g.pa / 128 * 128) →
    (∀ l ∈ (getCluster s (clusterOf s c)).near, l.pa % 128 = 0 ∧
      (l.pa = g.pa / 128 * 128 → l.asid = asid ∧ l.line = g.va / 128)) →
    let t := coreWrite s c (.glob asid g) bs m
    (coreRead t c false (.glob asid g) bs.length w).2.1 = bs ∧
    (coreRead (coreWrite s c (.loc q off) bs m) c false (.loc q off) bs.length w).2.1 = bs ∧
    (g.swm = false ∨ uncached c = true → rdBytes t.mem g.pa bs.length = bs ∧
      ∀ b, b < g.pa ∨ g.pa + bs.length ≤ b → rd t.mem b = rd s.mem b) ∧
    (g.swm = true → uncached c = false → ((getCluster s (clusterOf s c)).near.filter fun l => l.line % 32 = g.va / 128 % 32).length < 8 →
      t.mem = s.mem) ∧
    (∀ d, (getCore t d).lmem = (getCore s d).lmem)

/-- TBLLD (R117, R149): a shipped table at once; a table in memory as an operation that reads 1,024 bytes, which when it is
performed gives the image of 256 words, or, where a word is poisoned, leaves the table untouched and traps; poison that came
after the operation had passed the point at which it could trap is seen after it (R349; log 32). -/
def Obligations.DecodeTableLoad : Prop :=
  ∀ (s : State) (h : Hdr) (o : Ord) (toB : Bool) (a : XReg) (off : BitVec 32) (sl : SlotSt) (k : TaskSt) (u : State)
    (ls : List (Loc × Nat)),
    let set (t : State) (c : Nat) (v : DecTable) : State :=
      modCore t c fun k => { k with tblA := if toB then k.tblA else v, tblB := if toB then v else k.tblB }
    let ea := sl.x a.val + off.signExtend 64
    (s.Runs h (.tblld h o .q43 toB a off) sl k →
      exec (.tblld h o .q43 toB a off) s = .next (set (s.begun h (.tblld h o .q43 toB a off) sl) s.core .q43)) ∧
    (s.Runs h (.tblld h o .q52 toB a off) sl k →
      exec (.tblld h o .q52 toB a off) s = .next (set (s.begun h (.tblld h o .q52 toB a off) sl) s.core .q52)) ∧
    (s.Runs h (.tblld h o .mem toB a off) sl k →
      reachRange (s.begun h (.tblld h o .mem toB a off) sl) ea 1024 64 .read true = .ok (u, ls) →
      let v := if o.sync = .acq ∨ o.sync = .acqrel then acquireFlash u u.core o.scope else u
      let bad := if opDeps u sl.task o [(ea.toNat, 1024)] = [] then
          rangeBad (fun l n => (coreRead v u.core false l n none).2.2) ls 0 else none
      (bad = none →
        exec (.tblld h o .mem toB a off) s = .next (pushOp u s.seq o [(ea.toNat, 1024)] (.tblld (ls.map Prod.fst) toB))) ∧
      (∀ j, bad = some j → exec (.tblld h o .mem toB a off) s = .next (raiseTrap (tried s h) s.core s.slot
        { cause := .poison, addr := ea + BitVec.ofNat 64 j, word := wordOf (.tblld h o .mem toB a off) }))) ∧
    (∀ c i task op m q at_, residence s task = some (c, i) → slotAt s c i = some sl → findOp s task op = some m →
      opReady s task m = true → m.sync = .none → m.kind = .tblld [.loc q at_] toB →
      let bad := (lmRead s q at_ 1024).2 = true ∧ ∃ u ∈ sl.undo, u.id = m.id
      (bad → ∃ x t, poisonPerformed (passOlder s task m) task m .read x = some t ∧
        exec (.memoryOpPerform task op) s = .next t) ∧
      (¬ bad → ∃ t, exec (.memoryOpPerform task op) s = .next t ∧
        (let img := DecTable.img ((List.range 256).map fun j => BitVec.ofNat 32 (rdNat (getCore s q).lmem (at_ + 4 * j) 4))
         (getCore t c).tblA = (if toB then (getCore s c).tblA else img) ∧
         (getCore t c).tblB = (if toB then img else (getCore s c).tblB)) ∧
        t.mem = s.mem ∧ (∀ e, (getCore t e).lmem = (getCore s e).lmem)))

/-- WBR, INVR, INVR.ro, WBINVR and ZEROR (R184 to R190): an empty range is complete at once with 0 left; one whose checks pass
covers at most 65,536 bytes, and the length that is left goes to x[d] when it is performed, which for WBR in the local window
is at issue. In the local window, and outside it where the slices hold the translations of the lines and nothing is
poisoned, nothing stops them. The model's readings: poison judged at issue where nothing is ordered before (log 32), of the
dirty bytes that WBR and WBINVR write back and of the lines that they or ZEROR fill (log 39); no ALIAS among the causes (log 51); the parts of a range, and the
detail and address of a trap of one of them (log 13).

LOCKL and UNLOCKL (R195): n + 1 lines from an aligned address outside the local window, in one operation; each line in
its turn, a step for each, bit j of the result set where line j failed. Where the slices hold the translations of the lines
and none of them is poisoned, nothing stops them. (Poison at issue: log 32; no ALIAS: log 51.) -/
def Obligations.RegionIssue : Prop :=
  (∀ (s : State) (h : Hdr) (o : Ord) (d a b : XReg) (off : BitVec 32),
    let region (i : Instr) (acc : Acc4) (bad : State → Nat → List Loc → Option Nat) (atOnce : Bool) (kind : List Loc → Word → Nat → OpKind) : Prop :=
      ∀ sl k, s.Runs h i sl k →
        let g := s.begun h i sl
        let ea := sl.x a.val + off.signExtend 64
        let len := sl.x b.val
        let m := Nat.min len.toNat 65536
        let rem : Word := len - BitVec.ofNat 64 m
        let spans := [(ea.toNat, m)]
        let clean := opDeps g sl.task o spans ≠ [] ∨ s.mpoison = [] ∧ ∀ l ∈ (getCluster s (clusterOf s s.core)).near,
          ∀ j, j < 128 → l.dirty.getLsbD j = true → l.poison.getLsbD (j / 4) = false
        (ea.toNat % 4 ≠ 0 ∨ len.toNat % 4 ≠ 0 → exec i s = .next (raiseTrap (tried s h) s.core s.slot
          { cause := .align, detail := acc.code, addr := ea, word := wordOf i })) ∧
        (ea.toNat % 4 = 0 → len = 0 →
          exec i s = .next (deliver g sl.task s.seq [{ reg := .x (sl.px d.val), val := 0 }])) ∧
        (ea.toNat % 4 = 0 → len.toNat % 4 = 0 → len ≠ 0 → ∀ u ls, regionLocs g ea len acc = .ok (u, ls) →
          let v := if o.sync = .acq ∨ o.sync = .acqrel then acquireFlash u u.core o.scope else u
          exec i s = .next (
            if 0x00FFFFFFFFFF0000 ≤ ea.toNat ∧ atOnce = true then
              deliver u sl.task s.seq [{ reg := .x (sl.px d.val), val := rem.setWidth 256 }]
            else match (if opDeps u sl.task o spans = [] then bad v s.core ls else none) with
              | some x => raiseTrap (tried s h) s.core s.slot
                  { cause := .poison, detail := acc.code, addr := BitVec.ofNat 64 x, word := wordOf i }
              | none => pushOp u s.seq o spans (kind ls rem (sl.px d.val)))) ∧
        (ea.toNat % 4 = 0 → len.toNat % 4 = 0 → len ≠ 0 → 0x00FFFFFFFFFF0000 ≤ ea.toNat → ea.toNat + m ≤ 2 ^ 56 →
          exec i s = .next (if atOnce = true then deliver g sl.task s.seq [{ reg := .x (sl.px d.val), val := rem.setWidth 256 }]
            else pushOp g s.seq o spans (kind [.loc s.core (ea.toNat - 0x00FFFFFFFFFF0000)] rem (sl.px d.val)))) ∧
        (ea.toNat % 4 = 0 → len.toNat % 4 = 0 → len ≠ 0 → ea.toNat + m ≤ 0x00FFFFFFFFFF0000 → clean →
          (∀ p ∈ partsOf ea.toNat m, ∃ e, tlbFind s (sliceOf s.gw.slhash (p.1 / 128)) k.asid p.1 = some e ∧
            (acc = .write → e.w = true)) →
          ∃ t op ls, exec i s = .next t ∧ slotAt t s.core s.slot = some { sl.started h i s.seq with ops := sl.ops ++ [op] } ∧
            op.id = s.seq ∧ op.kind = kind ls rem (sl.px d.val) ∧ op.spans = spans ∧
            ls.map Loc.ea = (partsOf ea.toNat m).map Prod.fst)
    region (.wbr h o d a b off) .read dirtyBad true .wbr ∧
    region (.invr h o d a b off) .read noneBad false (.invr false) ∧
    region (.invrRo h o d a b off) .read noneBad false (.invr true) ∧
    region (.wbinvr h o d a b off) .read dirtyBad false .wbinvr ∧
    region (.zeror h o d a b off) .write zeroBad false .zeror ∧
    (∀ task op c i m q ls rem dst, residence s task = some (c, i) → slotAt s c i = some q → findOp s task op = some m →
      opReady s task m = true →
      let clean (x : Option Nat) : Prop := x = none ∨ ∀ u ∈ q.undo, u.id ≠ m.id
      ((m.kind = .wbr ls rem dst ∨ m.kind = .wbinvr ls rem dst) ∧ clean (dirtyBad s c ls) ∨ m.kind = .invr false ls rem dst ∨
        m.kind = .invr true ls rem dst ∨ m.kind = .zeror ls rem dst ∧ clean (zeroBad s c ls)) →
      ∃ t u, exec (.memoryOpPerform task op) s = .next t ∧ slotAt t c i = some { q.setP dst rem with
        inflight := q.inflight.filter fun e => e.id ≠ m.id
        ops := q.ops.filter fun e => e.id ≠ m.id
        hold := if q.hold = .op m.id then .none else q.hold
        undo := u })) ∧
  (∀ (s : State) (h : Hdr) (o : Ord) (n : BitVec 6) (d a : XReg) (off : BitVec 32) (sl : SlotSt) (k : TaskSt) (u : State)
    (gs : List Seg),
    let ea := sl.x a.val + off.signExtend 64
    let len := 128 * (n.toNat + 1)
    let issues (i : Instr) (lock : Bool) : Prop := s.Runs h i sl k → ea.toNat % 128 = 0 → ea.toNat + len ≤ 0x00FFFFFFFFFF0000 →
      xlateParts (s.begun h i sl) k.asid .read (partsOf ea.toNat len) = .ok (u, gs) →
      let ls := gs.map fun g => Loc.glob k.asid g
      let v := if o.sync = .acq ∨ o.sync = .acqrel then acquireFlash u u.core o.scope else u
      (lock = true → opDeps u sl.task o [(ea.toNat, len)] = [] →
        lockBad v lock (if isHart s.core then none else some (getCore s s.core).waymask) ls = none) →
      exec i s = .next (pushOp u s.seq o [(ea.toNat, len)] (.lockl lock ls 0 0 (sl.px d.val)))
    let completes (i : Instr) (lock : Bool) : Prop := s.Runs h i sl k → ea.toNat % 128 = 0 →
      ea.toNat + len ≤ 0x00FFFFFFFFFF0000 →
      (∀ p ∈ partsOf ea.toNat len, ∃ e, tlbFind s (sliceOf s.gw.slhash (p.1 / 128)) k.asid p.1 = some e ∧
        (lock = true → memBad s (e.addr p.1) 128 = false)) →
      ∃ t op ls, exec i s = .next t ∧ slotAt t s.core s.slot = some { sl.started h i s.seq with ops := sl.ops ++ [op] } ∧
        op.id = s.seq ∧ op.kind = .lockl lock ls 0 0 (sl.px d.val) ∧ op.spans = [(ea.toNat, len)] ∧
        ls.map Loc.ea = (partsOf ea.toNat len).map Prod.fst
    issues (.lockl h o n d a off) true ∧ issues (.unlockl h o n d a off) false ∧
    completes (.lockl h o n d a off) true ∧ completes (.unlockl h o n d a off) false ∧
    (∀ task op c i m q lock asid g rest j bm dst, residence s task = some (c, i) → slotAt s c i = some q →
      findOp s task op = some m → opReady s task m = true → m.kind = .lockl lock (.glob asid g :: rest) j bm dst →
      lockBad s lock m.mask (.glob asid g :: rest) = none →
      let bm' := if (lockLine s lock m.mask asid g).2 then bm + 2 ^ j else bm
      ∃ (t : State) (r : SlotSt) (u : List Undo), exec (.memoryOpPerform task op) s = .next t ∧ slotAt t c i = some { r with undo := u } ∧
        (rest = [] → r = { q.setP dst (BitVec.ofNat 64 bm') with
          inflight := q.inflight.filter fun e => e.id ≠ m.id
          ops := q.ops.filter fun e => e.id ≠ m.id
          hold := if q.hold = .op m.id then .none else q.hold }) ∧
        (rest ≠ [] → r = { q with ops := q.ops.map fun x =>
          if x.id = m.id then { x with kind := .lockl lock rest (j + 1) bm' dst } else x })) ∧
    (∀ lock mask asid g,
      let line := g.va / 128
      let i := sliceOf s.gw.slhash line
      let set (t : State) : Tab Way := (tget (getSlice t i).sets (setOf line)).getD []
      let t := (lockLine s lock mask asid g).1
      let failed := (lockLine s lock mask asid g).2
      (∀ j, j ≠ i → getSlice t j = getSlice s j) ∧ t.mem = s.mem ∧
      (failed = true → t = s) ∧
      (failed = false → lock = true → ∃ w x, tget (set t) w = some x ∧ x.asid = asid ∧ x.line = line ∧ x.locked = true) ∧
      (failed = false → lock = false → ∃ w x, findWay (set s) asid line = some w ∧ tget (set t) w = some x ∧ x.locked = false)))

/-- What the region instructions do to one part of their range (R182, R186 to R189): WBR writes the dirty bytes of a
software-managed line to physical memory and leaves them clean; INVR drops a coherent line and marks the words of a
software-managed one invalid, writing nothing, and tells the fills of its line that are in flight, which then do not make those
words valid (R191); ZEROR stores zeros. What poison they would read (R197): WBR that of the dirty words, and, where the slice does
not hold the line and so fills it, that of the line in memory; ZEROR that of the words beside the zeros where its slice fills
the line, which is the model's choice (log 39). -/
def Obligations.RegionEffects : Prop :=
  ∀ (s : State) (c asid q off n : Nat) (g : Seg) (l : NearLine) (w : Option Word),
    let cl := clusterOf s c
    let o := g.va % 128
    let inside (k : Nat) : Prop := o ≤ k ∧ k < o + g.len
    s.memOk = true → nearFind s cl asid (g.va / 128) = some l → o + g.len ≤ 128 →
    (l.swm = true → ∃ r, nearFind (wbPart s c (.glob asid g) w) cl asid (g.va / 128) = some r ∧
      r.data = l.data ∧ r.valid = l.valid ∧
      (∀ k, k < 128 → r.dirty.getLsbD k = if o ≤ k ∧ k < o + g.len then false else l.dirty.getLsbD k) ∧
      (∀ k, inside k → l.dirty.getLsbD k = true → rd (wbPart s c (.glob asid g) w).mem (l.pa + k) = l.data.extractLsb' (8 * k) 8) ∧
      (∀ b, (∀ k, inside k → l.dirty.getLsbD k = true → b ≠ l.pa + k) → rd (wbPart s c (.glob asid g) w).mem b = rd s.mem b)) ∧
    (l.swm = false → wbPart s c (.glob asid g) w = s ∧ nearFind (invPart s c (.glob asid g)) cl asid (g.va / 128) = none) ∧
    (l.swm = true → ∃ r, nearFind (invPart s c (.glob asid g)) cl asid (g.va / 128) = some r ∧ r.data = l.data ∧
      ∀ k, k < 128 → inside k → r.dirty.getLsbD k = false ∧ r.valid.getLsbD (k / 4) = false) ∧
    (invPart s c (.glob asid g)).mem = s.mem ∧
    (∀ id a mask dead, tget s.fetches id = some (.near a asid (g.va / 128) mask dead) → clusterOf s a = cl →
      ∃ d, tget (invPart s c (.glob asid g)).fetches id = some (.near a asid (g.va / 128) mask d) ∧
        ∀ j, j < 32 → d.getLsbD j = (dead.getLsbD j || !g.swm || decide (o < 4 * j + 4 ∧ 4 * j < o + g.len))) ∧
    (0 < g.len → l.line = g.va / 128 →
      let held := ∃ w, findWay ((tget (getSlice s (sliceOf s.gw.slhash (g.va / 128))).sets (setOf (g.va / 128))).getD []) asid
        (g.va / 128) = some w
      (uncached c = false → (dirtyBad s c [.glob asid g] = none ↔
        (∀ k, inside k → l.dirty.getLsbD k = true → l.poison.getLsbD (k / 4) = false) ∧
        ((∀ k, inside k → l.dirty.getLsbD k = false) ∨ held ∨ memBad s l.pa 128 = false))) ∧
      (g.va % 4 = 0 → g.len % 4 = 0 → (zeroBad s c [.glob asid g] = none ↔ g.swm = true ∧ uncached c = false ∨ held ∨
        ∀ j, j < 32 → ¬ (o ≤ 4 * j ∧ 4 * j < o + g.len) → memBad s (g.pa / 128 * 128 + 4 * j) 4 = false))) ∧
    (let t := zeroPart s c (.loc q off) n w
     (∀ b, rd (getCore t q).lmem b = if off ≤ b ∧ b < off + n then 0 else rd (getCore s q).lmem b) ∧ t.mem = s.mem)

/-- SEND, SENDI, CNTRD, CNTADD, CNTSET, ARM, LAUNCH and NSEND at issue (R214, R221, R222, R224, R225, R227, R233): operands
captured, the checks of SEND and SENDI in their order, the record read whole by the others, whose causes do not include ALIAS
(R234; log 51). That POISON of the record is judged at issue, where nothing is ordered before, is the model's reading (log 32). -/
def Obligations.MessageIssue : Prop :=
  ∀ (s : State) (h : Hdr) (o : Ord) (sz : Size) (self : Bool) (d a b : XReg) (c : CtrReg) (toff : BitVec 16)
    (v off : BitVec 32) (sl : SlotSt) (k : TaskSt) (u : State) (ls : List (Loc × Nat)),
    let coord := ((sl.x a.val).extractLsb' 0 18).toNat
    let at_ (n : Nat) : Nat × Nat :=
      if coord = s.core then (0x00FFFFFFFFFF0000 + toff.toNat, n) else (2 ^ 64 + 65536 * coord + toff.toNat, n)
    let queues (i : Instr) (spans : List (Nat × Nat)) (kind : OpKind) : Prop :=
      exec i s = .next (pushOp (s.begun h i sl) s.seq o spans kind)
    let traps (i : Instr) (t : Trap) : Prop :=
      exec i s = .next (raiseTrap (tried s h) s.core s.slot { t with word := wordOf i })
    let src := (sl.x d.val).toNat
    let n := (sl.x b.val).toNat
    let inside := 0x00FFFFFFFFFF0000 ≤ src ∧ src + n ≤ 2 ^ 56
    let size : Nat := match sz with
      | .b => 1
      | .h => 2
      | .w => 4
      | .d => 8
      | .v => 32
    let reads (i : Instr) (len al : Nat) (kind : Loc → OpKind) : Prop := s.Runs h i sl k →
      let ea := sl.x a.val + off.signExtend 64
      reachRange (s.begun h i sl) ea len al .read false = .ok (u, ls) → ∀ l r, ls = l :: r →
      let g := if o.sync = .acq ∨ o.sync = .acqrel then acquireFlash u u.core o.scope else u
      let bad := if opDeps u sl.task o [(ea.toNat, len)] = [] then
        rangeBad (fun l n => (coreRead g u.core false l n none).2.2) ls 0 else none
      (bad = none → exec i s = .next (pushOp u s.seq o [(ea.toNat, len)] (kind l.1))) ∧
      (∀ j, bad = some j → traps i { cause := .poison, addr := ea + BitVec.ofNat 64 j })
    (s.Runs h (.send h o d a b c toff) sl k →
      (n = 0 ∨ 4096 < n → traps (.send h o d a b c toff) { cause := .illegal, detail := 8 }) ∧
      (0 < n → n ≤ 4096 → ¬ inside → traps (.send h o d a b c toff) { cause := .window, addr := sl.x d.val }) ∧
      (0 < n → n ≤ 4096 → inside → 65536 < toff.toNat + n →
        traps (.send h o d a b c toff) { cause := .window, detail := 2, addr := toff.setWidth 64 }) ∧
      (0 < n → n ≤ 4096 → inside → toff.toNat + n ≤ 65536 → queues (.send h o d a b c toff) [(src, n), at_ n]
        (.send coord toff.toNat c.val [] (some (src - 0x00FFFFFFFFFF0000, n))))) ∧
    (s.Runs h (.sendi h o sz a b c toff) sl k →
      (toff.toNat % size ≠ 0 → traps (.sendi h o sz a b c toff) { cause := .align, detail := 2, addr := toff.setWidth 64 }) ∧
      (toff.toNat % size = 0 → queues (.sendi h o sz a b c toff) [at_ size]
        (.send coord toff.toNat c.val (bytesOf size (sl.x b.val).toNat) none))) ∧
    (s.Runs h (.cntrd h o d c) sl k → queues (.cntrd h o d c) [] (.cntrd c.val (sl.px d.val))) ∧
    (s.Runs h (.cntadd h o self a b c v) sl k → queues (.cntadd h o self a b c v) []
      (.cntadd (if self then s.core else coord) c.val ((sl.x b.val).setWidth 32 + v))) ∧
    (s.Runs h (.cntset h o b c) sl k → queues (.cntset h o b c) [] (.cntset c.val ((sl.x b.val).setWidth 32))) ∧
    reads (.arm h o d a off) 64 64 (fun l => .arm l (sl.px d.val)) ∧
    reads (.launch h o d a off) 128 128 (fun l => .launch l (sl.px d.val)) ∧
    reads (.nsend h o a off) 64 64 (fun l => .nsend l)

/-- Counter operations when they are performed (R217, R218, R221, R222): CNTADD and SEND put a message on its way and stay
outstanding until it is applied; CNTRD gives the counter's value; CNTSET sets it, but not after an increment, a table firing or a
trigger start of its router cycle (R45, R226). LAUNCH with its record in the local window: the launch fires, the result is its
index, or a status where it is refused; one that is not refused waits for the matrix queues of the members that it binds (R42,
R227, R236, R328). (undo is the model's own: log 32.) -/
def Obligations.CounterOperations : Prop :=
  ∀ (s : State) (task op c i coord toff ctr dst off n : Nat) (v : BitVec 32) (bs : List Byte) (m : MemOp) (sl : SlotSt) (k : TaskSt),
    residence s task = some (c, i) → slotAt s c i = some sl → getTask s task = some k → findOp s task op = some m →
    opReady s task m = true → ctr < 16 →
    let free (r : SlotSt) : SlotSt := { r with
      inflight := r.inflight.filter fun e => e.id ≠ m.id
      ops := r.ops.filter fun e => e.id ≠ m.id
      hold := if r.hold = .op m.id then .none else r.hold }
    let wait (r : SlotSt) : SlotSt := { r with ops := r.ops.map fun x => if x.id = m.id then { x with sent := true } else x }
    let past := (getCore s c).firedAt = some s.now ∨ (getCore s c).trigAt = some s.now
    let sends (msg : CMsg) : Prop := ∃ u, exec (.memoryOpPerform task op) s = .next
      { setSlot s c i { wait sl with undo := u } with cmsgs := tset s.cmsgs s.seq msg, seq := s.seq + 1 }
    (m.kind = .cntadd coord ctr v → sends { coord, ctr, add := v, asid := some k.asid, op := some (task, m.id) }) ∧
    (m.kind = .send coord toff ctr bs none →
      sends { coord, ctr, add := 1, asid := some k.asid, toff, data := bs, op := some (task, m.id) }) ∧
    (m.kind = .send coord toff ctr bs (some (off, n)) → sends (
      let bad := (lmRead s c off n).2
      let data := rdBytes (getCore s c).lmem off n
      { coord, ctr, add := 1, asid := some k.asid, toff, data, bad, op := some (task, m.id) })) ∧
    (m.kind = .cntrd ctr dst → ∃ t u, exec (.memoryOpPerform task op) s = .next t ∧
      slotAt t c i = some { free (sl.setP dst ((ctrOf s c ctr).setWidth 64)) with undo := u } ∧ t.mem = s.mem) ∧
    (m.kind = .cntset ctr v → tget (getCore s c).incAt ctr ≠ some s.now → ¬ past → ∃ t,
      exec (.memoryOpPerform task op) s = .next t ∧ ctrOf t c ctr = v ∧ (∀ d j, (d, j) ≠ (c, ctr) → ctrOf t d j = ctrOf s d j) ∧ t.mem = s.mem ∧
      ∀ d, (getCore t d).lmem = (getCore s d).lmem) ∧
    (m.kind = .cntset ctr v → tget (getCore s c).incAt ctr = some s.now ∨ past → exec (.memoryOpPerform task op) s = .next s) ∧
    (m.kind = .launch (.loc c off) dst → (lmRead s c off 128).2 = false →
      let p := passOlder s task m
      let r := LaunchRec.ofBytes (rdBytes (getCore s c).lmem off 128)
      (∀ st, fireLaunch p r sl.level k.asid = .error st → ∃ u, exec (.memoryOpPerform task op) s =
        .next (setSlot s c i { free (sl.setP dst (0x8000000000000000 + BitVec.ofNat 64 st)) with undo := u })) ∧
      (∀ x n, fireLaunch p r sl.level k.asid = .ok (x, n) → exec (.memoryOpPerform task op) s =
        .next (if launchWaits p r = true then s else deliver x task m.id [{ reg := .x dst, val := (BitVec.ofNat 64 n).setWidth 256 }])))

/-- COUNTER_UPDATE (R45, R217, R218, R221, R370): a message that reaches its target writes its bytes into that core's local
memory and then adds to the one counter, modulo 2^32; table entries follow its value. A message for a core that is absent,
has no owner or is owned by another ASID changes no counter and no local memory; that the device's own increments are not judged
against the owner's ASID is the model's choice (log 35). A message lost with a link is not applied before its link has answered;
one whose target's table has fired, or started a trigger, in this router cycle waits for the next (R226); one to a core that
freezes is held (R375). -/
def Obligations.CounterMessages : Prop :=
  ∀ (s : State) (id : Nat) (m : CMsg), s.memOk = true → tget s.cmsgs id = some m → id < s.seq → m.ctr < 16 → m.bad = false →
    let hit := coreOk s m.coord = true ∧
      (m.asid = none ∨ m.judged = false ∧ (getCore s m.coord).owner ≠ none ∨ m.asid = (getCore s m.coord).owner)
    let new := ctrOf s m.coord m.ctr + m.add
    let core := getCore s m.coord
    let waits := m.link ≠ none ∨ core.firedAt = some s.now ∨ core.trigAt = some s.now ∨ core.freezing = true
    (waits → exec (.counterUpdate id) s = .next s) ∧
    (¬ waits → ∃ t, exec (.counterUpdate id) s = .next t ∧ tget t.cmsgs id = none ∧
      (∀ c n, ctrOf t c n = if hit ∧ c = m.coord ∧ n = m.ctr then new else ctrOf s c n) ∧
      (∀ c b, rd (getCore t c).lmem b =
        if hit ∧ c = m.coord ∧ m.toff ≤ b ∧ b < m.toff + m.data.length then m.data.getD (b - m.toff) 0
        else rd (getCore s c).lmem b) ∧
      (m.op = none → m.halo = none → m.launch = none → hit → t.mem = s.mem ∧
        (∀ d i, slotAt t d i = slotAt s d i) ∧ tget (getCore t m.coord).incAt m.ctr = some s.now ∧
        (∀ e w, tget (getCore s m.coord).wt e = some w → w.valid = true → w.ctr = m.ctr →
          ∃ x, tget (getCore t m.coord).wt e = some x ∧ x = { w with ready := x.ready } ∧
            (x.ready.isSome ↔ w.thresh ≤ new))))

/-- WTSET, WTSET.s, WTSET.l and WTCLR (R44, R45, R223): what x[d] receives, the entry's fields, and the traps.

WT_ENTRY_FIRE (R45, R46): the entry that has been ready longest fires, the lower counter and then the lower index first,
and is free, one a router cycle, before any trigger starts in it (R226); a continuation of a task that the entry suspended is
queued on the task's own coordinate, that of another saved task on the entry's core, with the priority of the record (R36, R39,
R218). A launch's record is read then: a refused launch performs its done increment at once, another is fired, or waits for the
matrix queues of the members that it binds (R236, R329). -/
def Obligations.WaitingTasks : Prop :=
  (∀ (s : State) (h : Hdr) (d a b : XReg) (e : BitVec 4) (c : CtrReg) (sl : SlotSt) (k : TaskSt),
    let entry := tget (getCore s s.core).wt e.toNat
    let at_ := sl.x b.val
    let thresh : BitVec 32 := (sl.x a.val).setWidth 32
    let ready := if thresh ≤ ctrOf s s.core c.val then some s.now else none
    let gets (i : Instr) (v : Word) : State := s.after h ((sl.started h i s.seq).setX d.val v)
    let armed (i : Instr) (w : WtEntry) : State :=
      modCore (gets i 1) s.core fun m => { m with wt := tset m.wt e.toNat w }
    let traps (i : Instr) (t : Trap) : Prop :=
      exec i s = .next (raiseTrap (tried s h) s.core s.slot { t with word := wordOf i })
    let w : WtEntry :=
      { valid := true, launchRec := false, ctr := c.val, thresh, recVa := at_.toNat % 2 ^ 56, asid := k.asid, task := none
        level := sl.level, launch := k.launch, ready }
    let forms (i : Instr) (al : Nat) : Prop := s.Runs h i sl k →
      (entry.isSome → exec i s = .next (gets i 0)) ∧
      (entry = none → at_.toNat % al ≠ 0 → traps i { cause := .align, addr := at_ })
    forms (.wtset h d e c a b) 32 ∧ forms (.wtsetS h d e c a b) 32 ∧ forms (.wtsetL h d e c a b) 128 ∧
    (s.Runs h (.wtset h d e c a b) sl k → entry = none → at_.toNat % 32 = 0 →
      (sl.level = 0 → traps (.wtset h d e c a b) { cause := .privileged, detail := 4 }) ∧
      (sl.level ≠ 0 → exec (.wtset h d e c a b) s = .next (armed (.wtset h d e c a b) w))) ∧
    (s.Runs h (.wtsetL h d e c a b) sl k → entry = none → at_.toNat % 128 = 0 →
      exec (.wtsetL h d e c a b) s = .next (armed (.wtsetL h d e c a b) { w with launchRec := true })) ∧
    (s.Runs h (.wtsetS h d e c a b) sl k → entry = none → at_.toNat % 32 = 0 →
      (sl.inh = true → exec (.wtsetS h d e c a b) s = .next (gets (.wtsetS h d e c a b) 0)) ∧
      (sl.inh = false → exec (.wtsetS h d e c a b) s = .next (holdThen
        (armed (.wtsetS h d e c a b) { w with valid := false, task := some sl.task, ready := none }) s.core s.slot
        (.wtSave e.toNat at_)))) ∧
    (s.Runs h (.wtclr h d e) sl k →
      exec (.wtclr h d e) s = .next (if (entry.map fun w => w.valid) = some true then
        modCore (gets (.wtclr h d e) 1) s.core fun m => { m with wt := tdel m.wt e.toNat } else gets (.wtclr h d e) 0))) ∧
  (∀ (s : State) (c e : Nat) (w : WtEntry), tget (getCore s c).wt e = some w →
    let rank (x : WtEntry) (j : Nat) : Nat × Nat × Nat := (x.ready.getD 0, x.ctr, j)
    let before (x y : Nat × Nat × Nat) : Prop := x.1 < y.1 ∨ x.1 = y.1 ∧ (x.2.1 < y.2.1 ∨ x.2.1 = y.2.1 ∧ x.2.2 < y.2.2)
    let first := w.valid = true ∧ w.ready.isSome ∧
      ∀ j x, tget (getCore s c).wt j = some x → x.valid = true → x.ready.isSome → j ≠ e → before (rank w e) (rank x j)
    (∀ j x, tget (getCore s c).wt j = some x → x.ctr < 16 ∧ j < 16) →
    ((getCore s c).wt.map Prod.fst).Pairwise (· < ·) →
    let u := modCore s c fun m => { m with wt := tdel m.wt e, firedAt := some s.now }
    let r : RecAt := ⟨w.asid, w.recVa⟩
    let queued (t q : Nat) (k : TaskSt) : State := modCore (setTask u t { k with place := .queued q }) q fun m => { m with
      queue := m.queue ++ [{ task := t, prio := startPrio u k (.record r), launch := k.launch, layer := k.layer
                             start := .record r, acq := true }] }
    let held := (getCore s c).firedAt = some s.now ∨ (getCore s c).trigAt = some s.now ∨ (getCore s c).freezing = true
    (¬ first ∨ held → exec (.wtEntryFire c e) s = .next s) ∧
    (first → ¬ held →
      (w.launchRec = false → ∀ t k, w.task = some t → getTask s t = some k → outOfService s k.home = false →
        exec (.wtEntryFire c e) s = .next (queued t k.home k)) ∧
      (w.launchRec = false → ∀ t k d q, w.task = none → taskOfRecord s r = some (t, k) → getTask s t = some k →
        k.place = .saved d q → outOfService s c = false → outOfService s k.home = false → exec (.wtEntryFire c e) s = .next (queued t c k)) ∧
      (w.launchRec = true → ∀ v bs, devRead u w.asid w.recVa 128 = .ok (v, bs, none) →
        let l := LaunchRec.ofBytes bs
        (∀ st, fireLaunch v l w.level w.asid = .error st →
          exec (.wtEntryFire c e) s = .next (if l.doneEn then sendDone v l.asid l.doneCoord l.doneCtr else v)) ∧
        (∀ x n, fireLaunch v l w.level w.asid = .ok (x, n) → exec (.wtEntryFire c e) s = .next
          (if launchWaits v l = true then { v with late := v.late ++ [{ r := l, level := w.level, asid := w.asid }] } else x)))))

/-- ARM, DISARM and the triggers (R224 to R226): the lowest free index of 32; a valid descriptor; DISARM only before the
action starts; the start that is due, one a router cycle, after the table has fired in it, so that what would come before a start
waits for the next cycle; the done increment and the free index at the end; none on a core that freezes (R375). That a free index
is the lowest, and that an invalid descriptor gives ...FE when the table is full as well, are the model's choices (log 33). -/
def Obligations.Triggers : Prop :=
  ∀ (s : State) (h : Hdr) (d : XReg) (n : BitVec 5) (sl : SlotSt) (k : TaskSt) (c i : Nat) (g : Trigger),
    let mine := tget (getCore s s.core).trig n.toNat
    let gets (v : Word) : State := s.after h ((sl.started h (.disarm h d n) s.seq).setX d.val v)
    (s.Runs h (.disarm h d n) sl k →
      exec (.disarm h d n) s = .next (if (mine.map fun g => g.started) = some false then
        modCore (gets 1) s.core fun m => { m with trig := tdel m.trig n.toNat } else gets 0)) ∧
    let past (c : Nat) : Prop := (getCore s c).firedAt = some s.now ∨ (getCore s c).trigAt = some s.now
    -- an entry of the table has still to fire in this router cycle
    let due := (getCore s c).firedAt ≠ some s.now ∧ ∃ e w, (e, w) ∈ (getCore s c).wt ∧ w.valid = true ∧ w.ready.isSome
    let held := (getCore s c).trigAt = some s.now ∨ due ∨ (getCore s c).freezing = true
    (tget (getCore s c).trig i = some g →
      (firstTrigger (getCore s c) = some i → ¬ held → exec (.triggerStart c i) s = .next (runAction
        (modCore s c fun m => { m with trig := tset m.trig i { g with started := true }, trigAt := some s.now }) c i g)) ∧
      (firstTrigger (getCore s c) ≠ some i ∨ held → exec (.triggerStart c i) s = .next s) ∧
      (∀ x n v t, g.action = .cntadd x n v → runAction t c i g =
        { t with seq := t.seq + 1, cmsgs := tset t.cmsgs t.seq { coord := x, ctr := n, add := v, asid := some g.asid, trig := some (c, i) } }) ∧
      (g.complete = false ∨ g.doneEn = true ∧ past c → exec (.triggerComplete c i) s = .next s) ∧
      (g.complete = true → g.doneEn = false ∨ ¬ past c → ∃ t, exec (.triggerComplete c i) s = .next t ∧
        tget (getCore t c).trig i = none ∧
        (g.doneCtr < 16 → ∀ q j, ctrOf t q j =
          if g.doneEn = true ∧ q = c ∧ j = g.doneCtr then ctrOf s q j + 1 else ctrOf s q j))) ∧
    (∀ task op slot q dst m sl k, residence s task = some (c, slot) → slotAt s c slot = some sl → getTask s task = some k →
      findOp s task op = some m → opReady s task m = true → m.kind = .arm (.loc c q) dst → (lmRead s c q 64).2 = false →
      let free (r : SlotSt) : SlotSt := { r with
        inflight := r.inflight.filter fun e => e.id ≠ m.id
        ops := r.ops.filter fun e => e.id ≠ m.id
        hold := if r.hold = .op m.id then .none else r.hold }
      let bytes := rdBytes (getCore s c).lmem q 64
      (trigOf bytes k.asid = none → ∃ u, exec (.memoryOpPerform task op) s =
        .next (setSlot s c slot { free (sl.setP dst 0xFFFFFFFFFFFFFFFE) with undo := u })) ∧
      (∀ t, trigOf bytes k.asid = some t → (∀ j, j < 32 → (tget (getCore s c).trig j).isSome) →
        ∃ u, exec (.memoryOpPerform task op) s =
          .next (setSlot s c slot { free (sl.setP dst 0xFFFFFFFFFFFFFFFF) with undo := u })) ∧
      (∀ t j, trigOf bytes k.asid = some t → j < 32 → tget (getCore s c).trig j = none →
        (∀ b, b < j → (tget (getCore s c).trig b).isSome) →
        ∃ u at_, (past c → at_ = s.now + 1) ∧ (¬ past c → at_ = s.now) ∧
          exec (.memoryOpPerform task op) s = .next (setSlot (modCore s c fun m => { m with
          trig := tset m.trig j { t with ready := if t.thresh ≤ ctrOf s c t.ctr then some at_ else none } })
          c slot { free (sl.setP dst (BitVec.ofNat 64 j)) with undo := u })))

/-- VOTE, TTSEL and the network (R232, R233, R374): the greatest vote counts; the selection map; an acknowledged message's
increment; an arriving message's bytes and increment. -/
def Obligations.VotesAndNetwork : Prop :=
  ∀ (s : State) (h : Hdr) (a : XReg) (id : Nat) (n : NetOut) (m : NetMsg) (u : State),
    let inc (x n asid : Nat) (t : State) : State :=
      { t with seq := t.seq + 1, cmsgs := tset t.cmsgs t.seq { coord := x, ctr := n, add := 1, asid := some asid } }
    s.Does h (.vote h a) (fun _ _ _ => True) (fun sl k g => setTask g sl.task { k with
      vote := Nat.max k.vote ((sl.x a.val).extractLsb' 0 3).toNat }) ∧
    s.Does h (.ttsel h a) (fun _ _ _ => True) (fun sl _ g => modCore g s.core fun k => { k with
      exch := { k.exch with map := (sl.x a.val).extractLsb' 0 24 } }) ∧
    (tget s.nets id = some n → exec (.nsendAck id) s = .next (
      let t := { s with nets := tdel s.nets id }
      if n.den then inc n.dcoord n.dctr n.asid t else t)) ∧
    (m.redop = 0 → devWrite s m.asid m.raddr.toNat m.data = .ok u → exec (.nsendArrival m) s = .next (
      if m.ren then inc m.rcoord m.rctr m.asid u else u))

/-- CPY, CPYI, GATHER, SCATTER, HALO, CPYQ, EXCH and MCMD at issue (R200, R205, R209 to R215, R228, R253): the traps; then the command
takes the task's next sequence number, XFERID.last its handle, and nothing else changes; it is ordered after what its after-mask
names, and after the KSENDTs on whose predicates it depends (R159). An EXCH that nothing is ordered before arrives at once. The descriptor index of a handle is the model's choice (log 8). -/
def Obligations.EngineCommands : Prop :=
  ∀ (s : State) (h : Hdr) (o : Ord) (sz : Size) (ix sc : Bool) (rtn dirs : BitVec 4) (d a b : XReg) (vb : VReg)
    (off : BitVec 32) (sl : SlotSt) (k : TaskSt),
    let base : Word := sl.x a.val + off.signExtend 64
    let high (v : Word) : Prop := 2 ^ 56 ≤ v.toNat
    let local_ (v : Word) (n : Nat) : Prop := 0x00FFFFFFFFFF0000 ≤ v.toNat ∧ v.toNat + n ≤ 2 ^ 56
    let traps (i : Instr) (t : Trap) : Prop :=
      exec i s = .next (raiseTrap (tried s h) s.core s.slot { t with word := wordOf i })
    let command (i : Instr) (eng : Nat) (kind : CmdKind) (f : State → Nat → Cmd → State) : Prop :=
      let seq := if 4095 ≤ k.seq then 1 else k.seq + 1
      ∃ m : Cmd, exec i s = .next (f (setTask { s.after h { sl.started h i s.seq with xlast := BitVec.ofNat 32 m.handle }
          with cmds := tset s.cmds s.seq m } sl.task { k with seq }) s.seq m) ∧
        m.engine = eng ∧ m.kind = kind ∧ m.core = s.core ∧ m.task = some sl.task ∧ m.asid = k.asid ∧
        m.stream = o.stream.val ∧ m.state = .issued ∧ m.offset = 0 ∧ m.arrived = false ∧
        m.handle / 2 ^ 24 = eng ∧ m.handle % 4096 = seq ∧ (112 ≤ eng → m.handle / 4096 % 4096 = 0) ∧
        (k.place = .resident s.core s.slot → ∀ p ∈ sl.ops, o.after.getLsbD p.stream = true → p.id ∈ m.deps) ∧
        ∀ c ∈ s.cmds, c.2.task = some sl.task → c.2.state.isDone = false → (o.after.getLsbD c.2.stream = true ∨
          k.place = .resident s.core s.slot ∧ (c.1 ∈ (sl.started h i s.seq).fed ∨ c.1 ∈ (sl.started h i s.seq).turned)) →
          c.1 ∈ m.deps
    let plain (t : State) (_ : Nat) (_ : Cmd) : State := t
    let copy (i : Instr) (intr : Bool) : Prop := s.Runs h i sl k →
      let pr := sl.x b.val
      (pr.toNat % 64 ≠ 0 → traps i { cause := .align, addr := pr }) ∧
      (pr.toNat % 64 = 0 → high pr → traps i { cause := .address, addr := pr }) ∧
      (pr.toNat % 64 = 0 → ¬ high pr → high (sl.x d.val) → traps i { cause := .address, addr := sl.x d.val }) ∧
      (pr.toNat % 64 = 0 → ¬ high pr → ¬ high (sl.x d.val) → high base → traps i { cause := .address, addr := base }) ∧
      (pr.toNat % 64 = 0 → ¬ high pr → ¬ high (sl.x d.val) → ¬ high base →
        command i (engineFor s s.core base.toNat) (.cpy (sl.x d.val) base pr rtn.toNat intr) plain)
    let lanes (i : Instr) (near : Bool) : Prop := s.Runs h i sl k →
      let w := if ix then 32 else 16
      let e := sz.bytes
      let on := (List.range (256 / w)).filter fun j => (sl.mask h).getLsbD (w * j / 32)
      let pair (j : Nat) : Word × Word :=
        let far := base + BitVec.ofNat 64 ((laneOf w (sl.v vb.val) j).toNat * if sc then e else 1)
        let here := sl.x d.val + BitVec.ofNat 64 (e * j)
        if near then (far, here) else (here, far)
      (high (sl.x d.val) → traps i { cause := .address, addr := sl.x d.val }) ∧
      (¬ high (sl.x d.val) → high base → traps i { cause := .address, addr := base }) ∧
      (¬ high (sl.x d.val) → ¬ high base → command i (engineFor s s.core base.toNat) (.lanes e (on.map pair)) plain)
    let w := (sl.x b.val).extractLsb' 0 16
    let p := (sl.x b.val).extractLsb' 16 16
    let r := (sl.x b.val).extractLsb' 32 12
    let hh := (sl.x b.val).extractLsb' 44 8
    let hc := (sl.x b.val).extractLsb' 52 8
    let shape := 1 ≤ w.toNat ∧ 1 ≤ r.toNat ∧ hh.toNat ≤ r.toNat ∧ hc.toNat ≤ w.toNat ∧ w.toNat + 2 * hc.toNat ≤ p.toNat
    let tile := (r.toNat + 2 * hh.toNat) * p.toNat
    copy (.cpy h o rtn d a b off) false ∧ copy (.cpyi h o rtn d a b off) true ∧
    lanes (.gather h o sz ix sc d a vb off) true ∧ lanes (.scatter h o sz ix sc d a vb off) false ∧
    (s.Runs h (.halo h o dirs a b off) sl k →
      (¬ shape → traps (.halo h o dirs a b off) { cause := .illegal, detail := 8 }) ∧
      (shape → ¬ local_ base tile → traps (.halo h o dirs a b off) { cause := .window, addr := base }) ∧
      (shape → local_ base tile →
        command (.halo h o dirs a b off) (dieEngine s.core) (.halo dirs.toNat base (sl.x b.val)) plain)) ∧
    (s.Runs h (.cpyq h o d b) sl k → exec (.cpyq h o d b) s =
      .next (pushOp (s.begun h (.cpyq h o d b) sl) s.seq o [] (.cpyq ((sl.x b.val).setWidth 32).toNat (sl.px d.val)))) ∧
    (s.Runs h (.mcmd h o a off) sl k →
      (base.toNat % 64 ≠ 0 → traps (.mcmd h o a off) { cause := .align, addr := base }) ∧
      (base.toNat % 64 = 0 → high base → traps (.mcmd h o a off) { cause := .address, addr := base }) ∧
      (base.toNat % 64 = 0 → ¬ high base → command (.mcmd h o a off) 113 (.mcmd base.toNat) plain)) ∧
    (s.Runs h (.exch h o d a off) sl k →
      (base.toNat % 32 ≠ 0 → traps (.exch h o d a off) { cause := .align, addr := base }) ∧
      (base.toNat % 32 = 0 → high base → traps (.exch h o d a off) { cause := .address, addr := base }) ∧
      (base.toNat % 32 = 0 → ¬ high base → ¬ local_ base 32 → traps (.exch h o d a off) { cause := .window, addr := base }) ∧
      (base.toNat % 32 = 0 → local_ base 32 →
        command (.exch h o d a off) 112 (.exch (base.toNat - 0x00FFFFFFFFFF0000) (sl.px d.val)) fun t id m =>
          if m.deps = [] then exchArrive t k.launch id m else t))

/-- Kicks, chunks, completions and descriptors (R198, R201 to R206, R211, R213, R214): what STREAMER_KICK,
STREAMER_CHUNK, COMPLETION_RELEASE and DESCRIPTOR_FREE_TIMEOUT do. A command keeps its place in the table once it has one. A GATHER, a SCATTER,
or a copy by routine 0 of one chunk between places in local memory: every element read first, then written in order.

CPYQ performed (R201, R215): the status word of the task's command of that handle, RETIRED where there is none; a final
status that is read frees the descriptor. (undo is the model's own: log 32.)

The order in which routine 0 visits the elements of a pattern (R203): dimension 0 varies fastest, and each index adds its
signed strides. -/
def Obligations.StreamerEvents : Prop :=
  (∀ (s : State) (id e task hnd : Nat) (m : Cmd), s.memOk = true → tget s.cmds id = some m →
    let W := 0x00FFFFFFFFFF0000
    let table := (s.cmds.filter fun x => x.2.engine = m.engine && x.2.arr ≠ 0).length
    let ready := m.state = .issued ∧ m.kind.streams = true ∧ cmdReady s m = true ∧ (m.arr ≠ 0 ∨ table < 4096)
    let mem := (getCore s m.core).lmem
    -- elements of n bytes from and to places in the local window, none of them poisoned
    let fits (n : Nat) (mv : Word × Word) : Prop :=
      W ≤ mv.1.toNat ∧ mv.1.toNat + n ≤ 2 ^ 56 ∧ W ≤ mv.2.toNat ∧ mv.2.toNat + n ≤ 2 ^ 56 ∧
      mv.1.toNat % Nat.min n 32 = 0 ∧ mv.2.toNat % Nat.min n 32 = 0 ∧ (lmRead s m.core (mv.1.toNat - W) n).2 = false
    let moved (n : Nat) (mvs : List (Word × Word)) (t : State) : Prop :=
      (∀ b, rd (getCore t m.core).lmem b =
        match mvs.reverse.find? fun mv => mv.2.toNat ≤ W + b && W + b < mv.2.toNat + n with
        | some mv => rd mem (mv.1.toNat - W + (W + b - mv.2.toNat))
        | none => rd mem b) ∧
      (∀ c, c ≠ m.core → (getCore t c).lmem = (getCore s c).lmem) ∧ t.mem = s.mem
    (ready → exec (.streamerKick id) s =
      .next { s with seq := s.seq + 1, cmds := tset s.cmds id { m with state := .queued, arr := s.seq + 1 } }) ∧
    (¬ ready → exec (.streamerKick id) s = .next s) ∧
    (nextCmd s e = none → exec (.streamerChunk e) s = .next s) ∧
    (∀ n mvs, nextCmd s e = some (id, m) → m.kind = .lanes n mvs → m.buf = [] → 0 < n → (∀ mv ∈ mvs, fits n mv) →
      ∃ t, exec (.streamerChunk e) s = .next t ∧ moved n mvs t ∧
        tget t.cmds id = some { m with state := .releasing 3, offset := n * mvs.length, buf := [], idx := [] }) ∧
    (∀ dst src pr, nextCmd s e = some (id, m) → m.kind = .cpy dst src pr 0 false → m.buf = [] → m.offset = 0 →
      m.pat = none → pr.toNat % 64 = 0 → W ≤ pr.toNat → pr.toNat < 2 ^ 56 → (lmRead s m.core (pr.toNat - W) 64).2 = false →
      let p := Pat.ofBytes (rdBytes mem (pr.toNat - W) 64)
      p.ok s = true → p.ind = false → p.dc = false → p.total * p.esz ≤ 4096 →
      let mvs := (List.range p.total).map fun q =>
        (BitVec.ofInt 64 (src.toNat + (patOffs p.dims q).1), BitVec.ofInt 64 (dst.toNat + (patOffs p.dims q).2))
      (∀ mv ∈ mvs, fits p.esz mv) → ∃ t, exec (.streamerChunk e) s = .next t ∧ moved p.esz mvs t ∧
        (tget t.cmds id).map (fun q => (q.state, q.offset)) = some (.releasing 3, p.total * p.esz)) ∧
    (∀ st t, m.state = .releasing st → m.task = some t → ∃ u, exec (.completionRelease id) s = .next u ∧
      tget u.cmds id = some { m with state := .done st s.now } ∧
      (uncached m.core = false → ∀ l ∈ (getCluster u (clusterOf s m.core)).near, l.swm = true ∨ l.asid ≠ m.asid) ∧
      (∀ k, getTask s t = some k →
        (getTask u t).map (fun q => q.ints) = some (match m.xid with
          | some x => k.ints ++ [x]
          | none => k.ints) ∧
        (∀ dir dst c i sl, m.kind = .exch dir dst → k.place = .resident c i → slotAt s c i = some sl →
          (slotAt u c i).map (fun q => q.xs) = some (sl.setP dst (BitVec.ofNat 64 m.sel)).xs))) ∧
    (∀ st i, m.state = .releasing st → m.task = none → m.trig = some i → ∃ u, exec (.completionRelease id) s = .next u ∧
      tget u.cmds id = none ∧
      ∀ g, tget (getCore s m.core).trig i = some g → tget (getCore u m.core).trig i = some { g with complete := true }) ∧
    ((∀ st, m.state ≠ .releasing st) → exec (.completionRelease id) s = .next s) ∧
    ((s.cmds.find? fun x => x.2.task = some task && x.2.handle = hnd) = some (id, m) →
      exec (.descriptorFreeTimeout task hnd) s = .next (match m.state with
        | .done _ t0 => if t0 + 4096 ≤ s.now then { s with cmds := tdel s.cmds id } else s
        | _ => s))) ∧
  (∀ (s : State) (task op c i hnd dst : Nat) (m : MemOp) (sl : SlotSt),
    residence s task = some (c, i) → slotAt s c i = some sl → findOp s task op = some m → opReady s task m = true →
    m.kind = .cpyq hnd dst →
    let mine := s.cmds.find? fun e => e.2.task = some task && e.2.handle = hnd
    let gets (t : State) (v : Nat) (u : List Undo) : State := setSlot t c i { sl.setP dst (BitVec.ofNat 64 v) with
      inflight := sl.inflight.filter fun e => e.id ≠ m.id
      ops := sl.ops.filter fun e => e.id ≠ m.id
      hold := if sl.hold = .op m.id then .none else sl.hold
      undo := u }
    let code : CmdState → Nat
      | .issued => 1
      | .queued => 1
      | .running => 2
      | .waiting _ => 2
      | .releasing _ => 2
      | .saved => 4
      | .done st _ => st % 16
    (mine = none → ∃ u, exec (.memoryOpPerform task op) s = .next (gets s 0 u)) ∧
    (∀ id q, mine = some (id, q) →
      let t := if q.state.isDone then { s with cmds := tdel s.cmds id } else s
      ∃ u, exec (.memoryOpPerform task op) s = .next (gets t (2 ^ 60 * code q.state + q.offset % 2 ^ 48) u))) ∧
  (∀ (c i r : Nat) (ss ds : Int) (dims : List (Nat × Int × Int)), i < c →
    patOffs ((c, ss, ds) :: dims) (i + c * r) = (ss * i + (patOffs dims r).1, ds * i + (patOffs dims r).2))

/-- One direction of a HALO (R214): the neighbour, the bytes, their places, the counter; nothing else of any local memory. A
last direction that is skipped completes the command when no increment of it is outstanding. That a chunk is one direction, and
that they come in the order N, E, S, W, are the model's choices (log 38). -/
def Obligations.HaloDirection : Prop :=
  ∀ (s : State) (e id dirs k dd : Nat) (m : Cmd) (ea x : Word),
    s.memOk = true → nextCmd s e = some (id, m) → tget s.cmds id = some m → m.kind = .halo dirs ea x → m.sel ≤ dd → dd < 4 →
    dirs / 2 ^ dd % 2 = 1 → (∀ j, m.sel ≤ j → j < dd → dirs / 2 ^ j % 2 = 0) → isHart m.core = false → siteOk m.core = true →
    let W := 0x00FFFFFFFFFF0000
    let die := m.core / 4096
    let row := m.core / 64 % 64
    let col := m.core % 64
    let next : Option Nat := match dd with
      | 0 => if row = 0 then none else some (4096 * die + 64 * (row - 1) + col)
      | 1 => if col = 63 then none else some (4096 * die + 64 * row + (col + 1))
      | 2 => if row = 63 then none else some (4096 * die + 64 * (row + 1) + col)
      | _ => if col = 0 then none else some (4096 * die + 64 * row + (col - 1))
    let w := (x.extractLsb' 0 16).toNat
    let p := (x.extractLsb' 16 16).toNat
    let r := (x.extractLsb' 32 12).toNat
    let hh := (x.extractLsb' 44 8).toNat
    let hc := (x.extractLsb' 52 8).toNat
    -- rows, their length, and the places of row i in the tile here and there
    let rows := if dd % 2 = 0 then hh else r
    let len := if dd % 2 = 0 then w else hc
    let from_ (i : Nat) : Nat := ea.toNat - W + match dd with
      | 0 => (hh + i) * p + hc
      | 1 => (hh + i) * p + w
      | 2 => (r + i) * p + hc
      | _ => (hh + i) * p + hc
    let to_ (i : Nat) : Nat := ea.toNat - W + match dd with
      | 0 => (r + hh + i) * p + hc
      | 1 => (hh + i) * p
      | 2 => i * p + hc
      | _ => (hh + i) * p + hc + w
    hh ≤ r → hc ≤ w → w + 2 * hc ≤ p →
    ((next = none ∨ ∃ j, next = some j ∧ coreOk s j = false) → ∃ t, exec (.streamerChunk e) s = .next t ∧
      tget t.cmds id = some (if dd = 3 ∧ ∀ x ∈ s.cmsgs, x.2.halo ≠ some id then
          { m with sel := 4, state := .releasing 3, buf := [], idx := [] } else { m with sel := dd + 1, state := .running }) ∧
      t.cores = s.cores ∧ t.mem = s.mem ∧ t.cmsgs = s.cmsgs) ∧
    (next = some k → coreOk s k = true → (getCore s k).owner = some m.asid →
      (∀ i, i < rows → (lmRead s m.core (from_ i) len).2 = false) → ∃ t, exec (.streamerChunk e) s = .next t ∧
        tget t.cmds id = some { m with sel := dd + 1, offset := m.offset + rows * len, state := .running } ∧
        tget t.cmsgs s.seq =
          some { coord := k, ctr := 12 + (dd + 2) % 4, add := 1, asid := some m.asid, halo := some id } ∧
        (∀ i j, i < rows → j < len → rd (getCore t k).lmem (to_ i + j) = rd (getCore s m.core).lmem (from_ i + j)) ∧
        (∀ b, (∀ i, i < rows → b < to_ i ∨ to_ i + len ≤ b) → rd (getCore t k).lmem b = rd (getCore s k).lmem b) ∧
        (∀ c, c ≠ k → (getCore t c).lmem = (getCore s c).lmem) ∧ t.mem = s.mem)

/-- Exchange phases (R228 to R232, R372): an arrival takes the task's vote, and the first of a core its map; the release, over
the arrived tasks alone (log 40), fixes the vote and the maps of the phase; TIMETABLE_START starts the timetables at Trel only,
and completes the EXCHs of a die whose topology has changed; a table that the directory does not name is over at Trel, with the
fault; TIMETABLE_END completes every EXCH of the core whose timetable has ended with the vote and the fault bit of its phase.
What the log entries 40 (among it, that the vote is read at arrival) and 20 (when the entries are read) settle is the model's
choice. -/
def Obligations.ExchangePhases : Prop :=
  ∀ (s : State) (n c : Nat) (l : LaunchSt), tget s.launches n = some l →
    (s.tasks.map Prod.fst).Pairwise (· < ·) → (s.cmds.map Prod.fst).Pairwise (· < ·) →
    let arrived : State := (exchCmds s n).foldl (fun t e =>
      if e.2.arrived = false ∧ e.2.state = .issued ∧ cmdReady t e.2 = true then exchArrive t n e.1 e.2 else t) s
    let here := arrivedAt arrived n
    let full := here ≠ [] ∧ ∀ t ∈ s.tasks, t.2.launch = n → t.2.place.isEnded = true ∨ ∃ a ∈ here, a.2.task = some t.1
    let vote := (here.map fun e => e.2.vote).foldl Nat.max 0
    let taken (q : Nat) : BitVec 24 := ((here.filter fun e => e.2.core = q).findSome? fun e => e.2.taken).getD 0xFAC688
    let gone := releasedIn s n
    let table (q : Nat) : Option Nat := match leader s gone q with
      | some m => (match m.kind, m.phase with
        | .exch dir _, some p =>
          let w := rdNat (getCore s q).lmem (dir + 4 * (p.map.toNat / 2 ^ (3 * p.vote) % 8)) 4
          if w / 2 ^ 16 = 0 ∧ w % 8 = 0 then some w else none
        | _, _ => none)
      | none => none
    (∀ e ∈ s.cmds, ∀ t k, e.2.task = some t → getTask s t = some k → (∀ a ∈ arrivedAt s n, a.2.task ≠ some t) →
      tget (exchArrive s n e.1 e.2).cmds e.1 = some { e.2 with
        arrived := true, vote := k.vote
        taken := if ∀ a ∈ arrivedAt s n, a.2.core ≠ e.2.core then some (getCore s e.2.core).exch.map else none }) ∧
    ((l.trel.isSome ∨ ¬ full) → exec (.exchPhaseRelease n) s = .next arrived) ∧
    (l.trel = none → full → ∃ t, exec (.exchPhaseRelease n) s = .next t ∧
      tget t.launches n = some { l with trel := some (s.now + 1024), combined := vote, phase := l.phase + 1 } ∧
      t.cores = arrived.cores ∧ t.tasks = arrived.tasks ∧ t.mem = s.mem ∧
      ∀ e ∈ here, tget t.cmds e.1 = some { e.2 with state := .queued, phase := some { vote, map := taken e.2.core } }) ∧
    ((∀ trel, l.trel = some trel → s.now < trel) → exec (.timetableStart n) s = .next s) ∧
    (∀ trel, l.trel = some trel → trel ≤ s.now → ∃ t, exec (.timetableStart n) s = .next t ∧
      tget t.launches n = some { l with trel := none } ∧ t.tasks = s.tasks ∧ t.cores = s.cores ∧
      ∀ e ∈ gone,
        (topoChanged s l e.2.core = true → tget t.cmds e.1 = some { e.2 with
          state := .releasing 3, sel := e.2.combined % 8 + 2 ^ 63 }) ∧
        (topoChanged s l e.2.core = false →
          tget t.cmds e.1 = some { e.2 with
            state := .running
            phase := if (table e.2.core).isSome then e.2.phase
              else e.2.phase.map fun p => { p with fault := true, endAt := some trel } } ∧
          ∀ base, table e.2.core = some base →
            { core := e.2.core, site := physSite s e.2.core, launch := n, trel, tag := 16 * (l.phase % 16) + n % 16, base }
              ∈ t.engines)) ∧
    (let mine (m : Cmd) : Prop := m.kind.isExch = true ∧ m.core = c ∧ m.state = .running
     let due (m : Cmd) : Prop := ∀ p, m.phase = some p → ∃ x, p.endAt = some x ∧ x ≤ s.now
     let fault (m : Cmd) : Prop := ∃ p, m.phase = some p ∧ p.fault = true
     ∃ t, exec (.timetableEnd c) s = .next t ∧ t.mem = s.mem ∧ t.tasks = s.tasks ∧ t.cores = s.cores ∧ t.engines = s.engines ∧
       ∀ e ∈ s.cmds,
         (mine e.2 → due e.2 → fault e.2 → tget t.cmds e.1 = some { e.2 with
           state := .releasing 3, sel := e.2.combined % 8 + 2 ^ 63 }) ∧
         (mine e.2 → due e.2 → ¬ fault e.2 → tget t.cmds e.1 = some { e.2 with
           state := .releasing 3, sel := e.2.combined % 8 }) ∧
         (¬ (mine e.2 ∧ due e.2) → tget t.cmds e.1 = some e.2))

/-- Class 0xC at issue (R237, R239, R242, R245 to R251): the traps, and the entry that joins the tail of the core's queue,
with a direct operation for MLDA, MLDB, MDRAIN and an MTBL that reads memory, whose causes include neither WINDOW nor ALIAS
(R256; log 51); its poison is judged at issue where nothing is ordered before it, which is the model's reading (log 32). -/
def Obligations.MatrixIssue : Prop :=
  ∀ (s : State) (h : Hdr) (o : Ord) (ta tb : MTy) (onB z : Bool) (t : AccReg) (f : DFmt) (rm : Rnd) (rt : BitVec 2)
    (d a b : XReg) (off : BitVec 32) (sl : SlotSt) (k : TaskSt),
    let W := 0x00FFFFFFFFFF0000
    let entry (kind : MKind) (op : Option Nat) : MEntry := { id := s.seq, kind, task := some sl.task, op, asid := k.asid }
    let queue (u : State) (e : MEntry) : State := modCore u s.core fun c => { c with mq := c.mq ++ [e] }
    let traps (i : Instr) (t : Trap) : Prop :=
      exec i s = .next (raiseTrap (tried s h) s.core s.slot { t with word := wordOf i })
    let joins (i : Instr) (kind : MKind) : Prop :=
      s.Runs h i sl k → exec i s = .next (queue (s.begun h i sl) (entry kind none))
    let ea := sl.x a.val + off.signExtend 64
    let tile (i : Instr) (e : Nat) (acc : Acc4) (kind : Nat → Nat → MKind) : Prop := s.Runs h i sl k →
      let pitch := if sl.x b.val = 0 then 16 * e else (sl.x b.val).toNat
      let aligned := ea.toNat % e = 0 ∧ pitch % e = 0
      let inside := ∀ r, r < 16 → W ≤ ea.toNat + r * pitch ∧ ea.toNat + r * pitch + 16 * e ≤ 2 ^ 56
      (¬ aligned → traps i { cause := .align, detail := acc.code, addr := ea }) ∧
      (aligned → 2 ^ 56 ≤ ea.toNat → traps i { cause := .address, detail := acc.code, addr := ea }) ∧
      (aligned → ea.toNat < 2 ^ 56 → ¬ inside → traps i { cause := .window, detail := acc.code, addr := ea }) ∧
      (aligned → inside → exec i s = .next (queue
        (pushOp (s.begun h i sl) s.seq o ((List.range 16).map fun r => (ea.toNat + r * pitch, 16 * e)) (.matrix s.seq))
        (entry (kind (ea.toNat - W) pitch) (some s.seq))))
    let core := getCore s s.core
    let c1 := ((sl.x a.val).extractLsb' 0 18).toNat
    let c2 := ((sl.x b.val).extractLsb' 0 18).toNat
    let named (c : Nat) : Prop := c / 4096 < 40 ∧ coreOk s c = true
    joins (.mfmt h ta tb) (.mfmt ta tb) ∧ joins (.mma h t) (.mma t.val) ∧ joins (.mmas h t) (.mmas t.val) ∧
    joins (.mskipOff h) .mskipOff ∧ joins (.mrot h) .mrot ∧ joins (.mzero h t) (.mzero t.val) ∧
    joins (.mcap h d rt) (.mcap rt.toNat (sl.px d.val)) ∧ joins (.mcapRev h d) (.mcapRev (sl.px d.val)) ∧
    joins (.mstat h d t) (.mstat t.val (sl.px d.val)) ∧ joins (.mstatU h d) (.mstatU (sl.px d.val)) ∧
    joins (.mtbl h o .ta onB a off) (.mtblCopy core.tblA onB) ∧ joins (.mtbl h o .tb onB a off) (.mtblCopy core.tblB onB) ∧
    (∀ u ls, s.Runs h (.mtbl h o .mem onB a off) sl k →
      reachBlocks (s.begun h (.mtbl h o .mem onB a off) sl) ea 16 = .ok (u, ls) →
      let v := if o.sync = .acq ∨ o.sync = .acqrel then acquireFlash u u.core o.scope else u
      let bad := if opDeps u sl.task o [(ea.toNat, 1024)] = [] then mtblPoison v s.core none ls else none
      (bad = none → exec (.mtbl h o .mem onB a off) s = .next (queue
        (pushOp u s.seq o [(ea.toNat, 1024)] (.matrix s.seq)) (entry (.mtbl ls onB) (some s.seq)))) ∧
      (∀ x, bad = some x → traps (.mtbl h o .mem onB a off) { cause := .poison, addr := BitVec.ofNat 64 x })) ∧
    (s.Runs h (.mtbl h o .mem onB a off) sl k →
      (ea.toNat % 64 ≠ 0 → traps (.mtbl h o .mem onB a off) { cause := .align, addr := ea }) ∧
      (ea.toNat % 64 = 0 → 2 ^ 56 ≤ ea.toNat → traps (.mtbl h o .mem onB a off) { cause := .address, addr := ea })) ∧
    (W ≤ ea.toNat → ea.toNat + 1024 ≤ 2 ^ 56 → ea.toNat % 64 = 0 → s.Runs h (.mtbl h o .mem onB a off) sl k →
      exec (.mtbl h o .mem onB a off) s = .next (queue
        (pushOp (s.begun h (.mtbl h o .mem onB a off) sl) s.seq o [(ea.toNat, 1024)] (.matrix s.seq))
        (entry (.mtbl ((List.range 16).map fun i => .loc s.core (ea.toNat - W + 64 * i)) onB) (some s.seq)))) ∧
    (s.Runs h (.mskip h a) sl k → ¬ (W ≤ (sl.x a.val).toNat ∧ (sl.x a.val).toNat < 2 ^ 56) →
      traps (.mskip h a) { cause := .window, addr := sl.x a.val }) ∧
    (W ≤ (sl.x a.val).toNat → (sl.x a.val).toNat < 2 ^ 56 → joins (.mskip h a) (.mskip ((sl.x a.val).toNat - W))) ∧
    (s.Runs h (.mring h a b) sl k →
      (¬ named c1 → traps (.mring h a b) { cause := .address, addr := BitVec.ofNat 64 c1 }) ∧
      (named c1 → ¬ named c2 → traps (.mring h a b) { cause := .address, addr := BitVec.ofNat 64 c2 }) ∧
      (named c1 → named c2 → exec (.mring h a b) s = .next (setHold
        (queue (s.begun h (.mring h a b) sl) (entry (.mring (clusterOf s c1) (clusterOf s c2)) none)) s.core s.slot (.op s.seq)))) ∧
    tile (.mlda h o a b off) (MTy.esize (fmtAhead core).1) .read (fun x p => .mlda s.core x p) ∧
    tile (.mldb h o a b off) (MTy.esize (fmtAhead core).2) .read (fun x p => .mldb s.core x p) ∧
    tile (.mdrain h o f rm z t a b off) (DFmt.esize f) .write (fun x p => .mdrain f rm z t.val s.core x p)

/-- One step of the matrix unit into a tile, and the elements of a drain (R120, R240, R244): a mode mismatch sets mm alone;
an integer step is exact and clamps at 40 bits; a float step adds the exact sum of the sixteen products and rounds once; an
infinite element stays; the taint follows the flags. A drain, in either mode and every format: the exact value rounded under rnd
into bf16 or f32, its infinities kept; for i32 rounded under rnd and held within 32 bits, which an infinity passes; f40 as it is. A
zero drains without a sign: every F40 zero is +0 (R115). The rounding is the model's, of which FloatArithmetic says what it is. -/
def Obligations.MatrixSteps : Prop :=
  ∀ (int : Bool) (a b : MLatch) (t : Acc) (rm : Rnd) (i j : Nat), i < 16 → j < 16 →
    let same := int = t.int ∧ a.int = t.int ∧ b.int = t.int
    let r := matStep int a b t
    let old := t.vals.getD (16 * i + j) 0
    let new := r.vals.getD (16 * i + j) 0
    let at_ (l : MLatch) (p q : Nat) : BitVec 21 := l.vals.getD (16 * p + q) 0
    let sum (f : BitVec 21 → Int) (p q : Nat) : Int := ((List.range 16).map fun k => f (at_ a p k) * f (at_ b k q)).sum
    let exact (p q : Nat) : Int := (t.vals.getD (16 * p + q) 0).toInt + sum BitVec.toInt p q
    let z := f40Int old.toNat + sum (fun x => e8Int x.toNat) i j
    (¬ same → r = { t with mm := true }) ∧
    (same → r.int = t.int ∧ r.nan = t.nan ∧ r.mm = t.mm ∧
      r.taint = (if b.flags = 0 then t.taint ||| a.flags else 0xFFFF) ∧
      (t.int = true → new.toInt = max (-2 ^ 39) (min (exact i j) (2 ^ 39 - 1)) ∧ r.inf = t.inf ∧
        (r.sat = true ↔ t.sat = true ∨ ∃ p q, p < 16 ∧ q < 16 ∧ (exact p q < -2 ^ 39 ∨ 2 ^ 39 - 1 < exact p q))) ∧
      (t.int = false → r.sat = t.sat ∧
        (f40Inf old.toNat = true → new = old ∧ r.inf = true) ∧
        (f40Inf old.toNat = false → z = 0 → new = 0) ∧
        (f40Inf old.toNat = false → z ≠ 0 →
          let y := (fmtF40.round .rne ⟨decide (z < 0), z.natAbs, -276, false⟩).1
          new = BitVec.ofNat 40 (if y % 2 ^ 39 = 0 then 0 else y) ∧ (f40Inf new.toNat = true → r.inf = true)))) ∧
    -- the drain of an integer tile's element
    (let rounds (f : Fmt) : Nat := if old = 0 then 0 else (f.round rm ⟨decide (old.toInt < 0), old.toInt.natAbs, 0, false⟩).1
     drainElem .bf16 rm true old = rounds fmtBF16 ∧ drainElem .f32 rm true old = rounds fmtF32 ∧
     drainElem .i32 rm true old = (BitVec.ofInt 32 (max (-2 ^ 31) (min old.toInt (2 ^ 31 - 1)))).toNat ∧
     drainElem .f40 rm true old = (old.signExtend 64).toNat) ∧
    -- the drain of a float tile's element: a zero, an infinity, or sign, significand and exponent of the value
    (let neg := old.getLsbD 39
     let ex := (old.extractLsb' 31 8).toNat
     let sig := 2 ^ 31 + (old.extractLsb' 0 31).toNat
     let rounds (f : Fmt) : Nat := (f.round rm ⟨neg, sig, (ex : Int) - 158, false⟩).1
     drainElem .f40 rm false old = old.toNat ∧
     (ex = 0 → drainElem .bf16 rm false old = 0 ∧ drainElem .f32 rm false old = 0 ∧ drainElem .i32 rm false old = 0) ∧
     (ex = 255 → sig = 2 ^ 31 → drainElem .bf16 rm false old = (if neg then 0xFF80 else 0x7F80) ∧
       drainElem .f32 rm false old = (if neg then 0xFF800000 else 0x7F800000) ∧
       drainElem .i32 rm false old = (if neg then 0x80000000 else 0x7FFFFFFF)) ∧
     (0 < ex → ex < 255 → drainElem .bf16 rm false old = rounds fmtBF16 ∧ drainElem .f32 rm false old = rounds fmtF32 ∧
       drainElem .i32 rm false old =
         (BitVec.ofInt 32 (toIntSat rm (-2 ^ 31) (2 ^ 31 - 1) (.fin neg sig ((ex : Int) - 158))).1).toNat))

/-- MATRIX_ENTRY_SERVICE (R237 to R243, R246 to R250): the unit serves its five requesters round-robin; what an entry at the
head of a core's queue does when it is served. A guest tile (2 for ag0, 3 for ag1) that another ASID wrote last is fresh to the
entry, and carries the entry's ASID from then on, as the B latch does (R236). The model's choices: the check of an MCAP as an open function of its drawn
arguments (log 6), what a poisoned byte reads as (log 21), undo (log 32). -/
def Obligations.MatrixService : Prop :=
  ∀ (s : State) (cl r c i tk : Nat) (e : MEntry) (sl : SlotSt),
    let unit := getUnit s cl
    let k := getCore s c
    let turn (d : Nat) : Option State := serveRequester (frontLook s cl) cl ((unit.rr + d) % 5)
    unit.failed = false → rotating s cl = none →
    ((∀ d, 1 ≤ d → d ≤ 5 → turn d = none) → exec (.matrixEntryService cl) s = .next (frontLook s cl)) ∧
    (∀ d t, 1 ≤ d → d ≤ 5 → (∀ x, 1 ≤ x → x < d → turn x = none) → turn d = some t →
      exec (.matrixEntryService cl) s = .next (modUnit t cl fun u => { u with rr := (unit.rr + d) % 5 })) ∧
    -- the head entry of core c, which is requester r and the first in turn
    (unit.front = [] → r < 4 → requesterCore s cl r = some c → clusterOf s c = cl → headReady s c = some e →
      (∀ d, 1 ≤ d → d ≤ 5 → (unit.rr + d) % 5 ≠ r → (∃ x, 1 ≤ x ∧ x < d ∧ (unit.rr + x) % 5 = r) ∨ turn d = none) →
      e.task = some tk → residence s tk = some (c, i) → slotAt s c i = some sl →
      let served (seq : Nat) (f : CoreSt → CoreSt) (g : MUnit → MUnit) (q : SlotSt) : Prop :=
        ∃ undo, exec (.matrixEntryService cl) s = .next (setSlot (modUnit (modCore { s with seq } c fun x =>
          { f x with mq := x.mq.filter fun y => y.id ≠ e.id }) cl fun u => { g u with rr := r }) c i { q with
            inflight := q.inflight.filter fun y => y.id ≠ e.id
            ops := q.ops.filter fun y => y.id ≠ e.id
            hold := if q.hold = .op e.id then .none else q.hold
            undo })
      let whole (u : MUnit) : MUnit := if u.latBAsid = some e.asid then u else { u with latB := {}, latBAsid := some e.asid }
      let clean (p n pitch : Nat) : Prop := ∀ x, x < 16 → ∀ y, y < n → k.lpoison.contains ((p + x * pitch + y) / 4) = false
      let loaded (l : MLatch) (ty : MTy) (tab : DecTable) (p pitch : Nat) (rows : Bool) : Prop :=
        l.int = k.mint ∧ ∀ x, x < 16 → ∀ y, y < 16 →
          let v (x y : Nat) := operand ty tab (rdNat k.lmem (p + x * pitch + y * MTy.esize ty) (MTy.esize ty))
          l.vals.getD (16 * x + y) 0 = (v x y).1 ∧
          (l.flags.getLsbD x = true ↔ ∃ n, n < 16 ∧ (if rows then v x n else v n x).2 = true)
      (∀ ta tb, e.kind = .mfmt ta tb → served s.seq (fun x => { x with fmtA := ta, fmtB := tb, mint := MTy.isInt ta }) id sl) ∧
      (∀ tab, e.kind = .mtblCopy tab false → served s.seq (fun x => { x with mTA := tab }) id sl) ∧
      (∀ tab, e.kind = .mtblCopy tab true → served s.seq (fun x => { x with mTB := tab }) id sl) ∧
      (∀ p q, e.kind = .mring p q → served s.seq id (fun u => { u with
        succ := some p, pred := some q, credit := true, bnext := none, ringAsid := some e.asid }) sl) ∧
      (∀ p, e.kind = .mskip p → served s.seq (fun x => { x with skOn := true, skPtr := BitVec.ofNat 16 p, skLeft := 0 }) id sl) ∧
      (e.kind = .mskipOff → served s.seq (fun x => { x with skOn := false }) id sl) ∧
      -- tile j as the entry finds it, the state with the tile changed, and a step into it
      let tile (j : Nat) : Acc := match j with
        | 0 => k.a0
        | 1 => k.a1
        | 2 => if unit.ag0Asid = some e.asid then unit.ag0 else {}
        | _ => if unit.ag1Asid = some e.asid then unit.ag1 else {}
      let own (j : Nat) (v : Acc) (x : CoreSt) : CoreSt := match j with
        | 0 => { x with a0 := v }
        | 1 => { x with a1 := v }
        | _ => x
      let guest (j : Nat) (v : Acc) (u : MUnit) : MUnit := match j with
        | 0 => u
        | 1 => u
        | 2 => { u with ag0 := v, ag0Asid := some e.asid }
        | _ => { u with ag1 := v, ag1Asid := some e.asid }
      let step (j : Nat) : Acc := matStep k.mint k.latA (whole unit).latB (tile j)
      let steps (seq j : Nat) (f : CoreSt → CoreSt) : Prop :=
        served seq (fun x => own j (step j) (f x)) (fun u => guest j (step j) (whole u)) sl
      (∀ j, j < 4 →
        (e.kind = .mzero j → served s.seq (own j { int := k.mint }) (guest j { int := k.mint }) sl) ∧
        (e.kind = .mma j → steps s.seq j id) ∧
        (e.kind = .mmas j →
          (k.skOn = false → steps s.seq j id) ∧
          (k.skOn = true → k.skLeft ≠ 0 → k.skZero = true →
            served (s.seq + 1) (fun x => { x with skLeft := x.skLeft - 1 }) id sl) ∧
          (k.skOn = true → k.skLeft ≠ 0 → k.skZero = false → steps (s.seq + 1) j fun x => { x with skLeft := x.skLeft - 1 }) ∧
          (k.skOn = true → k.skLeft = 0 → k.lpoison.contains (k.skPtr.toNat / 4) = false →
            let byte := rd k.lmem k.skPtr.toNat
            let skip (x : CoreSt) : CoreSt :=
              { x with skPtr := x.skPtr + 1, skLeft := byte &&& 0x7F, skZero := byte.getLsbD 7 }
            (byte.getLsbD 7 = true → served (s.seq + 1) skip id sl) ∧
            (byte.getLsbD 7 = false → steps (s.seq + 1) j skip))) ∧
        (∀ dst, e.kind = .mstat j dst → ∃ v : Word, served s.seq id (guest j (tile j)) (sl.setP dst v) ∧
          v.extractLsb' 48 16 = (tile j).taint ∧ v.extractLsb' 8 40 = 0 ∧ v.getLsbD 7 = (tile j).int ∧ v.extractLsb' 5 2 = 0 ∧
          v.getLsbD 4 = (tile j).mm ∧ v.getLsbD 3 = (tile j).nan ∧ v.getLsbD 2 = (tile j).inf ∧ v.getLsbD 1 = (tile j).sat ∧
          v.getLsbD 0 = false) ∧
        (∀ f rm z p pitch, e.kind = .mdrain f rm z j c p pitch → 16 * DFmt.esize f ≤ pitch → s.memOk = true →
          let new : Acc := { tile j with
            nan := (tile j).nan || (tile j).taint != 0
            vals := if z then [] else (tile j).vals
            taint := if z then 0 else (tile j).taint }
          ∃ t, exec (.matrixEntryService cl) s = .next t ∧ t.mem = s.mem ∧
            (let x := getCore t c
             x = own j new { x with a0 := k.a0, a1 := k.a1 }) ∧
            (let x := getUnit t cl
             x = guest j new { x with ag0 := unit.ag0, ag0Asid := unit.ag0Asid, ag1 := unit.ag1, ag1Asid := unit.ag1Asid }) ∧
            (∀ x y, x < 16 → y < 16 → rdNat (getCore t c).lmem (p + x * pitch + y * DFmt.esize f) (DFmt.esize f) =
              (if (tile j).taint.getLsbD x then (match f with
                | .bf16 => 0x7FC0
                | .f32 => 0x7FC00000
                | .i32 => 0x80000000
                | .f40 => 0x7FC0000000) else drainElem f rm (tile j).int ((tile j).vals.getD (16 * x + y) 0))) ∧
            (∀ b, (∀ x, x < 16 → b < p + x * pitch ∨ p + x * pitch + 16 * DFmt.esize f ≤ b) →
              rd (getCore t c).lmem b = rd k.lmem b) ∧
            ∀ q, q ≠ c → (getCore t q).lmem = (getCore s q).lmem)) ∧
      (∀ p pitch, e.kind = .mlda c p pitch → clean p (16 * MTy.esize k.fmtA) pitch →
        ∃ l, loaded l k.fmtA k.mTA p pitch true ∧ served (s.seq + 1) (fun x => { x with latA := l }) id sl) ∧
      (∀ p pitch, e.kind = .mldb c p pitch → clean p (16 * MTy.esize k.fmtB) pitch →
        ∃ l, loaded l k.fmtB k.mTB p pitch false ∧
          served (s.seq + 1) id (fun u => { u with latB := l, latBAsid := some e.asid }) sl) ∧
      (∀ dst, e.kind = .mcapRev dst →
        served s.seq id (fun u => { u with gen := u.gen + 1 }) (sl.setP dst ((unit.gen + 1).setWidth 64))) ∧
      (∀ rt dst, e.kind = .mcap rt dst → ∃ v : Word, served s.seq id id (sl.setP dst v) ∧
        (c < 2 ^ 18 → e.asid < 1024 → v.extractLsb' 58 6 = BitVec.ofNat 6 (c / 4096) ∧
          v.extractLsb' 48 10 = BitVec.ofNat 10 (32 * (c / 64 % 64 / 2) + c % 64 / 2) ∧
          v.extractLsb' 38 10 = BitVec.ofNat 10 e.asid ∧ v.extractLsb' 32 6 = unit.gen ∧
          v.extractLsb' 0 32 =
            Config.check cl (2 ^ 64 * s.resets + unit.draw) (c / 4096) (32 * (c / 64 % 64 / 2) + c % 64 / 2) e.asid unit.gen.toNat rt)) ∧
      (∀ dst, e.kind = .mstatU dst → unit.ringAsid = some e.asid → k.mq.length ≤ 8 → ∃ v : Word, served s.seq id id (sl.setP dst v) ∧
        v.extractLsb' 48 16 = k.skPtr ∧ v.extractLsb' 40 8 = k.skLeft ∧ v.getLsbD 39 = k.skZero ∧ v.getLsbD 38 = k.skOn ∧
        v.getLsbD 37 = unit.bnext.isSome ∧ v.getLsbD 36 = unit.credit ∧ v.getLsbD 35 = unit.lease.isSome ∧
        v.extractLsb' 31 4 = BitVec.ofNat 4 (k.mq.length - 1) ∧ v.extractLsb' 0 31 = 0))

/-- The ring, the command front and a failed unit (R236, R243, R252 to R254, R370, R373, R376): a tile that arrives, a credit
that returns, a rotation that gives up, a kick that reaches a unit, a lease that expires, a unit that fails. The model's
choices: a tile dropped at a buffer that is full (log 41), the check of a drawn capability (log 6), the record read at the kick and
a command to a unit that has failed (log 38). -/
def Obligations.MatrixEvents : Prop :=
  ∀ (s : State) (id cl c : Nat) (tile : RingTile) (m : Cmd) (e : MEntry),
    let unit := getUnit s cl
    (tget s.tiles id = some tile → tile.dst = cl →
      let takes := unit.failed = false ∧ unit.pred.getD cl = tile.src ∧ unit.ringAsid = some tile.asid ∧ unit.bnext = none
      let gone : State := { s with tiles := tdel s.tiles id }
      (takes → exec (.ringTileArrive id) s = .next (modUnit gone cl fun u => { u with bnext := some tile.tile })) ∧
      (¬ takes → ∃ t, exec (.ringTileArrive id) s = .next t ∧ t.tiles = gone.tiles ∧ t.clusters = s.clusters ∧
        t.cores = s.cores ∧ ∃ n, t.credits = tset s.credits n tile.src)) ∧
    (tget s.credits id = some cl → exec (.ringCreditReturn id) s =
      .next (modUnit { s with credits := tdel s.credits id } cl fun u => { u with credit := true })) ∧
    (rotating s cl = none → exec (.mrotTimeout cl) s = .next s) ∧
    (rotating s cl = some (c, e) →
      let late := e.started = true ∧ unit.bnext = none ∧ e.t0 + 65536 ≤ s.now
      (¬ late → exec (.mrotTimeout cl) s = .next s) ∧
      (late → ∃ t, exec (.mrotTimeout cl) s = .next t ∧ getUnit t cl = { unit with
          latB := { int := (getCore s c).mint, flags := 0xFFFF }, latBAsid := some e.asid, credit := true } ∧
        (getCore t c).mq = (getCore s c).mq.filter fun y => y.id ≠ e.id)) ∧
    (let lapsed := unit.lease.isSome ∧ unit.leaseAt + 2 ^ 20 ≤ s.now ∧
       ∀ f ∈ unit.front, ∀ q, tget s.cmds f.cmd = some q → unit.lease ≠ some (q.core, q.asid)
     (¬ lapsed → exec (.leaseExpire cl) s = .next s) ∧
     (lapsed → unit.front = [] → exec (.leaseExpire cl) s = .next (modUnit s cl fun u => { u with lease := none }))) ∧
    (∃ t, exec (.matrixUnitFail cl) s = .next t ∧ (getUnit t cl).failed = true ∧ (getUnit t cl).front = [] ∧
      (getUnit t cl).lease = none ∧
      (∀ q, (getCore t q).feat = if q ∈ coresAt s cl then (getCore s q).feat &&& 0xFFF9 else (getCore s q).feat) ∧
      (∀ q ∈ coresAt s cl, (getCore t q).mq = []) ∧
      (∀ f ∈ unit.front, ∀ q, tget s.cmds f.cmd = some q →
        (tget t.cmds f.cmd).map (fun x => (x.state, x.offset)) = some (.releasing 6, 0))) ∧
    (∀ ea bs, tget s.cmds id = some m → m.kind = .mcmd ea → m.state = .issued → cmdReady s m = true →
      (m.pat = some bs ∨ m.pat = none ∧ 0x00FFFFFFFFFF0000 ≤ ea ∧ ea + 64 ≤ 2 ^ 56 ∧
        lmRead s m.core (ea - 0x00FFFFFFFFFF0000) 64 = (bs, false)) →
      let r := MRec.ofBytes bs
      let read : Cmd := { m with pat := some bs }
      let ends (st : Nat) : Prop := ∃ t, exec (.mcmdKickArrive id) s = .next t ∧
        (∀ q, getCluster t q = getCluster s q) ∧ tget t.cmds id = some { read with state := .releasing st, offset := 0, buf := [], idx := [] }
      (unitOf s r.die r.idx = none → ends 7) ∧
      (unitOf s r.die r.idx = some cl → unit.failed = true → ends 6) ∧
      (unitOf s r.die r.idx = some cl → unit.failed = false → 16 ≤ unit.front.length →
        exec (.mcmdKickArrive id) s = .next (setCmd s id read)) ∧
      (unitOf s r.die r.idx = some cl → unit.failed = false → unit.front = [] →
        let asid := (r.cap.extractLsb' 38 10).toNat
        let passes := asid = m.asid ∧ (∃ q ∈ coresAt s cl, (getCore s q).owner = some asid) ∧
          r.cap.extractLsb' 32 6 = unit.gen ∧
          r.cap.extractLsb' 0 32 = Config.check cl (2 ^ 64 * s.resets + unit.draw) r.die r.idx asid unit.gen.toNat r.rights ∧
          (r.op < 2 ∨ r.op = 3 → r.rights % 2 = 1) ∧ (2 ≤ r.op → 2 ≤ r.rights) ∧ r.ok = true
        (¬ passes → ends 7) ∧
        (passes → exec (.mcmdKickArrive id) s =
          .next (modUnit (setCmd s id { read with state := .queued }) cl fun u => { u with
            front := [{ cmd := id, ok := true }]
            lease := if u.lease.isSome then u.lease else some (m.core, m.asid)
            leaseAt := if u.lease.isSome then u.leaseAt else s.now }))))

/-- Class 0xD at issue (R261, R263, R281 to R284, R315): KSTAGE and KSTAGE.u queued; the traps of KSEND and KSENDT, and their
command with engine number 114, ordered after the operations that share a byte with the record; KYIELD and KEND outside a
coroutine, or in a handler; the views of KSTAT, whose count of Husks is of those valid in memory and which read all ones for a handle with a reserved bit set,
both of which R283 leaves open, and KFLUSH and what it covers (log 42). Poison judged at issue where nothing is ordered before is the model's reading (log 32), and
no ALIAS is among the causes (log 51). -/
def Obligations.KeyedIssue : Prop :=
  ∀ (s : State) (h : Hdr) (o : Ord) (p : PReg) (d a b : XReg) (off : BitVec 32) (sl : SlotSt) (k : TaskSt) (u : State)
    (ls : List (Loc × Nat)) (blocks : List Loc) (st : StageSt),
    let ea := sl.x a.val + off.signExtend 64
    let hd := sl.x b.val
    let traps (i : Instr) (t : Trap) : Prop :=
      exec i s = .next (raiseTrap (tried s h) s.core s.slot { t with word := wordOf i })
    let v := if o.sync = .acq ∨ o.sync = .acqrel then acquireFlash u u.core o.scope else u
    let read (l : Loc) (n : Nat) : Bool := (coreRead v u.core false l n none).2.2
    let first (n : Nat) : Prop := opDeps u sl.task o [(ea.toNat, n)] = []
    let field (lo n : Nat) : Nat := hd.toNat / 2 ^ lo % 2 ^ n
    -- a box of at least one core in each direction, of control cores on one die and one row; every coordinate that of a core
    let good := hd.toNat / 2 ^ 40 = 0 ∧ 1 ≤ field 31 7 ∧ field 31 7 ≤ 64 ∧ 1 ≤ field 24 7 ∧ field 24 7 ≤ 64 ∧
      1 ≤ field 18 6 ∧ field 18 6 ≤ 40 ∧ (field 12 6 < 56 ∨ field 18 6 = 1 ∧ field 24 7 = 1) ∧ handleBoxOk s hd = true
    let sends (i : Instr) (pred : Option Nat) (f : State → State) : Prop := s.Runs h i sl k →
      (ea.toNat % 32 ≠ 0 → traps i { cause := .align, addr := ea }) ∧
      (ea.toNat % 32 = 0 → 2 ^ 56 ≤ ea.toNat → traps i { cause := .address, addr := ea }) ∧
      (ea.toNat % 32 = 0 → ea.toNat < 2 ^ 56 → ¬ good → traps i { cause := .address, addr := hd }) ∧
      (ea.toNat % 32 = 0 → good → reachRange (s.begun h i sl) ea 32 32 .read false = .ok (u, ls) →
        ((first 32 → rangeBad read ls 0 = none) → exec i s = .next (f (
          let t := issueCmd u s.seq o 114 (.ksend (ls.map Prod.fst) hd pred)
          { t with cmds := tmod t.cmds s.seq fun m =>
            { m with deps := (m.deps ++ byteDeps u sl.task [(ea.toNat, 32)]).eraseDups } }))) ∧
        (∀ j, first 32 → rangeBad read ls 0 = some j → traps i { cause := .poison, addr := ea + BitVec.ofNat 64 j }))
    let yields (i : Instr) (kend : Bool) : Prop := s.Runs h i sl k →
      (k.coro = none ∨ sl.inh = true → traps i { cause := .noContext, detail := if kend then 1 else 0 }) ∧
      (k.coro.isSome → sl.inh = false → exec i s = .next (holdThen (s.begun h i sl) s.core s.slot (.yielding kend)))
    let slot := (sl.x a.val).toNat / 2 ^ 38 % 4
    let core := getCore s s.core
    let gets (i : Instr) (v : Word) : State := s.after h ((sl.started h i s.seq).setX d.val v)
    let mine := (core.pod.filter fun e => e.2.stage = slot)
    let idles := (mine.filter fun e => e.2.state = .idle).length
    let runs := (mine.filter fun e => e.2.state = .run).length
    let held := (core.inbox.filter fun r => r.stage = slot).length
    let waits := (core.waiters.filter fun w => w.stage = slot).length
    (s.Runs h (.kstage h o d a off) sl k → reachBlocks (s.begun h (.kstage h o d a off) sl) ea 3 = .ok (u, blocks) →
      ((first 192 → poisonIn read (withLens 64 blocks) = none) → exec (.kstage h o d a off) s =
        .next (pushOp u s.seq o [(ea.toNat, 192)] (.kstage blocks (sl.px d.val)))) ∧
      (∀ x, first 192 → poisonIn read (withLens 64 blocks) = some x →
        traps (.kstage h o d a off) { cause := .poison, addr := BitVec.ofNat 64 x })) ∧
    (s.Runs h (.kstageU h o d b) sl k → exec (.kstageU h o d b) s =
      .next (pushOp (s.begun h (.kstageU h o d b) sl) s.seq o [] (.kstageU hd false (sl.px d.val)))) ∧
    sends (.ksend h o a b off) none (fun t => setHold t s.core s.slot (.ksend s.seq)) ∧
    sends (.ksendt h o p a b off) (some p.val) (fun t => t) ∧
    yields (.kyield h) false ∧ yields (.kend h) true ∧
    (s.Runs h (.kstatOcc h d a) sl k → s.Runs h (.kstatCnt h d a) sl k →
      ((∀ q, tget core.stages slot = some q → q.handle ≠ sl.x a.val) →
        exec (.kstatOcc h d a) s = .next (gets (.kstatOcc h d a) 0xFFFFFFFFFFFFFFFF) ∧
        exec (.kstatCnt h d a) s = .next (gets (.kstatCnt h d a) 0xFFFFFFFFFFFFFFFF)) ∧
      (tget core.stages slot = some st → st.handle = sl.x a.val →
        exec (.kstatCnt h d a) s = .next (gets (.kstatCnt h d a) (st.inst ++ st.spills ++ st.reloads ++ st.retires)) ∧
        (let husks := validHusks (s.begun h (.kstatOcc h d a) sl) st
         husks < 2 ^ 16 → held < 256 → waits < 256 → runs < 256 → idles < 256 → st.share < 256 →
         exec (.kstatOcc h d a) s = .next (gets (.kstatOcc h d a) (
           BitVec.ofNat 16 husks ++ BitVec.ofNat 8 held ++ BitVec.ofNat 8 waits ++ BitVec.ofNat 8 runs ++
           BitVec.ofNat 8 idles ++ BitVec.ofNat 8 st.share ++ BitVec.ofNat 8 (st.share - mine.length)))))) ∧
    (s.Runs h (.kflush h d a) sl k →
      let g := s.begun h (.kflush h d a) sl
      let members := membersOfStage g k.asid (sl.x a.val)
      (members = [] → exec (.kflush h d a) s =
        .next (deliver g sl.task s.seq [{ reg := .x (sl.px d.val), val := (0xFFFFFFFFFFFFFFFF : Word).setWidth 256 }])) ∧
      (members ≠ [] → exec (.kflush h d a) s = .next (flushCheck
        (members.foldl (fun t m => flushMember t m.1 m.2 (some (sl.task, sl.px d.val, s.seq))) g) k.asid (sl.x a.val))))

/-- Records on their way (R267, R268, R277, R278, R281, R370): a record read from local memory reaches the member of its key
and is accepted, refused or dropped, refused while the stage is closed, and held at its router while the member freezes (R375); one
found poisoned when it is read traps as though its KSEND or KSENDT had not issued, or ends PARTIAL where its task has left its slot
(R285); the answer, a KSENDT refused meanwhile uncounted in its task's record (R161), a KSEND refused undone and its task saved on
the waiter list; a resend; a reservation that lapses. What is held and sent again, and PARTIAL, where the spec leaves it open, are
the model's choices (log 42), as is undo (log 32).

Where a key goes (R260): the multiplicative hash of its folded halves, the member by the hash's upper part, row-major in
the handle's box; and the places of its Husks. -/
def Obligations.KeyedRecords : Prop :=
  (∀ (s : State) (id t q off c i : Nat) (m : Cmd) (hd : Word) (pred : Option Nat) (b : StageSt) (w : KMsg) (sl : SlotSt) (k : TaskSt),
    (tget s.cmds id = some m → m.kind = .ksend [.loc q off] hd pred → m.task = some t →
      let bs := rdBytes (getCore s q).lmem off 32
      let to_ := memberOf hd (rdNat (getCore s q).lmem off 8)
      let slot := hd.toNat / 2 ^ 38 % 4
      let dest := getCore s to_
      let live := dest.resvd.filter fun r => s.now < r.2
      let mine := live.any fun r => r.1.task = t
      -- the slot has nothing to go back to for the command any more
      let past := passed s t id
      let sent (x : State) (st : CmdState) (a : Answer) : State := { x with
        cmds := tset x.cmds id { m with state := st, pat := some bs, arr := s.now }
        kmsgs := tset x.kmsgs id { task := t, pred, coord := to_, stage := slot, answer := a } }
      let arrives := m.state = .issued ∧ cmdReady s m = true ∧ earlierUnsent s id t to_ = false ∧ dest.freezing = false
      (¬ arrives → exec (.keyedRecordArrive id) s = .next s) ∧
      (arrives → (lmRead s q off 32).2 = true →
        (∀ d j r, residence s t = some (d, j) → slotAt s d j = some r → (∃ u ∈ r.undo, u.id = id) → ∃ x a,
          failPerformed { s with cmds := tdel s.cmds id } t id (.trap { cause := .poison, addr := a }) = some x ∧
          exec (.keyedRecordArrive id) s = .next x) ∧
        (residence s t = none →
          exec (.keyedRecordArrive id) s = .next (answerTo (cmdEnd s id 5 0 0) t id pred 0xFF))) ∧
      (arrives → (lmRead s q off 32).2 = false → coreOk s to_ = true → dest.owner ≠ none → tget dest.stages slot = some b → b.asid = m.asid → b.handle = hd →
        (b.closed = true ∨ mine = false ∧ 64 ≤ dest.inbox.length + live.length →
          exec (.keyedRecordArrive id) s = .next (sent past .queued .refused)) ∧
        (b.closed = false → mine = false → dest.inbox.length + live.length < 64 → exec (.keyedRecordArrive id) s = .next (sent
          (modCore past to_ fun x => { x with inbox := x.inbox ++ [⟨id, slot, bs⟩], resvd := live }) .running .accepted)) ∧
        (b.closed = false → mine = true → ∃ r ∈ live, r.1.task = t ∧ exec (.keyedRecordArrive id) s = .next (sent
          (modCore past to_ fun x => { x with inbox := x.inbox ++ [⟨id, slot, bs⟩], resvd := live.erase r }) .running .accepted)))) ∧
    (tget s.kmsgs id = some w → w.task = t →
      let gone : State := { s with kmsgs := tdel s.kmsgs id }
      (∀ p n, w.pred = some p → w.answer = .refused → residence s t = none → tget s.cmds id = some n → exec (.ksendAnswer id) s =
        .next (answerTo (refreshRecord { gone with cmds := tdel s.cmds id } t n.stream) t id (some p) 0)) ∧
      (residence s t = some (c, i) → slotAt s c i = some sl → getTask s t = some k →
      let clear (n : Nat) (r : SlotSt) (undo : List Undo) : SlotSt := { r with
        inflight := r.inflight.filter fun e => e.id ≠ n
        ops := r.ops.filter fun e => e.id ≠ n
        hold := if r.hold = .op n then .none else r.hold
        undo }
      (∀ p, w.pred = some p → w.answer = .accepted →
        ∃ x, exec (.ksendAnswer id) s = .next (setSlot gone c i (clear id (sl.setPr p 0xFF) x))) ∧
      (∀ p, w.pred = some p → w.answer = .refused → ∃ x, exec (.ksendAnswer id) s =
        .next (setSlot { gone with cmds := tdel s.cmds id } c i (clear id (sl.setPr p 0) x))) ∧
      (w.pred = none → w.answer = .accepted → sl.hold = .ksend id →
        exec (.ksendAnswer id) s = .next (setSlot gone c i { sl with hold := .none })) ∧
      (w.pred = none → w.answer = .refused → sl.ops = [] → sl.saveWait = none →
        (sl.inh = true ∨ sl.level ≠ k.level0 ∨ 64 ≤ (getCore s w.coord).waiters.length) →
        exec (.ksendAnswer id) s = .next (setSlot gone c i { sl with hold := .ksendFull id })) ∧
      (w.pred = none → w.answer = .refused → sl.ops = [] → sl.saveWait = none → sl.inh = false → sl.level = k.level0 →
        (getCore s w.coord).waiters.length < 64 →
        ∀ u, savePark { s with cmds := tdel s.cmds id } c i (sl.pc - 16) (saveSlot s k) = .done u →
        ∃ v, exec (.ksendAnswer id) s = .next v ∧ slotAt v c i = none ∧ tget v.cmds id = none ∧
          ((∃ x ∈ (getCore v w.coord).waiters, x.task = t) ∨ ∃ x ∈ (getCore v w.coord).resvd, x.1.task = t)) ∧
      (w.answer = .dropped → ∀ n, tget s.cmds id = some n → ∃ u, exec (.ksendAnswer id) s = .next u ∧
        (tget u.cmds id).map (fun x => (x.state, x.offset)) = some (.releasing 6, 0)))) ∧
    (slotAt s c i = some sl → sl.hold = .ksendFull id → tget s.cmds id = some m → (∃ l, m.kind = .ksend l hd none) →
      (s.now < m.arr + 1024 → exec (.ksendResend c i) s = .next s) ∧
      (m.arr + 1024 ≤ s.now → exec (.ksendResend c i) s =
        .next (setHold (sendRecord s id sl.task m hd none (m.pat.getD [])) c i (.ksend id)))) ∧
    ((getCore s c).waiters = [] → exec (.reservationLapse c) s =
      .next (modCore s c fun x => { x with resvd := x.resvd.filter fun r => s.now < r.2 }))) ∧
  (∀ (hd key : Word) (b : StageSt),
    let x := (key.extractLsb' 32 32 ^^^ key.extractLsb' 0 32) * (0x9E3779B1 : BitVec 32)
    let field (lo n : Nat) : Nat := hd.toNat / 2 ^ lo % 2 ^ n
    let cols := field 31 7
    let rows := field 24 7
    let m := x.toNat * (field 18 6 * rows * cols) / 2 ^ 32
    let org := field 0 18
    0 < rows → 0 < cols →
    memberOf hd key.toNat = 4096 * (org / 4096 + m / (rows * cols)) + 64 * (org / 64 % 64 + m / cols % rows) + (org % 64 + m % cols) ∧
    (0 < field 18 6 → m < field 18 6 * rows * cols) ∧
    (∀ a, a ∈ husksOf b key ↔ ∃ i w, i < 4 ∧ w < 4 ∧
      a = b.husk + b.index * (2 ^ b.nblog + 4) * 1024 + 1024 * ((x.toNat % 2 ^ b.nblog + i) % 2 ^ b.nblog) + 256 * w))

/-- The dispatcher and the Husks (R264, R271 to R276, R284): one action a router cycle, the stages of a member in turn, and none
while the core freezes (R375); a new key instantiated in a free context; an idle context resumed with its record, or, in its
stage's turn, to retire; what a lookup, a spill and a reload that succeed leave; an
automatic unbinding. -/
def Obligations.KeyedDispatch : Prop :=
  ∀ (s : State) (c st i a : Nat) (b : StageSt) (r : InRec) (p : PodCtx) (key : Word) (u v : State) (bs : List Byte),
    let core := getCore s c
    let ctxs := core.pod.filter fun e => e.2.stage = st
    let running := (ctxs.filter fun e => e.2.state = .run).length
    let rkey : Word := BitVec.ofNat 64 (natOf (r.bytes.take 8))
    let turn (d : Nat) : Option State := dispatchStage s c ((core.served + d) % 4)
    let up (n : BitVec 16) : BitVec 16 := if n = 0xFFFF then n else n + 1
    -- a coroutine in context n of the stage, started with a record or to retire, waits in the placement queue
    let started (t : State) (n : Nat) (rec : Option InRec) : Prop := ∃ x id, tget (getCore t c).pod n = some x ∧
      x.stage = st ∧ x.state = .run ∧ x.last = s.now ∧ x.retire = rec.isNone ∧ x.task = id ∧
      (∃ k, getTask t id = some k ∧ k.launch = b.launch ∧ k.asid = b.asid ∧ k.group = b.group ∧ k.place = .queued c) ∧
      (∃ e, (getCore t c).queue = core.queue ++ [e] ∧ e.task = id ∧
        e.start = .coro ((rec.map fun y => y.bytes).getD []) rec.isNone) ∧
      (getCore t c).inbox = (match rec with
        | some y => core.inbox.erase y
        | none => core.inbox)
    (∀ d t, 1 ≤ d → d ≤ 4 → (∀ x, 1 ≤ x → x < d → turn x = none) → turn d = some t → core.dispAt ≠ some s.now →
      core.freezing = false → exec (.dispatch c) s = .next (modCore t c fun x => { x with served := (core.served + d) % 4, dispAt := some s.now })) ∧
    (core.dispAt = some s.now ∨ core.freezing = true → exec (.dispatch c) s = .next s) ∧
    ((∀ d, 1 ≤ d → d ≤ 4 → turn d = none) → exec (.dispatch c) s = .next s) ∧
    (tget core.stages st = some b → b.busy = none → core.waiters = [] →
      (core.inbox.filter fun x => x.stage = st) = [r] → running < b.run → r.bytes.length = 32 →
      -- no context of the key, and no Husk
      ((∀ e ∈ ctxs, e.2.key ≠ rkey) → b.husks = [] → b.found = [] → b.seeded = false → ctxs.length < b.share →
        i < 32 → tget core.pod i = none → (∀ j, j < i → (tget core.pod j).isSome) →
        ∃ t, dispatchStage s c st = some t ∧ started t i (some r) ∧
          (tget (getCore t c).pod i).map (fun x => (x.key, x.regs, x.pc)) = some (rkey, b.image, b.entry) ∧
          (tget (getCore t c).stages st).map (fun x => x.inst) = some (up b.inst)) ∧
      -- an idle context of the key
      ((ctxs.find? fun e => e.2.key = rkey) = some (i, p) → p.state = .idle →
        ∃ t, dispatchStage s c st = some t ∧ started t i (some r) ∧
          (tget (getCore t c).pod i).map (fun x => (x.key, x.regs, x.pc)) = some (p.key, p.regs, p.pc))) ∧
    (tget core.pod i = some p → p.stage = st → tget core.stages st = some b →
      -- the retirement of this context is what the dispatcher starts next: no stage before this one in turn has an action
      let next := core.dispAt ≠ some s.now ∧ core.freezing = false ∧ b.busy = none ∧ running < b.run ∧
        scanRecords s c st b [] (core.inbox.filter fun x => x.stage = st) = none ∧ dueCtx s core st b = some (i, p) ∧
        ∃ d, 1 ≤ d ∧ d ≤ 4 ∧ (core.served + d) % 4 = st ∧ ∀ x, 1 ≤ x → x < d → turn x = none
      ((core.pod.map Prod.fst).Nodup → ¬ next → exec (.retireDue c i) s = .next s) ∧
      (next → ∃ t, exec (.retireDue c i) s = .next t ∧ started t i none ∧ (getCore t c).served = st ∧
        (getCore t c).dispAt = some s.now ∧
        (tget (getCore t c).stages st).map (fun x => x.retires) = some (up b.retires))) ∧
    (tget core.stages st = some b → b.await = none →
      (∀ hit, b.busy = some (0, key) → huskFind s b key (husksOf b key) = .ok (u, hit) →
        exec (.huskLookupDone c st) s = .next (modStage u c st fun x => { x with
          busy := none
          looked := key :: x.looked
          found := if hit.isSome then (key :: x.found).eraseDups else x.found.filter fun w => w ≠ key })) ∧
      (b.busy = some (1, key) → ctxOfKey core st key = some (i, p) → huskFree s b (husksOf b key) = .ok (u, some a) →
        writeHusk u c b p a = .ok v → exec (.huskSpillDone c st) s = .next (modStage
          { modCore v c (fun x => { x with pod := tdel x.pod i }) with tasks := tdel v.tasks p.task } c st fun x => { x with
            busy := none
            husks := (key :: x.husks).eraseDups
            looked := x.looked.filter fun w => w ≠ key
            found := x.found.filter fun w => w ≠ key
            spills := up x.spills })) ∧
      (b.busy = some (2, key) → ctxOfKey core st key = some (i, p) → huskFind s b key (husksOf b key) = .ok (u, some a) →
        ∀ w bad, devRead u b.asid a 160 = .ok (w, bs, bad) → (recPoison w ⟨b.asid, a⟩ 8) = [] → huskValid w b a false = .ok v →
        ∃ f, exec (.huskReloadDone c st) s = .next (reloaded (modStage v c st f) c st i (ctxOfHusk v b p a bs) key) ∧
          ∀ x, (f x).busy = none ∧ (f x).reloads = up x.reloads ∧ (∀ y, y ∈ (f x).husks ↔ y ∈ x.husks ∧ y ≠ key) ∧
            (∀ y, y ∈ (f x).found ↔ y ∈ x.found ∧ y ≠ key))) ∧
    (tget core.stages st = some b →
      let done_ := ∀ e ∈ s.tasks, e.2.launch = b.launch → e.2.coro.isSome ∨ e.2.place.isEnded = true
      let full := (membersOfStage s b.asid b.handle).any fun m => match tget (getCore s m.1).stages m.2 with
        | some q => memberHolds (getCore s m.1) m.2 q
        | none => false
      let quiet := (∀ x ∈ core.inbox, x.stage ≠ st) ∧ running = 0
      (¬ done_ → exec (.stageAutoUnbind c st) s = .next s) ∧
      (done_ → full = false → exec (.stageAutoUnbind c st) s = .next (unbindStage s b.asid b.handle)) ∧
      (done_ → full = true → ¬ quiet → exec (.stageAutoUnbind c st) s = .next s) ∧
      (done_ → full = true → quiet → exec (.stageAutoUnbind c st) s = .next (flushMember s c st none)))

/-- GNEW, GFREE, JOIN, LEAVE, SHGIVE, SHRESV, SHRD, SHRD.l and OPRD (R32, R286, R289, R304, R305, R307, R308): the failures in
their order, what the accounts become, and what x[d] receives. That JOIN and LEAVE count the cores as they are after the move,
and that lent shares move with own ones, is the model's choice (log 45). -/
def Obligations.GroupInstructions : Prop :=
  ∀ (s : State) (h : Hdr) (d a b : XReg) (sl : SlotSt) (k : TaskSt) (r : GroupSt) (t : State) (q g : GroupId) (n : Nat) (p : GroupSt),
    let amount := ((sl.x a.val).extractLsb' 0 32).toNat
    let named := (sl.x a.val).extractLsb' 0 24
    let fails (code : Nat) : Word := 2 ^ 63 + BitVec.ofNat 64 code
    let gives (i : Instr) (v : Word) (f : State → State) : Prop :=
      exec i s = .next (modCur (f (s.begun h i sl)) fun q => q.setX d.val v)
    let free (i : Instr) (n m : Nat) : Prop := r.resv + n ≤ r.own ∧ m + n ≤ r.own ∧ s.Runs h i sl k
    let stuck (i : Instr) (n m : Nat) : Prop := ¬ (r.resv + n ≤ r.own ∧ m + n ≤ r.own) ∧ s.Runs h i sl k
    let unknown (i : Instr) : Prop := s.Runs h i sl k →
      (getGroup s named = none → gives i (fails 1) id) ∧
      (getGroup s named = some p → p.asid ≠ k.asid → gives i (fails 2) id)
    let known (i : Instr) : Prop := s.Runs h i sl k ∧ getGroup s named = some p ∧ p.asid = k.asid
    let mine := nCores s k.group
    let left := coresWithout s k.group sl.task
    let viewed := if sl.x a.val = 0 then k.group else named
    let views (i : Instr) (v : Word) : Prop := s.Runs h i sl k →
      ((∀ p, getGroup s viewed = some p → p.asid ≠ k.asid) → gives i 0xFFFFFFFFFFFFFFFF id) ∧
      (∀ p, getGroup s viewed = some p → p.asid = k.asid → gives i v id)
    getGroup s k.group = some r →
    (stuck (.gnew h d a) amount mine → gives (.gnew h d a) (fails 3) id) ∧
    (free (.gnew h d a) amount mine → newGroup (s.begun h (.gnew h d a) sl) k.asid 0 0 r.cap (dieKey s.core) (.gnew k.launch) = none →
      gives (.gnew h d a) (fails 4) id) ∧
    (free (.gnew h d a) amount mine → newGroup (s.begun h (.gnew h d a) sl) k.asid 0 0 r.cap (dieKey s.core) (.gnew k.launch) = some (t, q) →
      gives (.gnew h d a) (q.setWidth 64) (fun _ => moveOwn t k.group q amount)) ∧
    (stuck (.leave h d a) amount left ∨ (amount = 0 ∧ s.Runs h (.leave h d a) sl k) → gives (.leave h d a) (fails 3) id) ∧
    (free (.leave h d a) amount left → amount ≠ 0 → newGroup (s.begun h (.leave h d a) sl) k.asid 0 0 r.cap (dieKey s.core) .leave = some (t, q) →
      gives (.leave h d a) (q.setWidth 64) (fun _ => moveTask (moveOwn t k.group q amount) sl.task k q)) ∧
    unknown (.gfree h d a) ∧ unknown (.join h d a) ∧ unknown (.shgive h d a b) ∧
    (known (.gfree h d a) →
      let idle := groupState s named = 3 ∧ groupIdle (s.begun h (.gfree h d a) sl) named = true ∧ ∀ e ∈ s.edges, e.dst ≠ named
      (¬ idle → gives (.gfree h d a) (fails 5) id) ∧
      (idle → gives (.gfree h d a) 0 fun u => freeGroup (moveOwn u named k.group p.own) named)) ∧
    (known (.join h d a) →
      let cores := (s.core :: coresOfGroup s named).eraseDups.length
      (named = k.group → gives (.join h d a) 0 id) ∧
      (named ≠ k.group → p.own < cores → gives (.join h d a) (fails 3) id) ∧
      (named ≠ k.group → cores ≤ p.own → gives (.join h d a) 0 fun u => moveTask u sl.task k named)) ∧
    (known (.shgive h d a b) →
      let m := ((sl.x b.val).extractLsb' 0 32).toNat
      (named = k.group → gives (.shgive h d a b) 0 id) ∧
      (named ≠ k.group → ¬ (r.resv + m ≤ r.own ∧ mine + m ≤ r.own) → gives (.shgive h d a b) (fails 3) id) ∧
      (named ≠ k.group → r.resv + m ≤ r.own → mine + m ≤ r.own →
        gives (.shgive h d a b) 0 fun u => moveOwn u k.group named m)) ∧
    (s.Runs h (.shresv h d a) sl k →
      (r.own < amount → gives (.shresv h d a) (fails 3) id) ∧
      (amount ≤ r.own → gives (.shresv h d a) 0 fun u => setGroup u k.group { r with resv := amount })) ∧
    views (.shrd h d a) (sharesWord (s.begun h (.shrd h d a) sl) viewed) ∧
    views (.shrdL h d a) (lendWord (s.begun h (.shrdL h d a) sl) viewed) ∧
    (s.Runs h (.oprd h d a) sl k →
      let c := ((sl.x a.val).extractLsb' 0 18).toNat
      gives (.oprd h d a) (if coreOk s c then opnowWord (s.begun h (.oprd h d a) sl) c else 0xFFFFFFFFFFFFFFFF) id) ∧
    -- shares moved: none is lost, and no other account changes
    (getGroup s q = some p → q ≠ k.group → n ≤ r.own →
      ∃ x y, getGroup (moveOwn s k.group q n) k.group = some x ∧ getGroup (moveOwn s k.group q n) q = some y ∧
        x.own = r.own - n ∧ y.own = p.own + n ∧ x.resv = r.resv ∧ y.resv = p.resv ∧ x.away + y.away = r.away + p.away ∧
        ∀ e, e ≠ k.group → e ≠ q → getGroup (moveOwn s k.group q n) e = getGroup s e) ∧
    (r.own < 2 ^ 21 → r.resv < 2 ^ 21 → inSum r < 2 ^ 21 → (sharesWord s k.group).toNat =
      r.own + 2 ^ 21 * r.resv + 2 ^ 42 * inSum r + if groupState s k.group = 1 then 2 ^ 63 else 0) ∧
    (newGroup s n 0 0 p.cap p.home p.origin = some (t, g) →
      getGroup t g = some { gen := g.extractLsb' 0 6, asid := n, own := 0, cap := p.cap, home := p.home, origin := p.origin } ∧
      ∀ e, gidIdx e ≠ gidIdx g → getGroup t e = getGroup s e)

/-- TRYLK, UNLK, QPUSHT, QPOPT, BARARR, BARTRY and the five PARKs at issue (R293, R306, R309, R312): alignment, the address
limit, WINDOW for an object in local memory, POISON of an object that nothing is ordered before; then a direct operation on the
object, which QPUSHT, QPOPT and PARK hold their slot for, and a PARK follows what is ordered before it and every outstanding
direct access. TRYLK and UNLK take the issuer's group along. The model's choices: the slot that QPUSHT and QPOPT hold (log 43), no
ALIAS (log 51), POISON judged at issue (log 32). -/
def Obligations.WaitObjectIssue : Prop :=
  ∀ (s : State) (h : Hdr) (o : Ord) (p : PReg) (d a b : XReg) (off : BitVec 32) (sl : SlotSt) (k : TaskSt) (u : State) (l : Loc),
    let ea := sl.x a.val + off.signExtend 64
    let object (i : Instr) (n : Nat) (kind : Loc → OpKind) (f : State → State) : Prop := s.Runs h i sl k →
      let traps (t : Trap) : Prop := exec i s = .next (raiseTrap (tried s h) s.core s.slot { t with word := wordOf i })
      (ea.toNat % n ≠ 0 → traps { cause := .align, detail := 3, addr := ea }) ∧
      (ea.toNat % n = 0 → 2 ^ 56 ≤ ea.toNat → traps { cause := .address, detail := 3, addr := ea }) ∧
      (ea.toNat % n = 0 → 0x00FFFFFFFFFF0000 ≤ ea.toNat → ea.toNat < 2 ^ 56 → traps { cause := .window, detail := 3, addr := ea }) ∧
      (ea.toNat % n = 0 → ea.toNat < 0x00FFFFFFFFFF0000 → reachEa (s.begun h i sl) ea n .rmw false = .ok (u, l) →
        let ps := wordParts ea.toNat n
        let spans := ps.map fun x => (ea.toNat + x.1, x.2)
        let poisoned (x : Nat × Nat) : Prop := opDeps u sl.task o spans = [] ∧
          (pointRead (if o.sync = .acq ∨ o.sync = .acqrel then acquireFlash u u.core o.scope else u) u.core (l.plus x.1) x.2
            none).2.2 = true
        ((∀ x ∈ ps, ¬ poisoned x) → exec i s = .next (f (pushOp u s.seq o spans (kind l)))) ∧
        (∀ qs x rs, ps = qs ++ x :: rs → (∀ y ∈ qs, ¬ poisoned y) → poisoned x →
          traps { cause := .poison, detail := 3, addr := ea + BitVec.ofNat 64 x.1 }))
    let holds (t : State) : State := setHold t s.core s.slot (.op s.seq)
    let parks (t : State) : State := holds (modCur t fun q => { q with
      ops := q.ops.map fun m => if m.id = s.seq then
        { m with deps := (m.deps ++ (q.ops.filter fun e => e.id ≠ s.seq).map fun e => e.id).eraseDups } else m })
    let gen := ((sl.x b.val).extractLsb' 0 16).toNat
    object (.trylk h o p a off) 16 (fun l => .trylk l k.group p.val) id ∧
    object (.unlk h o p a off) 16 (fun l => .unlk l k.group p.val) id ∧
    object (.qpusht h o p a b off) 64 (fun l => .qpusht l (sl.x b.val) p.val) holds ∧
    object (.qpopt h o p d a off) 64 (fun l => .qpopt l p.val (sl.px d.val)) holds ∧
    object (.bararr h o d a b off) 128 (fun l => .bararr l ((sl.x b.val).extractLsb' 0 4).toNat (sl.px d.val)) id ∧
    object (.bartry h o p a b off) 128 (fun l => .bartry l gen p.val) id ∧
    object (.parkLk h o a off) 16 (fun l => .park .lk l 0) parks ∧
    object (.parkQn h o a off) 64 (fun l => .park .qn l 0) parks ∧
    object (.parkQs h o a off) 64 (fun l => .park .qs l 0) parks ∧
    object (.parkBar h o a b off) 128 (fun l => .park .bar l gen) parks ∧
    object (.parkRp h o a off) 16 (fun l => .park .rp l 0) parks

/-- The indivisible steps on a lock, a queue and a barrier (R293 to R296, R298, R310 to R312), made by a plain access that finds
no copy of the object's line in its own near cache and nothing there that another key wrote, while nothing waits: the predicate or
register, the bytes written, and no other byte. A PARK whose condition is met, or in a handler, returns at once with no history of
dependences (R69); another waits. Poison that is met in the step, which has not passed the point at which it could trap, is the
precise POISON (R171, R349). The model's choices: the
reserved bits of a lock's byte written as zero (R9; log 48), an object taken at its slice (log 43), undo (log 32). -/
def Obligations.WaitObjectSteps : Prop :=
  ∀ (s : State) (task op c i asid dst n idx gen : Nat) (w : Word) (g e : Seg) (gr : GroupId) (kd : ParkKind) (m : MemOp)
    (sl : SlotSt) (k : TaskSt) (u : State),
    residence s task = some (c, i) → slotAt s c i = some sl → getTask s task = some k → findOp s task op = some m →
    opReady s task m = true → m.sync = .none →
    (∀ n a v, pointBad s c m (.glob asid g) n = some a → poisonPerformed (passOlder s task m) task m .rmw a = some v →
      ((m.kind = .trylk (.glob asid g) gr dst ∨ m.kind = .unlk (.glob asid g) gr dst) ∧ n = 16 ∨
        (m.kind = .qpusht (.glob asid g) w dst ∨ m.kind = .qpopt (.glob asid g) idx dst) ∧ n = 64 ∨
        (m.kind = .bararr (.glob asid g) idx dst ∨ m.kind = .bartry (.glob asid g) gen dst) ∧ n = 128 ∨
        m.kind = .park kd (.glob asid g) gen ∧ n = kd.size ∧ sl.inh = false) → exec (.memoryOpPerform task op) s = .next v) ∧
    (s.memOk = true → s.arrivals = [] → nearFind s (clusterOf s c) asid (g.va / 128) = none →
    memBad s g.pa 128 = false → sealedFrom s asid (g.pa / 128) = 0 → (∀ t ∈ s.tasks, t.2.wait = none) →
    let at_ (o n : Nat) : Nat := rdNat s.mem (g.pa + o) n
    let free (r : SlotSt) : SlotSt := { r with
      inflight := r.inflight.filter fun e => e.id ≠ m.id
      ops := r.ops.filter fun e => e.id ≠ m.id
      hold := if r.hold = .op m.id then .none else r.hold }
    let seen (n : Nat) : State := (objRead s c m (.glob asid g) n).1
    let answers (n : Nat) (r : SlotSt) : Prop := ∃ undo,
      exec (.memoryOpPerform task op) s = .next (setSlot (seen n) c i { free r with undo })
    let writes (r : SlotSt) (o n v : Nat) : Prop := ∃ t undo, exec (.memoryOpPerform task op) s = .next t ∧
      slotAt t c i = some { free r with undo } ∧ rdNat t.mem (g.pa + o) n = v ∧
      (∀ b, b < g.pa + o ∨ g.pa + o + n ≤ b → rd t.mem b = rd s.mem b) ∧ ∀ d, (getCore t d).lmem = (getCore s d).lmem
    -- lock: group [23:0], held [24]
    let lock := at_ 0 4
    let held := lock / 2 ^ 24 % 2 = 1
    (m.kind = .trylk (.glob asid g) gr dst →
      (held → answers 16 (sl.setPr dst 0)) ∧
      (¬ held → writes (sl.setPr dst 0xFF) 0 4 (2 ^ 24 + gr.toNat))) ∧
    (m.kind = .unlk (.glob asid g) gr dst →
      (held → lock % 2 ^ 24 = gr.toNat → writes (sl.setPr dst 0xFF) 0 4 0) ∧
      (¬ (held ∧ lock % 2 ^ 24 = gr.toNat) → answers 16 (sl.setPr dst 0))) ∧
    -- queue: buffer [55:0], head at byte 8, tail at 12, log2 of the capacity in the low five bits of byte 16
    (let head := at_ 8 4
     let tail := at_ 12 4
     let cap := at_ 16 1 % 32
     let len := (tail + 2 ^ 32 - head) % 2 ^ 32
     let whole := rdNat s.mem g.pa 64
     (m.kind = .qpusht (.glob asid g) w dst →
       (24 < cap ∨ 2 ^ cap ≤ len → answers 64 (sl.setPr dst 0)) ∧
       (cap ≤ 24 → len < 2 ^ cap → entryPlace (seen 64) k.asid whole tail = .ok (u, e) →
         (e.pa + 8 ≤ g.pa ∨ g.pa + 64 ≤ e.pa) → ∃ t undo, exec (.memoryOpPerform task op) s = .next t ∧
           slotAt t c i = some { free (sl.setPr dst 0xFF) with undo } ∧ rdNat t.mem e.pa 8 = w.toNat ∧
           rdNat t.mem (g.pa + 12) 4 = (tail + 1) % 2 ^ 32 ∧
           ∀ b, (b < g.pa + 12 ∨ g.pa + 16 ≤ b) → (b < e.pa ∨ e.pa + 8 ≤ b) → rd t.mem b = rd s.mem b)) ∧
     (m.kind = .qpopt (.glob asid g) n dst →
       (24 < cap ∨ len = 0 → answers 64 (sl.setPr n 0)) ∧
       (cap ≤ 24 → len ≠ 0 → entryPlace (seen 64) k.asid whole head = .ok (u, e) →
         memBad s e.pa 8 = false → sealedFrom s k.asid (e.pa / 128) = 0 → ∃ t undo, exec (.memoryOpPerform task op) s = .next t ∧
           slotAt t c i = some { free ((sl.setP dst (BitVec.ofNat 64 (rdNat s.mem e.pa 8))).setPr n 0xFF) with undo } ∧
           rdNat t.mem (g.pa + 8) 4 = (head + 1) % 2 ^ 32 ∧
           ∀ b, (b < g.pa + 8 ∨ g.pa + 12 ≤ b) → rd t.mem b = rd s.mem b))) ∧
    -- barrier: expected [4:0], generation at byte 4, arrived at byte 6
    (let generation := at_ 4 2
     let arrived := at_ 6 2
     let expected := at_ 0 1 % 32
     let need := if 1 ≤ expected ∧ expected ≤ 16 then expected else 1
     let now := arrived + 2 ^ idx
     let count := ((List.range 16).filter fun j => now / 2 ^ j % 2 = 1).length
     (m.kind = .bararr (.glob asid g) idx dst → idx < 16 →
       (arrived / 2 ^ idx % 2 = 1 → answers 128 (sl.setP dst (BitVec.ofNat 64 (generation + 2 ^ 17)))) ∧
       (arrived / 2 ^ idx % 2 = 0 → need ≤ count →
         writes (sl.setP dst (BitVec.ofNat 64 (generation + 2 ^ 16))) 4 4 ((generation + 1) % 2 ^ 16)) ∧
       (arrived / 2 ^ idx % 2 = 0 → count < need →
         writes (sl.setP dst (BitVec.ofNat 64 generation)) 6 2 now)) ∧
     (m.kind = .bartry (.glob asid g) gen dst → answers 128 (sl.setPr dst (if generation = gen then 0 else 0xFF))) ∧
     (m.kind = .park kd (.glob asid g) gen →
       let whole := rdNat s.mem g.pa kd.size
       let coord := at_ 8 4 % 2 ^ 18
       let returns (r : SlotSt) : Prop := answers kd.size { r with hist := [] }
       let logged (code : Nat) : Prop := ∃ undo, exec (.memoryOpPerform task op) s = .next (errPost (setSlot (seen kd.size) c i
         { free { sl.setPr 7 2 with hist := [] } with undo }) code coord k.asid 0 coord)
       let met : Prop := match kd with
         | .lk => ¬ held
         | .qn => 24 < at_ 16 1 % 32 ∨ at_ 8 4 ≠ at_ 12 4
         | .qs => 24 < at_ 16 1 % 32 ∨ (at_ 12 4 + 2 ^ 32 - at_ 8 4) % 2 ^ 32 < 2 ^ (at_ 16 1 % 32)
         | .bar => generation ≠ gen
         | .rp => at_ 4 4 ≤ (ctrOf s coord (at_ 8 4 / 2 ^ 18 % 16)).toNat
       (sl.inh = true → returns sl) ∧
       (sl.inh = false → replyBad s kd whole k.asid = none → met → returns sl) ∧
       (sl.inh = false → kd = .rp → coreOk s coord = false → logged 0x02) ∧
       (sl.inh = false → kd = .rp → coreOk s coord = true → (getCore s coord).owner ≠ some k.asid → logged 0x03) ∧
       (sl.inh = false → replyBad s kd whole k.asid = none → ¬ met →
         let aw := awaited kd whole k.group
         let live := aw.filter fun g => (getGroup s g).isSome
         (aw ≠ [] → live = [] → returns (sl.setPr 7 2)) ∧
         (aw = [] ∨ live ≠ [] → ∃ undo, exec (.memoryOpPerform task op) s = .next (finishPark (registerWait
           (setSlot (seen kd.size) c i { free sl with undo }) task k (Wait.mk kd g.pa k.asid (whole / 2 ^ 64 % 2 ^ 18)
             (whole / 2 ^ 82 % 2 ^ 4) (BitVec.ofNat 32 (whole / 2 ^ 32)) none live)) c i))))))

/-- Waking, and the wait-for graph's messages (R286, R299 to R302, R356, R357, R359, R362): a woken task's continuation and
status; an account that follows the graph, and a message with a stale generation dropped and counted; a probe that is dropped,
ends, declares a cycle or goes on; a wake message; a record that expires. The model's choices: an account while a removal is
pending (log 45), and the first step of a declared cycle, taken with the declaration (log 30).

The shares that the graph fixes (R301, R358): a waiting group passes its own shares but for the reserve, and what it received
in depth classes 1 to 7, to its recipients in ascending order, the first ones getting one more; received counts are sums over the
lenders. A recipient is a live group other than the lender, runnable or waiting, not being recalled (R360), that an edge leads to;
the edge of a standing cycle that was registered last leads to none: it is the one that a path of earlier edges, each from a
waiting group, closes. -/
def Obligations.GraphEvents : Prop :=
  (∀ (s : State) (t j c : Nat) (st : Pred) (k : TaskSt) (w : Wait) (r : RecAt) (p : Probe) (q : GroupSt) (wm : WakeMsg) (pr : ProbeRec),
    (getTask s t = some k → k.wait = some w → w.stage = none → (w.kind = .bar ∨ w.kind = .rp) → k.place = .parked c r →
      outOfService s k.home = false →
      let v := wakeTask s t st
      let woken := setTask (dropEdges s t) t { k with wait := none, wake := some st }
      getTask v t = some { k with wait := none, wake := some st, place := .queued k.home } ∧
      (getCore v k.home).queue = (getCore s k.home).queue ++ [⟨t, startPrio woken k (.record r), k.launch,
        k.layer, .record r, false, false⟩] ∧
      (∀ e ∈ v.edges, t ∉ e.tasks) ∧ (∀ x, x ≠ t → getTask v x = getTask s x) ∧ v.mem = s.mem) ∧
    (tget s.groups j = some q →
      let g := gidOf j q.gen
      let a := targetOf s g
      (∀ x, getGroup s g = some x → exec (.shareMessage g) s = .next (if x.lost.isSome then s else settleShares s g)) ∧
      (j < 2 ^ 18 → getGroup s g = none → exec (.shareMessage g) s = .next (setDie s q.home
        { getDie s q.home with stale := satInc (getDie s q.home).stale })) ∧
      exec (.gnewGroupSettle j) s = .next (if q.live then groupCheck s g else s) ∧
      (j < 2 ^ 18 → getGroup s g = some q →
        (removalPending s g = true → ∃ inn lent, settleShares s g = setGroup s g { q with
            inn, lent, away := Nat.max q.away a.away } ∧
          ∀ i < 8, nthD inn i = Nat.min (nthD q.inn i) (nthD a.inn i) ∧ nthD inn i - nthD lent i = Nat.min
            (Nat.min (nthD q.inn i - nthD q.lent i) (nthD a.inn i - nthD a.lent i)) (nthD inn i)) ∧
        (removalPending s g = false → settleShares s g =
          setGroup { s with owed := 0 } g { q with inn := a.inn, lent := a.lent, away := a.away }) ∧
        (groupIdle s g = true → (∃ n, q.origin = .gnew n) → q.settled = true → (∀ e ∈ s.edges, e.dst ≠ g) →
          ∃ v, groupCheck s g = v ∧ v.pool = s.pool + q.own ∧ v.owed = s.owed + Nat.min q.away q.own ∧
            ∃ x, tget v.groups j = some x ∧ x.live = false ∧ x.gen = q.gen + 1 ∧ x.own = 0))) ∧
    (tget s.probes j = some p →
      let gone : State := { s with probes := tdel s.probes j }
      (getGroup s p.at_ = none → exec (.probeMessage j) s = .next (dropStale gone p.at_)) ∧
      ((getGroup s p.at_).isSome → groupState s p.at_ ≠ 1 → exec (.probeMessage j) s = .next gone) ∧
      ((getGroup s p.at_).isSome → groupState s p.at_ = 1 → p.at_ = p.origin →
        exec (.probeMessage j) s = .next (declareCycle gone p)) ∧
      ((getGroup s p.at_).isSome → groupState s p.at_ = 1 → p.at_ ≠ p.origin →
        exec (.probeMessage j) s = .next (forwardProbe gone p) ∧
        ((∀ e ∈ s.probeRecs, ¬ (e.2.group = p.at_ ∧ e.2.origin = p.origin ∧ e.2.serial = p.serial)) →
          ∀ e ∈ s.edges, e.src = p.at_ → ∃ x y, tget (forwardProbe gone p).probes x =
            some ⟨p.origin, p.serial, e.dst, p.at_ :: p.path⟩ ∧ y ∈ (forwardProbe gone p).probeRecs ∧
            y.2.group = p.at_ ∧ y.2.origin = p.origin ∧ y.2.serial = p.serial ∧ y.2.next = e.dst))) ∧
    (tget s.wakes j = some wm →
      let gone : State := { s with wakes := tdel s.wakes j }
      exec (.cycleWakeMessage j) s = .next (wakeStep s j wm.path) ∧
      (∀ g next rest, wm.path = g :: next :: rest →
        (getGroup s g = none → wakeStep s j wm.path = dropStale gone g) ∧
        ((getGroup s g).isSome → groupState s g ≠ 1 → wakeStep s j wm.path = gone) ∧
        ((getGroup s g).isSome → groupState s g = 1 → ∀ e ∈ s.tasks, (∀ x ∈ s.tasks, x.1 = e.1 → x = e) →
          e.2.group = g → (∃ y z, e.2.place = .parked y z) → (∃ v, e.2.wait = some v ∧ next ∈ v.groups) →
          (getTask (wakeStep s j wm.path) e.1).map (fun x => (x.wait, x.wake)) = some (none, some 1)))) ∧
    (tget s.probeRecs j = some pr → exec (.probeRecordExpire j) s =
      .next (if pr.time + 8192 ≤ s.now then { s with probeRecs := tdel s.probeRecs j } else s))) ∧
  (∀ (s : State) (g : GroupId) (rs : GroupId → List GroupId) (ls : List GroupId),
    let waiting (h : GroupId) : Prop := groupState s h = 1
    let cut (e : Edge) : Prop := waiting e.src ∧ waiting e.dst ∧
      Relation.ReflTransGen (fun a b => ∃ f ∈ s.edges, f.src = a ∧ f.dst = b ∧ f.time < e.time ∧ waiting a) e.dst e.src
    -- its runnable members are all being saved, and none is parked
    let leaves (x : GroupId) : Prop :=
      let runs (p : Place) : Prop := (∃ c i, p = .resident c i) ∨ ∃ c, p = .queued c
      (∃ e ∈ s.tasks, e.2.group = x ∧ runs e.2.place) ∧ (∀ e ∈ s.tasks, e.2.group = x → ∀ c r, e.2.place ≠ .parked c r) ∧
      ∀ e ∈ s.tasks, e.2.group = x → runs e.2.place →
        ∃ c i sl, e.2.place = .resident c i ∧ slotAt s c i = some sl ∧ sl.recalling = true
    let receives (h x : GroupId) : Prop := x ≠ h ∧ (getGroup s x).isSome ∧ groupState s x ≤ 1 ∧ ¬ leaves x ∧
      ∃ e ∈ s.edges, e.src = h ∧ e.dst = x ∧ ¬ cut e
    let own (h : GroupId) : Nat := match getGroup s h with
      | some r => r.own - r.resv
      | none => 0
    -- what one lender passes in class k, and the part of it that x gets
    let passes (h : GroupId) (k : Nat) : Nat := if k = 0 then own h else (targetOf s h).inn.getD (k - 1) 0
    let part (n : Nat) (h x : GroupId) : Nat := if x ∈ rs h then
      n / (rs h).length + (if (rs h).idxOf x < n % (rs h).length then 1 else 0) else 0
    (s.groups.map Prod.fst).Nodup → (∀ e ∈ s.groups, e.1 < 2 ^ 18) →
    (∀ h, (rs h).Pairwise (fun a b => a.toNat < b.toNat) ∧ ∀ x, x ∈ rs h ↔ receives h x) →
    (ls.Nodup ∧ ∀ h, h ∈ ls ↔ (getGroup s h).isSome ∧ waiting h ∧ rs h ≠ []) →
    (targetOf s g).inn.length = 8 ∧
    (∀ k, k < 8 → (targetOf s g).inn.getD k 0 = (ls.map fun h => part (passes h k) h g).sum) ∧
    (targetOf s g).lent = (if g ∈ ls then (targetOf s g).inn.take 7 else []) ∧
    (targetOf s g).away = if g ∈ ls then own g else 0)

/-- The state of a group (R287), its cores, and the density of a core (R288): the highest of the groups with a member resident
there, of each the shares that it holds of its own and, up to its cap, of others', spread over the cores with a resident
member.

Operating points (R288, R290 to R292, R365): the density's point; a change that needs no charge, one that the bank can
give, one that waits; a raise that waits and whose target has fallen, which is withdrawn; the clock's switch; the raise that has
waited 1 µs; the density is coreDensity, of which the first part says what it is. That a hart runs at OP3 is the model's choice
(log 4). -/
def Obligations.OperatingPoints : Prop :=
  (∀ (s : State) (g : GroupId) (c : Nat) (cs : List Nat),
    let member (f : Place → Prop) (g : GroupId) : Prop := ∃ e ∈ s.tasks, e.2.group = g ∧ f e.2.place
    let resident (c : Nat) (p : Place) : Prop := ∃ i, p = .resident c i
    let runnable := member (fun p => (∃ c, resident c p) ∨ ∃ c, p = .queued c) g
    let parked := member (fun p => ∃ c r, p = .parked c r) g
    let saved := member (fun p => ∃ c r, p = .saved c r) g
    let inn (r : GroupSt) : Nat := ((List.range 8).map fun i => r.inn.getD i 0 - r.lent.getD i 0).sum
    let eff (r : GroupSt) : Nat := r.own - r.away + if r.cap = 0 then inn r else Nat.min (inn r) r.cap
    let sets (n : Nat) : Prop := ∃ x ∈ (getCore s c).slots, ∃ k r, getTask s x.2.task = some k ∧
      getGroup s k.group = some r ∧ nCores s k.group ≠ 0 ∧ n = eff r / nCores s k.group
    (runnable → groupState s g = 0) ∧ (¬ runnable → parked → groupState s g = 1) ∧
    (¬ runnable → ¬ parked → saved → groupState s g = 2) ∧ (¬ runnable → ¬ parked → ¬ saved → groupState s g = 3) ∧
    (cs.Nodup → (∀ x, x ∈ cs ↔ member (resident x) g) → nCores s g = cs.length) ∧
    (∀ n, sets n → n ≤ coreDensity s c) ∧ (coreDensity s c = 0 ∨ sets (coreDensity s c))) ∧
  (∀ (s : State) (c d : Nat) (r : Raise) (rs : List Raise),
    let core := getCore s c
    let want := wantedOp s c
    let die := getDie s (dieKey c)
    let level (n : Nat) : Nat :=
      if n = 0 then 0 else if n ≤ 5 then 1 else if n ≤ 9 then 2 else if n ≤ 14 then 3 else if n ≤ 21 then 4
      else if n ≤ 29 then 5 else if n ≤ 39 then 6 else 7
    let steps (t : State) : State := modCore t c fun k => { k with stepping := true, target := want }
    let held (n : BitVec 16) : BitVec 16 := if n = 0xFFFF then 0xFFFF else n + 1
    let waits := ∃ x ∈ die.raises, x.core = c
    let folded (x : DieSt) : BitVec 16 := if x.holding then held x.slewholds else x.slewholds
    (isControl c = true ∨ isHart c = true → want = 3) ∧
    (isControl c = false → isHart c = false → want = level (coreDensity s c)) ∧
    (isControl c = true ∨ isHart c = true ∨ (waits ∧ core.op < want) ∨ (¬ waits ∧ (core.stepping = true ∨ want = core.op)) →
      exec (.opChange c) s = .next s) ∧
    (isControl c = false → isHart c = false → ¬ waits → core.stepping = false → want ≠ core.op → want ≤ Nat.max 1 core.op →
      exec (.opChange c) s = .next (steps s)) ∧
    (isControl c = false → isHart c = false → core.stepping = false → Nat.max 1 core.op < want → die.raises = [] →
      let cost := 25 * (want - Nat.max 1 core.op)
      (die.spent + cost ≤ 12800 → exec (.opChange c) s =
        .next (setDie (steps s) (dieKey c) { die with spent := die.spent + cost, holding := false, slewholds := folded die })) ∧
      (12800 < die.spent + cost → exec (.opChange c) s =
        .next (setDie (steps s) (dieKey c) { die with raises := [⟨c, s.now⟩], holding := true }))) ∧
    (isControl c = false → isHart c = false → die.raises = [r] → r.core = c → want ≤ core.op → exec (.opChange c) s =
      .next (setDie (if want = core.op then modCore s c fun k => { k with stepping := false, target := k.op } else steps s)
        (dieKey c) { die with raises := [], holding := false, slewholds := folded die })) ∧
    (core.stepping = false ∨ waits → exec (.clockSwitch c) s = .next s) ∧
    (core.stepping = true → ¬ waits → exec (.clockSwitch c) s =
      .next (modCore s c fun k => { k with op := k.target, stepping := false })) ∧
    exec (.slewHoldEnd d) s = .next (serveRaises ((getDie s d).raises.length + 1) s d) ∧
    ((getDie s d).raises = [] → exec (.slewUnassisted d) s = .next s) ∧
    ((getDie s d).raises = r :: rs →
      let fallen := wantedOp s r.core ≤ (getCore s r.core).op
      (s.now < r.since + 1600 → exec (.slewUnassisted d) s = .next s) ∧
      (r.since + 1600 ≤ s.now → fallen → exec (.slewUnassisted d) s = exec (.slewHoldEnd d) s) ∧
      (fallen → rs = [] → ∃ t, exec (.slewHoldEnd d) s = .next t ∧ (getDie t d).raises = [] ∧
        (getDie t d).spent = (getDie s d).spent ∧ (getDie t d).unassisted = (getDie s d).unassisted ∧
        (getDie t d).slewholds = folded (getDie s d) ∧ (getCore t r.core).stepping = false) ∧
      (r.since + 1600 ≤ s.now → ¬ fallen → rs = [] → ∃ t, exec (.slewUnassisted d) s = .next t ∧ (getDie t d).raises = [] ∧
        (getDie t d).spent = (getDie s d).spent ∧ (getDie t d).slewholds = held (getDie s d).slewholds ∧
        (getDie t d).unassisted = held (getDie s d).unassisted ∧ (getCore t r.core).target = wantedOp s r.core ∧
        (getCore t r.core).stepping = true ∧ (getCore t r.core).settle = s.now + 320)))

/-- Events of a core and of its slots (R42, R43, R46, R50 to R53, R66, R103, R201, R212, R331, R332): a claim released, a
block that arrives, a user-level interrupt taken, a task placed with the registers of R42, a record resumed, a launch done,
a pre-emption at a boundary, and the time limits. The model's choices: the level of a task placed from a launch (log 33), and what
an abandoned handler leaves (log 27). -/
def Obligations.CoreEvents : Prop :=
  ∀ (s : State) (c i id blk n : Nat) (sl : SlotSt) (k : TaskSt) (v : UserInt) (vs : List UserInt) (q : QItem) (l : LaunchSt)
    (p : Prefetch),
    let core := getCore s c
    let boundary := sl.hold = .none ∨ (∃ a b d e f, sl.hold = .sleep a b d e f) ∨ ∃ a, sl.hold = .ksendFull a
    let asked : SlotSt := { sl with preReq := some s.now }
    let late (n : Nat) : Prop := ∃ t0, sl.preReq = some t0 ∧ n ≤ s.now - t0
    let unanswered := s.kmsgs.any fun e => e.2.task = sl.task && e.2.pred.isSome
    (slotAt s c i = none → exec (.claimRelease c i id) s = .next s ∧ exec (.userInterruptTake c i) s = .next s) ∧
    (slotAt s c i = some sl → getTask s sl.task = some k →
      ((∀ a b d e f, sl.hold ≠ .sleep a b d e f) → exec (.claimRelease c i id) s = .next (setSlot s c i { sl with
        inflight := sl.inflight.filter fun e => !(e.id = id && e.left.isNone && !e.byOp) })) ∧
      (sl.frozen = some blk → (∀ b ∈ pendingFetches s (clusterOf s c), blk ≤ b) → c ∈ coresAt s (clusterOf s c) →
        ∃ t, exec (.icacheFill c i) s = .next t ∧ slotAt t c i = some { sl with frozen := none } ∧ t.tasks = s.tasks) ∧
      (sl.frozen = some blk → (∃ b ∈ pendingFetches s (clusterOf s c), b < blk) → exec (.icacheFill c i) s = .next s) ∧
      (let ready := sl.inh = false ∧ sl.hold = .none ∧ sl.level = k.level0 ∧ k.ints ≠ []
       (¬ ready → exec (.userInterruptTake c i) s = .next s) ∧
       (ready → k.ints = v :: vs → ∃ r, exec (.userInterruptTake c i) s =
           .next (setSlot (setTask s sl.task { k with ints := vs }) c i r) ∧
         r.pc = v.handler ∧ r.xid = v.xid ∧ r.uepc = 0#8 ++ sl.pc.extractLsb' 4 52 ++ 0#4 ∧ r.inh = true ∧ r.bank = true ∧
         r.upcall = false ∧ r.level = sl.level ∧ r.xs = sl.xs ∧ r.vs = sl.vs ∧ r.ps = sl.ps ∧ r.fpstat = sl.fpstat ∧
         r.hist = [] ∧ r.latA = none ∧ r.latB = none ∧ r.latC = none)) ∧
      (sl.preReq = none → sl.hold = .none → sl.ops = [] → sl.saveWait = none → sl.level = k.level0 → sl.inh = false →
        (unanswered = false → exec (.preemptionRequest c i) s = .next (saveWhole (setSlot s c i asked) c i 1 sl.pc none true none)) ∧
        -- a KSENDT's answer is waited for
        (unanswered = true → exec (.preemptionRequest c i) s = .next (setSlot s c i { asked with hold := .preempt none }))) ∧
      (sl.preReq = none → sl.ops ≠ [] → sl.inh = true →
        exec (.preemptionRequest c i) s = .next (setSlot s c i asked)) ∧
      (let cut := late 1600 ∧ sl.inh = true ∧ sl.level = k.level0 ∧ boundary
       (¬ cut → exec (.handlerCut c i) s = .next s) ∧
       (cut → exec (.handlerCut c i) s = .next (beginPreempt (cutHandler (undoKsend s c i) c i) c i)) ∧
       (cut → (∀ a, sl.hold ≠ .ksendFull a) → undoKsend s c i = s)) ∧
      (let lost := late 3200 ∧ sl.level ≠ k.level0 ∧ boundary
       (¬ lost → exec (.handlerAbandon c i) s = .next s) ∧
       (lost → exec (.handlerAbandon c i) s = .next (holdThen (undoKsend s c i) c i (.abandon (brokenSleep s c i)))) ∧
       (lost → sl.hold = .none → sl.ops ≠ [] →
         exec (.handlerAbandon c i) s = .next (setSlot s c i { sl with hold := .abandon none })) ∧
       (∀ ctr w t e dst, lost → sl.hold = .sleep ctr w t e dst → sl.ops ≠ [] →
         exec (.handlerAbandon c i) s = .next (setSlot s c i { sl with hold := .abandon (some (ctr, dst)) })) ∧
       (lost → sl.hold = .none → sl.ops = [] → sl.saveWait = none → unanswered = false → exec (.handlerAbandon c i) s =
         .next (finishPreempt (toPlacement (setSlot s c i { sl with hold := .abandon none }) c i) c i))) ∧
      (let stuck := late 6400 ∧ ((∃ m ∈ sl.ops, m.lost.isSome) ∨ sl.ops = [] ∧ unanswered = true)
       (¬ stuck → exec (.detachTimeout c i) s = .next s) ∧
       (stuck → exec (.detachTimeout c i) s = .next (saveNow s c i true)))) ∧
    (core.queue = [] → exec (.placement c) s = .next s) ∧
    (core.queue = [q] → q.start = .fresh → getTask s q.task = some k → tget s.launches k.launch = some l → core.slots = [] →
      core.halted = false → core.unavail = false → core.freezing = false → (core.owner = none ∨ core.owner = some k.asid) → k.detached = [] → k.pin = false →
      k.launch ∉ core.images → (∀ b, b < 16 → k.feat.getLsbD b = true → core.feat.getLsbD b = true) → l.argv.length = 8 →
      k.feat.toNat < 128 →
      let taken := modCore s c fun x => { x with queue := [], owner := some k.asid }
      ∃ r, exec (.placement c) s = .next (setTask (modCore (if q.acq then acquireFlash taken c .device else taken) c fun x =>
          { x with slots := [(0, r)] }) q.task { k with place := .resident c 0 }) ∧
        r.task = q.task ∧ r.pc = l.r.entry ∧ r.level = l.level ∧ (∀ j, j < 8 → r.x (j + 1) = l.argv.getD j 0) ∧
        r.x 30 = BitVec.ofNat 64 (0x00FFFFFFFFFF0000 + 4096 * (l.r.lmoff + l.r.lmsize)) ∧
        (∀ j, j < 32 → j = 0 ∨ 8 < j → j ≠ 30 → r.x j = 0) ∧ (∀ j, r.v j = 0) ∧ r.fpstat = 0 ∧ r.ops = [] ∧ r.hold = .none) ∧
    (let due := ∃ e ∈ core.queue, e.start.isRecord = true ∧ (placeable s c e = true ∨ e.waiting = false ∧ admissible s c e = true)
     (due → exec (.continuationResume c) s = .next (serveQueue s c true)) ∧
     (¬ due → exec (.continuationResume c) s = .next (match firmwareTask s c with
      | some (t, r) => enqueueAt (modTask s t fun k => { k with fw := false }) t c (.record r)
          (match getTask s t with | some k => k.home ≠ c | none => false)
      | none => s)) ∧
     (core.halted = true ∨ core.unavail = true ∨ core.freezing = true → firmwareTask s c = none ∧
       ∀ e ∈ core.queue, (getTask s e.task).isSome → placeable s c e = false) ∧
     -- what the firmware queues here, and that a record pinned to another core, or one that an answer is to reach, waits
     (∀ t r, firmwareTask s c = some (t, r) → ∃ e ∈ s.tasks, e.1 = t ∧ (∃ d, e.2.place = .saved d r ∨ e.2.place = .parked d r) ∧
       e.2.fw = true ∧ (∀ d r', e.2.kept = some (d, r') → d = c ∨ recordPin s e.2 r = false) ∧
       (e.2.home = c ∨ (getCore s e.2.home).halted = true ∨ (getCore s e.2.home).unavail = true)) ∧
     (∀ e r k, e.start = .record r → getTask s e.task = some k →
       (∃ m ∈ s.kmsgs, m.2.task = e.task ∧ m.2.pred.isSome) → placeable s c e = false) ∧
     (∀ e r k d r', e.start = .record r → getTask s e.task = some k → k.kept = some (d, r') → d ≠ c → recordPin s k r = true →
       placeable s c e = false)) ∧
    (tget s.launches n = some l →
      let over_ := (∀ e ∈ s.tasks, e.2.launch = n → e.2.place.isEnded = true ∧ outstanding s e.1 = []) ∧
        ∀ e ∈ s.cores, ∀ b ∈ e.2.stages, b.2.launch ≠ n
      (l.done = true ∨ ¬ over_ → exec (.doneIncrement n) s = .next s) ∧
      (l.done = false → over_ → ∃ t, exec (.doneIncrement n) s = .next t ∧ (∀ e ∈ t.tasks, e.2.launch ≠ n) ∧
        (l.r.doneEn = false → tget t.launches n = none) ∧
        (l.r.doneEn = true → tget t.launches n = some { l with done := true } ∧ tget t.cmsgs s.seq =
          some { coord := l.r.doneCoord, ctr := l.r.doneCtr, add := 1, asid := some l.r.asid, launch := some n }))) ∧
    -- the number is free once the increment is performed
    (∀ m, tget s.cmsgs id = some m → m.link = none → m.launch = some n →
      (getCore s m.coord).firedAt ≠ some s.now → (getCore s m.coord).trigAt ≠ some s.now → (getCore s m.coord).freezing = false →
      ∃ t, exec (.counterUpdate id) s = .next t ∧ tget t.launches n = none) ∧
    -- a block of code gives way to the demand fetches of its cluster
    (tget s.fetches id = some p →
      let behind := ∃ d asid b w, p = .code d asid b w ∧ pendingFetches s (clusterOf s d) ≠ []
      (behind → exec (.prefetchFill id) s = .next s) ∧
      (¬ behind → exec (.prefetchFill id) s = .next (fillLine { s with fetches := tdel s.fetches id } p))) ∧
    (tget s.fetches id = none → exec (.prefetchFill id) s = .next s)

/-- Events of memory and translation (R7, R19, R155, R179, R183, R337 to R344): an eviction writes the dirty bytes back; after
TBINV1 no translation and no near line that it covers is held, and its end is told once the accesses it waits for are
performed; a ring set up; a notice; an answer that names no open request; registers, and the remap tables, which every level
reads. The model's choices: the increments of a notice and of TBINV1, not judged against an owner, and the ASID of the latter (log
35); the mark of a notice, held by the pc of its instruction (log 13); reserved flag bits written as zero (log 48); what a
task-level read of another register gives (log 47); when the end of TBINV1 comes (log 39). -/
def Obligations.MemoryEvents : Prop :=
  ∀ (s : State) (cl asid line c id vf j task : Nat) (k : TaskSt) (l : NearLine) (b : TbInv) (w : Word) (f : Faulter),
    s.memOk = true →
    (nearFind s cl asid line = none → exec (.nearCacheEvict cl asid line) s = .next s) ∧
    (nearFind s cl asid line = some l → ∃ t, exec (.nearCacheEvict cl asid line) s = .next t ∧
      nearFind t cl asid line = none ∧ (∀ n, n < 128 → l.dirty.getLsbD n = true → rd t.mem (l.pa + n) = l.data.extractLsb' (8 * n) 8) ∧
      (∀ x, (∀ n, n < 128 → l.dirty.getLsbD n = true → x ≠ l.pa + n) → rd t.mem x = rd s.mem x) ∧ t.cores = s.cores) ∧
    (∃ t, exec (.tbinv1Write c w) s = .next t ∧
      let tb0 := (tget s.gw.tb0 c).getD 0
      tget t.gw.tb1 c = some (w &&& 0x7FFFFF) ∧ (∀ e ∈ t.tlb, tbTouches tb0 e = false) ∧
      (∀ e ∈ s.clusters, ∀ x ∈ (getCluster t e.1).near, tbCovers tb0 x.asid (128 * x.line) = false) ∧
      ∃ n x, tget t.tbinvs n = some x ∧ x.core = c ∧ x.tb0 = tb0 ∧ x.tb1 = w &&& 0x7FFFFF ∧
        ∀ e ∈ translated s, tbWaits tb0 e.2 = true → e.1 ∈ x.wait) ∧
    (tget s.tbinvs id = some b →
      ((∃ n ∈ b.wait, ∃ e ∈ translated s, e.1 = n) → exec (.tbInvalidationDone id) s = .next s) ∧
      ((∀ n ∈ b.wait, ∀ e ∈ translated s, e.1 ≠ n) → ∃ t, exec (.tbInvalidationDone id) s = .next t ∧ tget t.tbinvs id = none ∧
        (b.tb1.getLsbD 22 = true → ∃ n, tget t.cmsgs n =
          some {
          coord := (b.tb1.extractLsb' 0 18).toNat, ctr := (b.tb1.extractLsb' 18 4).toNat, add := 1
          asid := some (b.tb0.extractLsb' 0 10).toNat, judged := false }))) ∧
    (let who := s.gw.fqsel.toNat
     exec (.fqringWrite w) s =
       .next (setRing s who { getRing s who with cfg := w &&& 0x800FFFFFFFFFF01F, next := 0 })) ∧
    exec (.errcfgWrite w) s = .next { s with gw := { s.gw with errcfg := w &&& 0x800FFFFFFFFFF01F, errnext := 0, errlast := [] } } ∧
    (let note : State := { s with gw := { s.gw with fqnote := w &&& 0x1FFF3FF } }
     let who := (w.extractLsb' 0 10).toNat
     let n := (w.extractLsb' 12 12).toNat
     let fail := w.getLsbD 24
     let ring := getRing s who
     let a := recAddr ring n
     let flags := rdNat s.mem a 1
     let open_ := n < 2 ^ fld ring.cfg 4 0 ∧ flags % 2 = 1 ∧ flags / 4 % 2 = 0
     (¬ open_ → exec (.fqnoteWrite w) s = .next note) ∧
     -- one attached task, no command, no Husk access and no save that waits on the record
     (open_ → ring.tasks = [f] → f.record = n → (∀ m ∈ s.cmds, ∀ rs, m.2.state = .waiting rs → n ∉ rs) →
       (∀ e ∈ s.cores, (∀ x ∈ e.2.stages, x.2.await = none) ∧ ∀ x ∈ e.2.slots, x.2.saveWait = none) →
       (∀ d, ∀ x ∈ (getCore s d).slots, x.2.saveWait = none) → ∃ t, exec (.fqnoteWrite w) s = .next t ∧
         rdNat t.mem a 1 = (flags % 16 ||| if fail then 12 else 4) ∧ (∀ x, x ≠ a → rd t.mem x = rd s.mem x) ∧
         (getRing t who).tasks = [] ∧ t.cores = s.cores ∧
         tget t.cmsgs s.seq = some { coord := f.core, ctr := fld ring.cfg 51 48, add := 1, asid := some who, judged := false } ∧
         (fail = true → ∀ k, getTask s f.task = some k → getTask t f.task = some { k with marks := k.marks ++ [(f.pc, f.trap.orDetail 8)] }))) ∧
    (let tag := (w.extractLsb' 8 12).toNat
     let q := getPrq s vf
     ((∀ e ∈ q.open_, e.1 ≠ tag) → exec (.prrespWrite vf w) s = .next (setPrq s vf { q with resp := w &&& 0x1FFF00 })) ∧
     (q.tasks = [] → q.cmds = [] → (∃ e ∈ q.open_, e.1 = tag) →
       (∀ e ∈ s.cores, (∀ x ∈ e.2.stages, x.2.await = none) ∧ ∀ x ∈ e.2.slots, x.2.saveWait = none) →
       exec (.prrespWrite vf w) s =
         .next (setPrq s vf { q with resp := w &&& 0x1FFF00, open_ := q.open_.filter fun e => e.1 ≠ tag })) ∧
     -- one suspended task
     (q.tasks = [(tag, task)] → q.cmds = [] → (∃ e ∈ q.open_, e.1 = tag) → getTask s task = some k →
       (∃ r d, k.place = .saved d r) → k.wait = none →
       (∀ e ∈ s.cores, (∀ x ∈ e.2.stages, x.2.await = none) ∧ ∀ x ∈ e.2.slots, x.2.saveWait = none) →
       (∀ d, (∀ x ∈ (getCore s d).stages, x.2.await = none) ∧ ∀ x ∈ (getCore s d).slots, x.2.saveWait = none) →
       ∃ t p, exec (.prrespWrite vf w) s = .next t ∧ getTask t task = some { k with missFail := w.getLsbD 20, place := .queued p } ∧
         t.mem = s.mem ∧ ∀ x, x ≠ task → getTask t x = getTask s x)) ∧
    ((∀ e ∈ s.gw.prq, ∀ x ∈ e.2.retry, x.id ≠ id) → exec (.pageRequestRetry id) s = .next s) ∧
    (∀ r u n, s.gw.prq = [(vf, { getPrq s vf with retry := [r] })] → r.id = id →
      (s.now < r.time + 4096 → exec (.pageRequestRetry id) s = .next s) ∧
      (r.time + 4096 ≤ s.now → pagePost s vf r.asid r.gpa r.kinds = (u, none) → exec (.pageRequestRetry id) s =
        .next (setPrq u vf { getPrq u vf with retry := [{ r with time := s.now }] })) ∧
      (r.time + 4096 ≤ s.now → pagePost s vf r.asid r.gpa r.kinds = (u, some n) →
        (∀ x, r.who = .cmd x → exec (.pageRequestRetry id) s =
          .next (setPrq u vf { getPrq u vf with retry := [], cmds := (getPrq u vf).cmds ++ [(n, x)] })) ∧
        (∀ x, r.who = .task x → exec (.pageRequestRetry id) s =
          .next (setPrq u vf { getPrq u vf with retry := [], tasks := (getPrq u vf).tasks ++ [(n, x)] })) ∧
        (∀ d x, r.who = .husk d x → ∃ t, exec (.pageRequestRetry id) s = .next t ∧ (getPrq t vf).retry = [] ∧
          ∀ p, tget (getCore s d).stages x = some p → p.await = some (true, unposted + id) →
            (tget (getCore t d).stages x).map (fun p => p.await) = some (some (true, n))))) ∧
    -- registers without a behaviour of their own (R7)
    exec (.registerWrite .fqsel w) s = .next { s with gw := { s.gw with fqsel := w.setWidth 10 } } ∧
    exec (.registerWrite (.tbinv0 c) w) s = .next { s with gw := { s.gw with tb0 := tset s.gw.tb0 c (w &&& 0x00FFFFFFFFFF0FFF) } } ∧
    exec (.registerWrite .errsig w) s = .next { s with gw := { s.gw with errsig := w &&& 0x7FFFF } } ∧
    (∀ t, exec (.registerWrite .errsig w) s = .next t → regRead t 1 (.plain .errsig) = some (w &&& 0x7FFFF)) ∧
    (∀ r, (∀ d i, r ≠ .clusterRemap d i ∧ r ≠ .coreRemap d i) → regRead s 0 r = none) ∧
    (∀ lv d i x, d < 40 → i < 1000 → tget (getDie s d).clusterMap i = some x →
      regRead s lv (.clusterRemap d i) = some ((x &&& 0x83FF).setWidth 64)) ∧
    (∀ lv d i x, d < 40 → i < 16 → (getDie s d).coreMap[i]? = some x → ∃ v : Word, regRead s lv (.coreRemap d i) = some v ∧
      v.getLsbD 31 = x.valid ∧ v.extractLsb' 18 6 = BitVec.ofNat 6 x.lrow ∧ v.extractLsb' 12 6 = BitVec.ofNat 6 x.lcol ∧
      v.extractLsb' 6 6 = BitVec.ofNat 6 x.prow ∧ v.extractLsb' 0 6 = BitVec.ofNat 6 x.pcol) ∧
    (∀ f, slRegRead s 256 f = 0) ∧
    (∃ t, exec (.registerWrite (.wgcnt j) w) s = .next t ∧
      (getDie t j).stale = (getDie s j).stale &&& ~~~ w.extractLsb' 48 16 ∧
      (getDie t j).cycles = (getDie s j).cycles &&& ~~~ w.extractLsb' 32 16 ∧
      (getDie t j).orphans = (getDie s j).orphans &&& ~~~ w.extractLsb' 16 16 ∧
      (getDie t j).unassisted = (getDie s j).unassisted &&& ~~~ w.extractLsb' 0 16) ∧
    (∃ t, exec (.registerWrite (.ecccnt j) w) s = .next t ∧ (getDie t j).thresh = w.extractLsb' 48 16 ∧
      (getDie t j).uncorr = (getDie s j).uncorr &&& ~~~ w.extractLsb' 32 16 ∧
      (getDie t j).corr = (getDie s j).corr &&& ~~~ w.extractLsb' 0 32) ∧
    (∀ pa, pa % 8 = 0 → ∃ t, exec (.registerWrite (.table pa) w) s = .next t ∧ rdNat t.mem pa 8 = w.toNat ∧
      ∀ x, x < pa ∨ pa + 8 ≤ x → rd t.mem x = rd s.mem x)

/-- Events of the device (R47, R48, R366, R368, R375 to R378): the host's accesses, a flit resent and a link declared down, what
is lost with it, a corrected and an uncorrectable error, a frozen core, device reset, boot. The model's choices: a boot only
while no launch is live, what a device reset keeps, what a closed aperture answers, and the degraded status (log 47); which
resends are in a row (log 46); reset values that the spec does not give (logs 2 and 4). -/
def Obligations.DeviceEvents : Prop :=
  ∀ (s : State) (vf col n d p c off t0 link : Nat) (v : BitVec 32) (x : Bar2Access) (m : MemOp) (b : BootInfo) (task op : Nat),
    s.memOk = true →
    (let seen := vf = 0 ∨ tget s.gw.vfctrs (8 * col + n) = some vf
     let fired := (getCore s (4096 * 56 + col)).firedAt = some s.now ∨ (getCore s (4096 * 56 + col)).trigAt = some s.now
     col < 16 →
     (n < 8 → seen → fired → exec (.hostCounterWrite (16 * vf + col) n v) s =
       .next { s with seq := s.seq + 1
                      cmsgs := tset s.cmsgs s.seq { coord := 4096 * 56 + col, ctr := n, add := v, asid := none } }) ∧
     (n < 8 → seen → ¬ fired → ∃ t, exec (.hostCounterWrite (16 * vf + col) n v) s = .next t ∧
       ∀ q j, ctrOf t q j = if q = 4096 * 56 + col ∧ j = n then ctrOf s q j + v else ctrOf s q j) ∧
     (¬ (n < 8 ∧ seen) → exec (.hostCounterWrite (16 * vf + col) n v) s = .next s)) ∧
    (let r := (tget s.gw.apr (x.off / 2 ^ 32 % 16)).getD 0
     let va := (r.extractLsb' 0 24).toNat * 2 ^ 32 + x.off % 2 ^ 32
     let asid := (r.extractLsb' 42 10).toNat
     let opened := r.getLsbD 63 = true ∧ (r.extractLsb' 52 6).toNat = x.vf
     (opened → va < 0x00FFFFFFFFFF0000 → x.write = true → ∀ u, devWrite s asid va x.data = .ok u →
       exec (.hostBar2Access x) s = .next u) ∧
     (opened → va < 0x00FFFFFFFFFF0000 → x.write = false → ∀ u bs, devRead s asid va x.len = .ok (u, bs, none) →
       exec (.hostBar2Access x) s = .next { u with gw := { u.gw with hostdata := bs } }) ∧
     (¬ opened → x.vf = 0 → exec (.hostBar2Access x) s = .next (hostAbort s x 0 0)) ∧
     (¬ opened → x.vf ≠ 0 → (r.extractLsb' 52 6).toNat ≠ x.vf → exec (.hostBar2Access x) s =
       .next (if x.write then s else { s with gw := { s.gw with hostdata := List.replicate x.len 0xFF } }))) ∧
    (let die := getDie s d
     -- resends in a row: none has gone through within the time to cross the link twice
     let sent := match tget die.resends p with
       | some (n, t) => if s.now ≤ t + (if 4 ≤ p then 64 else 48) then n else 0
       | none => 0
     let dead := linkEnd d p = none ∨ p ∈ die.links
     (dead → exec (.linkFlitResend d p) s = .next s) ∧
     (¬ dead → sent < 16 → exec (.linkFlitResend d p) s = .next (setDie s d { die with resends := tset die.resends p (sent + 1, s.now) })) ∧
     (¬ dead → 16 ≤ sent → exec (.linkFlitResend d p) s = .next (declareDown s d p) ∧
       exec (.linkDown d p) s = .next (declareDown s d p)) ∧
     (sent < 16 → exec (.linkDown d p) s = .next s) ∧
     (∀ d2 p2, linkEnd d p = some (d2, p2) → p ∉ die.links → (d2, p2) ≠ (d, p) →
       p ∈ (getDie (declareDown s d p) d).links ∧ p2 ∈ (getDie (declareDown s d p) d2).links ∧
       (d ≠ d2 → (getDie (declareDown s d p) d).topo = die.topo + 1 ∧
         (getDie (declareDown s d p) d2).topo = (getDie s d2).topo + 1))) ∧
    (findOp s task op = some m →
      (m.lost = none → exec (.linkLossComplete task op) s = .next s) ∧
      (m.lost = some (t0, link) → exec (.linkLossComplete task op) s =
        .next (if t0 + 32000 ≤ s.now then performLost s task link m else s))) ∧
    (∀ g, findOp s task op = none → tget s.cmsgs op = some g → exec (.linkLossComplete task op) s = .next (match g.link with
      | some (t, l) => if t + 32000 ≤ s.now then messageLost s op l g else s
      | none => s)) ∧
    (∀ g r, getGroup s g = some r → findOp s task (2 ^ 40 + g.toNat) = none → tget s.cmsgs (2 ^ 40 + g.toNat) = none →
      exec (.linkLossComplete task (2 ^ 40 + g.toNat)) s = .next (match r.lost with
        | some (t, l) => if t + 32000 ≤ s.now then shareLost s g r l else s
        | none => s)) ∧
    (off < 65536 → ∃ t, exec (.eccError (.localMem c off) true) s = .next t ∧ (lmRead t c off 1).2 = true ∧
      (∀ q, (getCore t q).lmem = (getCore s q).lmem) ∧ (getDie t (dieKey c)).uncorr = satInc (getDie s (dieKey c)).uncorr) ∧
    (∃ t, exec (.eccError (.localMem c off) false) s = .next t ∧ t.cores = s.cores ∧
      (getDie t (dieKey c)).corr = satInc (getDie s (dieKey c)).corr ∧ ∀ w ∈ t.mpoison, w ∈ s.mpoison) ∧
    ((coreOk s c = false ∨ isHart c = true) → exec (.coreFreeze c) s = .next s) ∧
    (coreOk s c = true → isControl c = true → isHart c = false → (getCore s c).slots = [] → (getCore s c).queue = [] →
      (getCore s c).mq = [] → (getCore s c).pod = [] → ∃ t, exec (.coreFreeze c) s = .next t ∧
        (getCore t c).unavail = true ∧ (getCore t c).lmem = (getCore s c).lmem ∧ ∀ q, q ≠ c → getCore t q = getCore s q) ∧
    (coreOk s c = true → isControl c = false → isHart c = false → (getCore s c).slots = [] → (getCore s c).mq = [] →
      (getCore s c).pod = [] → ∀ site x, spareSite (noteFrozen s c) (dieOf c) = some site →
      remapCore (getDie (noteFrozen s c) (dieOf c)) c site = some x →
      ∃ t, exec (.coreFreeze c) s = .next t ∧ getDie t (dieOf c) = x ∧ x.topo = (getDie s (dieOf c)).topo + 1 ∧
        ∀ q, (getCore t q).lmem = (getCore s q).lmem ∧ (getCore t q).ctrs = (getCore s q).ctrs) ∧
    -- a freeze waits for direct accesses, for a KSENDT's answer and for the matrix queue, and meanwhile nothing issues there
    ((getCore s c).freezing = true → coreOk s c = true → isHart c = false →
      (∀ i sl, (getCore s c).slots = [(i, sl)] → (∀ id, sl.hold ≠ .ksend id) → (∀ a b d e, sl.hold ≠ .saving a b d e) →
        ((∃ o ∈ sl.ops, o.lost = none) ∨ ∃ e ∈ s.kmsgs, e.2.task = sl.task ∧ e.2.pred.isSome) →
        exec (.coreFreeze c) s = .next s) ∧
      ((getCore s c).slots = [] → (getCore s c).mq ≠ [] → exec (.coreFreeze c) s = .next s) ∧
      clockRuns s c = false) ∧
    -- a word of a near cache or of a read-only cache is poisoned
    (∀ cl asid line w l, w < 32 → nearFind s cl asid line = some l → l.valid.getLsbD w = true → ∃ t l', exec (.eccError (.nearWord cl asid line w) true) s = .next t ∧
      nearFind t cl asid line = some l' ∧ l'.poison.getLsbD w = true ∧ l'.data = l.data ∧
      ∀ j, j < 32 → j ≠ w → l'.poison.getLsbD j = l.poison.getLsbD j) ∧
    exec .deviceReset s = .next { State.reset with
      agenda := s.agenda, mem := s.mem, mpoison := s.mpoison, keys := s.keys, epochs := s.epochs, cmps := s.cmps
      seq := s.seq, resets := s.resets + 1 } ∧
    (s.launches ≠ [] → exec (.boot b) s = .next s) ∧
    (s.launches = [] → ∃ t, exec (.boot b) s = .next t ∧ t.mem = s.mem ∧ t.launches = [] ∧ t.tasks = s.tasks ∧
      (let gs := (List.range 8).filter fun i => b.gwlost.getLsbD i
       let ds := (List.range 40).filter fun i => b.dielost.getLsbD i
       t.gw.bootstat.extractLsb' 0 40 = b.dielost ∧ t.gw.bootstat.extractLsb' 40 8 = b.gwlost ∧
       t.gw.bootstat.extractLsb' 50 11 = (if gs = [] then 1024 else 896) ∧
       t.gw.bootstat.extractLsb' 61 2 = (if 0 ∈ gs ∨ 2 ≤ gs.length then 2 else if gs = [] ∧ ds = [] then 0 else 1) ∧
       t.pool = s.pool - 40000 * ds.length ∧ (∀ i ∈ ds, (getDie t i).lost = true) ∧ (∀ g ∈ gs, (getDie t (40 + g)).lost = true)))
end

