-- ==== Sys2Proof/Laws/Decode.lean ====
section
/-!
SUPPORT. What the parts of the decoder do with what the encoder writes: fields of joined bits, codes of the field types,
register numbers, and a whole word of either layout.
-/
set_option Elab.async false
namespace Sys2Proof.Laws

/-! ### Fields of joined bits -/

theorem extract_lo {n m : Nat} (x : BitVec n) (y : BitVec m) (s k : Nat) (h : s + k ≤ m) :
    (x ++ y).extractLsb' s k = y.extractLsb' s k := by
  ext i hi
  simp only [BitVec.getElem_extractLsb', BitVec.getLsbD_append]
  have : s + i < m := by omega
  simp [this]

theorem extract_hi {n m : Nat} (x : BitVec n) (y : BitVec m) (s k : Nat) (h : m ≤ s) :
    (x ++ y).extractLsb' s k = x.extractLsb' (s - m) k := by
  ext i hi
  simp only [BitVec.getElem_extractLsb', BitVec.getLsbD_append]
  have : ¬ s + i < m := by omega
  simp [this]
  congr 1
  omega

theorem extract_all {n : Nat} (x : BitVec n) : x.extractLsb' 0 n = x := by
  ext i hi
  simp

theorem extract_zero (n s k : Nat) : (0#n).extractLsb' s k = 0#k := by
  ext i hi
  simp

theorem extract_set_lo {n m : Nat} (x : BitVec n) (h : n ≤ m) : (x.setWidth m).extractLsb' 0 n = x := by
  ext i hi
  simp only [BitVec.getElem_extractLsb', BitVec.getLsbD_setWidth]
  have : 0 + i < m := by omega
  simp [hi]
  omega

theorem set_set {n m : Nat} (x : BitVec n) (h : n ≤ m) : (x.setWidth m).setWidth n = x := by
  ext i hi
  have : i < m := by omega
  simp [this, BitVec.getLsbD_eq_getElem hi]

theorem parts_split_join (p : Parts) : Parts.split p.join = p := by
  cases p
  simp (disch := omega) only [Parts.split, Parts.join, extract_lo, extract_hi, extract_all, Nat.reduceSub, Nat.sub_self]

@[simp] theorem gops_split_join (g : GOps) : GOps.split g.join = g := by
  cases g
  simp (disch := omega) only [GOps.split, GOps.join, extract_lo, extract_hi, extract_all, Nat.reduceSub, Nat.sub_self]

@[simp] theorem mops_split_join (m : MOps) : MOps.split m.join = m := by
  cases m
  simp (disch := omega) only [MOps.split, MOps.join, extract_lo, extract_hi, extract_all, Nat.reduceSub, Nat.sub_self]

/-! ### Codes -/

@[simp] theorem flag_bit (b : Bool) : flag (bit b) = b := by cases b <;> rfl
@[simp] theorem flag_zero : flag 0#1 = false := rfl
@[simp] theorem flag_one : flag 1#1 = true := rfl
@[simp] theorem fin8_ofFin (k : Fin 8) : fin8 (BitVec.ofFin k) = k := rfl
@[simp] theorem cntr_ofFin (k : Fin 16) : cntr (BitVec.ofFin k) = k := rfl
@[simp] theorem rnd_code (t : Rnd) : Rnd.ofCode t.code = some t := by cases t <;> rfl
@[simp] theorem fty_code (t : FTy) : FTy.ofCode t.code = some t := by cases t <;> rfl
@[simp] theorem ity_code (t : ITy) : ITy.ofCode t.code = some t := by cases t <;> rfl
@[simp] theorem lty_code (t : LTy) : LTy.ofCode t.code = some t := by rcases t with t | t <;> cases t <;> rfl
@[simp] theorem cty_code (t : CTy) : CTy.ofCode t.code = some t := by cases t <;> rfl
@[simp] theorem mty_code (t : MTy) : MTy.ofCode t.code = some t := by cases t <;> rfl
@[simp] theorem dfmt_code (t : DFmt) : DFmt.ofCode t.code = some t := by cases t <;> rfl
@[simp] theorem cc_code (t : Cc) : Cc.ofCode t.code = some t := by cases t <;> rfl
@[simp] theorem fcc_code (t : FCc) : FCc.ofCode t.code = some t := by cases t <;> rfl
@[simp] theorem brtest_code (t : BrTest) : BrTest.ofCode t.code = some t := by cases t <;> rfl
@[simp] theorem size_code (t : Size) : Size.ofCode t.code = some t := by cases t <;> rfl
@[simp] theorem sync_code (t : Sync) : Sync.ofCode t.code = some t := by cases t <;> rfl
@[simp] theorem scope_code (t : Scope) : Scope.ofCode t.code = some t := by cases t <;> rfl
@[simp] theorem amoop_code (t : AmoOp) : AmoOp.ofCode t.code = some t := by cases t <;> rfl
@[simp] theorem pfxtarget_code (t : PfxTarget) : PfxTarget.ofCode t.code = some t := by cases t <;> rfl
@[simp] theorem tblsrc_code (t : TblSrc) : TblSrc.ofCode t.code = some t := by cases t <;> rfl
@[simp] theorem mtblsrc_code (t : MtblSrc) : MtblSrc.ofCode t.code = some t := by cases t <;> rfl
@[simp] theorem creg_code (t : CReg) : CReg.ofCode t.code = some t := by cases t <;> rfl
@[simp] theorem claim_bits (c : Claim) : Claim.ofBits c.mode c.idx = some c := by cases c <;> rfl

@[simp] theorem want_some {α : Type} (x : α) (k : α → Decoded) : want (some x) k = k x := rfl
@[simp] theorem need_true (k : Decoded) : need true k = k := rfl

theorem num_toNat {n : Nat} (r : Fin n) (h : n ≤ 64) : (num r).toNat = r.val := by
  have := r.isLt
  simp [num]
  omega

theorem reg_num {n : Nat} (r : Fin n) (k : Fin n → Decoded) (h : n ≤ 64) : reg n (num r) k = k r := by
  have hr := num_toNat r h
  simp [reg, hr]

@[simp] theorem reg4 (r : Fin 4) (k : Fin 4 → Decoded) : reg 4 (num r) k = k r := reg_num r k (by omega)
@[simp] theorem reg8 (r : Fin 8) (k : Fin 8 → Decoded) : reg 8 (num r) k = k r := reg_num r k (by omega)
@[simp] theorem reg16 (r : Fin 16) (k : Fin 16 → Decoded) : reg 16 (num r) k = k r := reg_num r k (by omega)
@[simp] theorem reg32 (r : Fin 32) (k : Fin 32 → Decoded) : reg 32 (num r) k = k r := reg_num r k (by omega)

/-- An ordering that the entry allows is read back. -/
theorem ordOf_ofOrd (o : Ord) (m : MOps) (allow : Ord → Bool) (k : Ord → Decoded)
    (hs : m.stream = BitVec.ofFin o.stream) (ha : m.after = o.after) (hy : m.sync = o.sync.code)
    (hc : m.scope = o.scope.code) (h : allow o = true) : ordOf m allow k = k o := by
  simp [ordOf, hs, ha, hy, hc, h]

theorem ord_eta (o : Ord) : (⟨o.stream, o.after, o.sync, o.scope⟩ : Ord) = o := rfl

@[simp] theorem num_eq_zero (r : Fin 32) : (num r == (0#6)) = (r == 0) := by revert r; decide

@[simp] theorem num_eq_zero16 (r : Fin 16) : (num r == (0#6)) = (r == 0) := by revert r; decide

theorem num_mod_four (r : Fin 32) : (num r).toNat % 4 = r.val % 4 := by rw [num_toNat r (by omega)]

theorem bit_lt_two (b : Bool) : ((0 : BitVec 5) ++ bit b).toNat < 2 := by cases b <;> decide

theorem fits_setWidth {k : Nat} (n : Nat) (x : BitVec k) (h : k ≤ n) (h' : n ≤ 48) : fits n (x.setWidth 48) = true := by
  have h1 := x.isLt
  have h2 : 2 ^ k ≤ 2 ^ n := Nat.pow_le_pow_right (by omega) h
  have h3 : 2 ^ n ≤ 2 ^ 48 := Nat.pow_le_pow_right (by omega) h'
  simp only [fits, BitVec.toNat_setWidth, decide_eq_true_eq]
  rw [Nat.mod_eq_of_lt (by omega)]
  omega

theorem half_lt (x : BitVec 16) : (x.setWidth 32).toNat < 65536 := by
  rw [BitVec.toNat_setWidth]
  exact Nat.lt_of_le_of_lt (Nat.mod_le _ _) x.isLt

theorem fits_bit (b : Bool) : fits 1 ((0 : BitVec 47) ++ bit b) = true := by cases b <;> decide

theorem fits_pair (x y : BitVec 6) : fits 12 ((0 : BitVec 36) ++ x ++ y) = true := by
  have h1 := x.isLt
  have h2 := y.isLt
  simp only [fits, BitVec.toNat_append, decide_eq_true_eq]
  rw [Nat.shiftLeft_eq, ← Nat.shiftLeft_eq, ← Nat.shiftLeft_add_eq_or_of_lt h2, Nat.shiftLeft_eq]
  have : (0 : BitVec 36).toNat <<< 6 ||| x.toNat = x.toNat := by simp
  rw [this]
  omega

/-! ### Whole words -/

theorem decode_word (h : Hdr) (cls : BitVec 4) (fn : BitVec 8) (ops : BitVec 84) (h1 : cls.toNat ≠ 15)
    (h2 : fn.toNat ≤ lastFn cls.toNat) (h3 : cls.toNat ≠ 0 ∨ fn.toNat ≠ 0) :
    decode (Parts.join ⟨h.pace, bit h.yld, h.reuse, h.claim.mode, h.claim.idx, h.wait, bit h.neg, BitVec.ofFin h.guard, 0,
      cls, fn, ops⟩) = decodeOps h cls.toNat fn.toNat ops := by
  rw [decode, parts_split_join]
  have h4 : ¬ (fn.toNat > lastFn cls.toNat) := by omega
  have h5 : (cls.toNat == 0 && fn.toNat == 0) = false := by
    rcases h3 with h3 | h3 <;> simp [h3]
  simp [h1, h4, h5, Parts.hdr]

theorem decode_gWord (h : Hdr) (cls : BitVec 4) (fn : BitVec 8) (g : GOps) (h1 : cls.toNat ≠ 15)
    (h2 : fn.toNat ≤ lastFn cls.toNat) (h3 : cls.toNat ≠ 0 ∨ fn.toNat ≠ 0) :
    decode (gWord h cls fn g) = decodeOps h cls.toNat fn.toNat g.join := decode_word h cls fn g.join h1 h2 h3

theorem decode_mWord (h : Hdr) (cls : BitVec 4) (fn : BitVec 8) (m : MOps) (h1 : cls.toNat ≠ 15)
    (h2 : fn.toNat ≤ lastFn cls.toNat) (h3 : cls.toNat ≠ 0 ∨ fn.toNat ≠ 0) :
    decode (mWord h cls fn m) = decodeOps h cls.toNat fn.toNat m.join := decode_word h cls fn m.join h1 h2 h3

end Sys2Proof.Laws
end

