-- ==== Sys2Proof/Laws/Table.lean ====
section
/-!
SUPPORT. Keyed tables behave as maps, and byte memories keep their canonical form.
-/
set_option Elab.async false
namespace Sys2Proof.Laws

open Sys2Proof.Machine

/-! ### Keyed tables -/

@[simp] theorem tget_tset_self {α : Type} (t : Tab α) (q : Nat) (x : α) : tget (tset t q x) q = some x := by
  induction t with
  | nil => simp [tset, tget]
  | cons e t ih =>
    obtain ⟨k, v⟩ := e
    simp only [tset]
    split
    · simp [tget]
    · split
      · simp [tget]
      · rename_i h1 h2
        have : ¬ k = q := fun h => h2 h.symm
        simp [tget, this, ih]

theorem tget_tset_ne {α : Type} (t : Tab α) {q r : Nat} (x : α) (h : r ≠ q) : tget (tset t q x) r = tget t r := by
  induction t with
  | nil => simp [tset, tget, h.symm]
  | cons e t ih =>
    obtain ⟨k, v⟩ := e
    simp only [tset]
    split
    · simp [tget, h.symm]
    · split
      · rename_i h1 h2
        subst h2
        simp [tget, h.symm]
      · simp only [tget, ih]

@[simp] theorem tset_tset {α : Type} (t : Tab α) (q : Nat) (x y : α) : tset (tset t q x) q y = tset t q y := by
  induction t with
  | nil => simp [tset]
  | cons e t ih =>
    obtain ⟨k, v⟩ := e
    by_cases h1 : q < k
    · simp [tset, h1]
    · by_cases h2 : q = k
      · simp [tset, h2]
      · simp [tset, h1, h2, ih]

@[simp] theorem tget_tdel_self {α : Type} (t : Tab α) (q : Nat) : tget (tdel t q) q = none := by
  induction t with
  | nil => rfl
  | cons e t ih =>
    obtain ⟨k, v⟩ := e
    by_cases h : k = q <;> simp [tdel, tget, h, ih]

theorem tget_tdel_ne {α : Type} (t : Tab α) {q r : Nat} (h : r ≠ q) : tget (tdel t q) r = tget t r := by
  induction t with
  | nil => rfl
  | cons e t ih =>
    obtain ⟨k, v⟩ := e
    by_cases h1 : k = q
    · subst h1
      simp [tdel, tget, h.symm, ih]
    · simp [tdel, tget, h1, ih]

/-- A value found in a table stands in it. -/
theorem mem_of_tget {α : Type} {t : Tab α} {q : Nat} {x : α} (h : tget t q = some x) : (q, x) ∈ t := by
  induction t with
  | nil => simp [tget] at h
  | cons e t ih =>
    obtain ⟨k, v⟩ := e
    by_cases h1 : k = q
    · simp [tget, h1] at h
      simp [h1, h]
    · simp [tget, h1] at h
      exact List.mem_cons_of_mem _ (ih h)

/-- What stands in a table after a key is set is the new value or stood in it before. -/
theorem mem_tset {α : Type} {t : Tab α} {q : Nat} {x : α} {e : Nat × α} (h : e ∈ tset t q x) : e = (q, x) ∨ e ∈ t := by
  induction t with
  | nil => simpa [tset] using h
  | cons e' t ih =>
    obtain ⟨k, v⟩ := e'
    simp only [tset] at h
    split at h
    · simpa using h
    · split at h
      · rcases List.mem_cons.mp h with h | h
        · exact .inl h
        · exact .inr (List.mem_cons_of_mem _ h)
      · rcases List.mem_cons.mp h with h | h
        · exact .inr (h ▸ List.mem_cons_self ..)
        · rcases ih h with h | h
          · exact .inl h
          · exact .inr (List.mem_cons_of_mem _ h)

/-! ### Byte memories -/

theorem risingFrom_mono {m : Mem} {lo lo' : Nat} (h : lo ≤ lo') (hm : risingFrom lo' m = true) : risingFrom lo m = true := by
  cases m with
  | nil => rfl
  | cons e m =>
    obtain ⟨a, b⟩ := e
    simp only [risingFrom, Bool.and_eq_true, decide_eq_true_eq] at hm ⊢
    exact ⟨⟨by omega, hm.1.2⟩, hm.2⟩

theorem risingFrom_wr (m : Mem) (lo a : Nat) (x : Byte) (hm : risingFrom lo m = true) (h : lo ≤ a) :
    risingFrom lo (wr m a x) = true := by
  induction m generalizing lo with
  | nil =>
    simp only [wr]
    split
    · rfl
    · rename_i hx
      simp [risingFrom, h, hx]
  | cons e m ih =>
    obtain ⟨k, b⟩ := e
    have hm' := hm
    simp only [risingFrom, Bool.and_eq_true, decide_eq_true_eq] at hm
    simp only [wr]
    split
    · split
      · exact hm'
      · rename_i h1 hx
        simp only [risingFrom, Bool.and_eq_true, decide_eq_true_eq]
        exact ⟨⟨h, by simpa using hx⟩, ⟨by omega, hm.1.2⟩, hm.2⟩
    · split
      · rename_i h1 h2
        subst h2
        split
        · exact risingFrom_mono (by omega) hm.2
        · rename_i hx
          simp only [risingFrom, Bool.and_eq_true, decide_eq_true_eq]
          exact ⟨⟨h, by simpa using hx⟩, hm.2⟩
      · simp only [risingFrom, Bool.and_eq_true, decide_eq_true_eq]
        exact ⟨hm.1, ih _ hm.2 (by omega)⟩

/-- Writing a byte keeps the canonical form. -/
theorem wf_wr (m : Mem) (a : Nat) (x : Byte) (h : Memory.wf m = true) : Memory.wf (wr m a x) = true :=
  risingFrom_wr m 0 a x h (Nat.zero_le _)

theorem wf_wrBytes (m : Mem) (a : Nat) (l : List Byte) (h : Memory.wf m = true) : Memory.wf (wrBytes m a l) = true := by
  induction l generalizing m a with
  | nil => exact h
  | cons b l ih => exact ih _ _ (wf_wr m a b h)

theorem wf_wrNat (m : Mem) (a n v : Nat) (h : Memory.wf m = true) : Memory.wf (wrNat m a n v) = true :=
  wf_wrBytes m a _ h

theorem rd_of_lt {m : Mem} {lo a : Nat} (hm : risingFrom lo m = true) (h : a < lo) : rd m a = unlisted := by
  induction m generalizing lo with
  | nil => rfl
  | cons e m ih =>
    obtain ⟨k, b⟩ := e
    simp only [risingFrom, Bool.and_eq_true, decide_eq_true_eq] at hm
    have : ¬ k = a := by omega
    simp only [rd, this, if_false]
    exact ih hm.2 (by omega)

theorem rd_wr_rising (m : Mem) (lo a q : Nat) (x : Byte) (hm : risingFrom lo m = true) :
    rd (wr m a x) q = if q = a then x else rd m q := by
  induction m generalizing lo with
  | nil =>
    simp only [wr]
    split
    · rename_i hx
      simp [rd, hx]
    · by_cases h : q = a
      · simp [rd, h]
      · have h3 : ¬ a = q := fun e => h e.symm
        simp [rd, h, h3]
  | cons e m ih =>
    obtain ⟨k, b⟩ := e
    simp only [risingFrom, Bool.and_eq_true, decide_eq_true_eq] at hm
    simp only [wr]
    split
    · rename_i h1
      split
      · rename_i hx
        by_cases h : q = a
        · subst h
          have h2 : ¬ k = q := by omega
          simp only [rd, h2, if_false, if_true, hx]
          exact rd_of_lt hm.2 (by omega)
        · simp [h]
      · by_cases h : q = a
        · simp [rd, h]
        · have h3 : ¬ a = q := fun e => h e.symm
          simp [rd, h, h3]
    · split
      · rename_i h1 h2
        subst h2
        split
        · rename_i hx
          by_cases h : q = a
          · subst h
            simp only [if_true, hx]
            exact rd_of_lt hm.2 (by omega)
          · have h3 : ¬ a = q := fun e => h e.symm
            simp [rd, h, h3]
        · by_cases h : q = a
          · simp [rd, h]
          · have h3 : ¬ a = q := fun e => h e.symm
            simp [rd, h, h3]
      · rename_i h1 h2
        simp only [rd, ih _ hm.2]
        by_cases h : k = q
        · have : ¬ q = a := by omega
          simp [h, this]
        · simp [h]

/-- Reading after writing: the byte written at its address, every other byte as before. -/
theorem rd_wr (m : Mem) (a q : Nat) (x : Byte) (h : Memory.wf m = true) :
    rd (wr m a x) q = if q = a then x else rd m q := rd_wr_rising m 0 a q x h

theorem rd_wrBytes_out (m : Mem) (a q : Nat) (l : List Byte) (h : Memory.wf m = true) (hq : q < a ∨ a + l.length ≤ q) :
    rd (wrBytes m a l) q = rd m q := by
  induction l generalizing m a with
  | nil => rfl
  | cons b l ih =>
    simp only [List.length_cons] at hq
    rw [wrBytes, ih _ _ (wf_wr m a b h) (by omega), rd_wr m a q b h]
    have : ¬ q = a := by omega
    simp [this]

theorem rdBytes_congr (m m' : Mem) (a n : Nat) (h : ∀ q, a ≤ q → q < a + n → rd m q = rd m' q) :
    rdBytes m a n = rdBytes m' a n := by
  induction n generalizing a with
  | zero => rfl
  | succ n ih =>
    simp only [rdBytes]
    rw [h a (by omega) (by omega), ih (a + 1) fun q h1 h2 => h q (by omega) (by omega)]

/-- Reading back the bytes just written. -/
theorem rdBytes_wrBytes (m : Mem) (a : Nat) (l : List Byte) (h : Memory.wf m = true) :
    rdBytes (wrBytes m a l) a l.length = l := by
  induction l generalizing m a with
  | nil => rfl
  | cons b l ih =>
    simp only [List.length_cons, rdBytes, wrBytes]
    rw [ih _ _ (wf_wr m a b h), rd_wrBytes_out _ _ _ _ (wf_wr m a b h) (by omega), rd_wr m a a b h]
    simp

/-- The memory after reset lists nothing. -/
theorem wf_nil : Memory.wf [] = true := rfl

end Sys2Proof.Laws
end

