-- ==== Sys2Proof/Laws/State.lean ====
section
/-!
SUPPORT. What each named update of State, of a core and of a slot leaves: one lemma per field.
-/
set_option Elab.async false

namespace Sys2Proof.Laws

open Sys2Proof.Machine

@[simp] theorem setCore_core (s : State) (c : Nat) (v : CoreSt) : (setCore s c v).core = s.core := rfl
@[simp] theorem setCore_slot (s : State) (c : Nat) (v : CoreSt) : (setCore s c v).slot = s.slot := rfl
@[simp] theorem setCore_agenda (s : State) (c : Nat) (v : CoreSt) : (setCore s c v).agenda = s.agenda := rfl
@[simp] theorem setCore_focus (s : State) (c : Nat) (v : CoreSt) : (setCore s c v).focus = s.focus := rfl
@[simp] theorem setCore_turns (s : State) (c : Nat) (v : CoreSt) : (setCore s c v).turns = s.turns := rfl
@[simp] theorem setCore_now (s : State) (c : Nat) (v : CoreSt) : (setCore s c v).now = s.now := rfl
@[simp] theorem setCore_seq (s : State) (c : Nat) (v : CoreSt) : (setCore s c v).seq = s.seq := rfl
@[simp] theorem setCore_mem (s : State) (c : Nat) (v : CoreSt) : (setCore s c v).mem = s.mem := rfl
@[simp] theorem setCore_mpoison (s : State) (c : Nat) (v : CoreSt) : (setCore s c v).mpoison = s.mpoison := rfl
@[simp] theorem setCore_rel (s : State) (c : Nat) (v : CoreSt) : (setCore s c v).rel = s.rel := rfl
@[simp] theorem setCore_arrivals (s : State) (c : Nat) (v : CoreSt) : (setCore s c v).arrivals = s.arrivals := rfl
@[simp] theorem setCore_clusters (s : State) (c : Nat) (v : CoreSt) : (setCore s c v).clusters = s.clusters := rfl
@[simp] theorem setCore_dies (s : State) (c : Nat) (v : CoreSt) : (setCore s c v).dies = s.dies := rfl
@[simp] theorem setCore_slices (s : State) (c : Nat) (v : CoreSt) : (setCore s c v).slices = s.slices := rfl
@[simp] theorem setCore_tlb (s : State) (c : Nat) (v : CoreSt) : (setCore s c v).tlb = s.tlb := rfl
@[simp] theorem setCore_presence (s : State) (c : Nat) (v : CoreSt) : (setCore s c v).presence = s.presence := rfl
@[simp] theorem setCore_tasks (s : State) (c : Nat) (v : CoreSt) : (setCore s c v).tasks = s.tasks := rfl
@[simp] theorem setCore_launches (s : State) (c : Nat) (v : CoreSt) : (setCore s c v).launches = s.launches := rfl
@[simp] theorem setCore_groups (s : State) (c : Nat) (v : CoreSt) : (setCore s c v).groups = s.groups := rfl
@[simp] theorem setCore_pool (s : State) (c : Nat) (v : CoreSt) : (setCore s c v).pool = s.pool := rfl
@[simp] theorem setCore_edges (s : State) (c : Nat) (v : CoreSt) : (setCore s c v).edges = s.edges := rfl
@[simp] theorem setCore_probes (s : State) (c : Nat) (v : CoreSt) : (setCore s c v).probes = s.probes := rfl
@[simp] theorem setCore_probeRecs (s : State) (c : Nat) (v : CoreSt) : (setCore s c v).probeRecs = s.probeRecs := rfl
@[simp] theorem setCore_wakes (s : State) (c : Nat) (v : CoreSt) : (setCore s c v).wakes = s.wakes := rfl
@[simp] theorem setCore_cmds (s : State) (c : Nat) (v : CoreSt) : (setCore s c v).cmds = s.cmds := rfl
@[simp] theorem setCore_cmsgs (s : State) (c : Nat) (v : CoreSt) : (setCore s c v).cmsgs = s.cmsgs := rfl
@[simp] theorem setCore_kmsgs (s : State) (c : Nat) (v : CoreSt) : (setCore s c v).kmsgs = s.kmsgs := rfl
@[simp] theorem setCore_tiles (s : State) (c : Nat) (v : CoreSt) : (setCore s c v).tiles = s.tiles := rfl
@[simp] theorem setCore_credits (s : State) (c : Nat) (v : CoreSt) : (setCore s c v).credits = s.credits := rfl
@[simp] theorem setCore_nets (s : State) (c : Nat) (v : CoreSt) : (setCore s c v).nets = s.nets := rfl
@[simp] theorem setCore_fetches (s : State) (c : Nat) (v : CoreSt) : (setCore s c v).fetches = s.fetches := rfl
@[simp] theorem setCore_tbinvs (s : State) (c : Nat) (v : CoreSt) : (setCore s c v).tbinvs = s.tbinvs := rfl
@[simp] theorem setCore_micro (s : State) (c : Nat) (v : CoreSt) : (setCore s c v).micro = s.micro := rfl
@[simp] theorem setCore_robin (s : State) (c : Nat) (v : CoreSt) : (setCore s c v).robin = s.robin := rfl
@[simp] theorem setCore_gw (s : State) (c : Nat) (v : CoreSt) : (setCore s c v).gw = s.gw := rfl
@[simp] theorem setCore_resets (s : State) (c : Nat) (v : CoreSt) : (setCore s c v).resets = s.resets := rfl
@[simp] theorem setCore_keys (s : State) (c : Nat) (v : CoreSt) : (setCore s c v).keys = s.keys := rfl
@[simp] theorem setCore_epochs (s : State) (c : Nat) (v : CoreSt) : (setCore s c v).epochs = s.epochs := rfl
@[simp] theorem setCore_cmps (s : State) (c : Nat) (v : CoreSt) : (setCore s c v).cmps = s.cmps := rfl
@[simp] theorem setCore_late (s : State) (c : Nat) (v : CoreSt) : (setCore s c v).late = s.late := rfl
@[simp] theorem setCore_owed (s : State) (c : Nat) (v : CoreSt) : (setCore s c v).owed = s.owed := rfl
@[simp] theorem setCore_engines (s : State) (c : Nat) (v : CoreSt) : (setCore s c v).engines = s.engines := rfl
@[simp] theorem setCore_wires (s : State) (c : Nat) (v : CoreSt) : (setCore s c v).wires = s.wires := rfl

@[simp] theorem setCore_cores (s : State) (c : Nat) (v : CoreSt) : (setCore s c v).cores = tset s.cores c v := rfl

@[simp] theorem modCore_core (s : State) (c : Nat) (f : CoreSt → CoreSt) : (modCore s c f).core = s.core := rfl
@[simp] theorem modCore_slot (s : State) (c : Nat) (f : CoreSt → CoreSt) : (modCore s c f).slot = s.slot := rfl
@[simp] theorem modCore_agenda (s : State) (c : Nat) (f : CoreSt → CoreSt) : (modCore s c f).agenda = s.agenda := rfl
@[simp] theorem modCore_focus (s : State) (c : Nat) (f : CoreSt → CoreSt) : (modCore s c f).focus = s.focus := rfl
@[simp] theorem modCore_turns (s : State) (c : Nat) (f : CoreSt → CoreSt) : (modCore s c f).turns = s.turns := rfl
@[simp] theorem modCore_now (s : State) (c : Nat) (f : CoreSt → CoreSt) : (modCore s c f).now = s.now := rfl
@[simp] theorem modCore_seq (s : State) (c : Nat) (f : CoreSt → CoreSt) : (modCore s c f).seq = s.seq := rfl
@[simp] theorem modCore_mem (s : State) (c : Nat) (f : CoreSt → CoreSt) : (modCore s c f).mem = s.mem := rfl
@[simp] theorem modCore_mpoison (s : State) (c : Nat) (f : CoreSt → CoreSt) : (modCore s c f).mpoison = s.mpoison := rfl
@[simp] theorem modCore_rel (s : State) (c : Nat) (f : CoreSt → CoreSt) : (modCore s c f).rel = s.rel := rfl
@[simp] theorem modCore_arrivals (s : State) (c : Nat) (f : CoreSt → CoreSt) : (modCore s c f).arrivals = s.arrivals := rfl
@[simp] theorem modCore_clusters (s : State) (c : Nat) (f : CoreSt → CoreSt) : (modCore s c f).clusters = s.clusters := rfl
@[simp] theorem modCore_dies (s : State) (c : Nat) (f : CoreSt → CoreSt) : (modCore s c f).dies = s.dies := rfl
@[simp] theorem modCore_slices (s : State) (c : Nat) (f : CoreSt → CoreSt) : (modCore s c f).slices = s.slices := rfl
@[simp] theorem modCore_tlb (s : State) (c : Nat) (f : CoreSt → CoreSt) : (modCore s c f).tlb = s.tlb := rfl
@[simp] theorem modCore_presence (s : State) (c : Nat) (f : CoreSt → CoreSt) : (modCore s c f).presence = s.presence := rfl
@[simp] theorem modCore_tasks (s : State) (c : Nat) (f : CoreSt → CoreSt) : (modCore s c f).tasks = s.tasks := rfl
@[simp] theorem modCore_launches (s : State) (c : Nat) (f : CoreSt → CoreSt) : (modCore s c f).launches = s.launches := rfl
@[simp] theorem modCore_groups (s : State) (c : Nat) (f : CoreSt → CoreSt) : (modCore s c f).groups = s.groups := rfl
@[simp] theorem modCore_pool (s : State) (c : Nat) (f : CoreSt → CoreSt) : (modCore s c f).pool = s.pool := rfl
@[simp] theorem modCore_edges (s : State) (c : Nat) (f : CoreSt → CoreSt) : (modCore s c f).edges = s.edges := rfl
@[simp] theorem modCore_probes (s : State) (c : Nat) (f : CoreSt → CoreSt) : (modCore s c f).probes = s.probes := rfl
@[simp] theorem modCore_probeRecs (s : State) (c : Nat) (f : CoreSt → CoreSt) : (modCore s c f).probeRecs = s.probeRecs := rfl
@[simp] theorem modCore_wakes (s : State) (c : Nat) (f : CoreSt → CoreSt) : (modCore s c f).wakes = s.wakes := rfl
@[simp] theorem modCore_cmds (s : State) (c : Nat) (f : CoreSt → CoreSt) : (modCore s c f).cmds = s.cmds := rfl
@[simp] theorem modCore_cmsgs (s : State) (c : Nat) (f : CoreSt → CoreSt) : (modCore s c f).cmsgs = s.cmsgs := rfl
@[simp] theorem modCore_kmsgs (s : State) (c : Nat) (f : CoreSt → CoreSt) : (modCore s c f).kmsgs = s.kmsgs := rfl
@[simp] theorem modCore_tiles (s : State) (c : Nat) (f : CoreSt → CoreSt) : (modCore s c f).tiles = s.tiles := rfl
@[simp] theorem modCore_credits (s : State) (c : Nat) (f : CoreSt → CoreSt) : (modCore s c f).credits = s.credits := rfl
@[simp] theorem modCore_nets (s : State) (c : Nat) (f : CoreSt → CoreSt) : (modCore s c f).nets = s.nets := rfl
@[simp] theorem modCore_fetches (s : State) (c : Nat) (f : CoreSt → CoreSt) : (modCore s c f).fetches = s.fetches := rfl
@[simp] theorem modCore_tbinvs (s : State) (c : Nat) (f : CoreSt → CoreSt) : (modCore s c f).tbinvs = s.tbinvs := rfl
@[simp] theorem modCore_micro (s : State) (c : Nat) (f : CoreSt → CoreSt) : (modCore s c f).micro = s.micro := rfl
@[simp] theorem modCore_robin (s : State) (c : Nat) (f : CoreSt → CoreSt) : (modCore s c f).robin = s.robin := rfl
@[simp] theorem modCore_gw (s : State) (c : Nat) (f : CoreSt → CoreSt) : (modCore s c f).gw = s.gw := rfl
@[simp] theorem modCore_resets (s : State) (c : Nat) (f : CoreSt → CoreSt) : (modCore s c f).resets = s.resets := rfl
@[simp] theorem modCore_keys (s : State) (c : Nat) (f : CoreSt → CoreSt) : (modCore s c f).keys = s.keys := rfl
@[simp] theorem modCore_epochs (s : State) (c : Nat) (f : CoreSt → CoreSt) : (modCore s c f).epochs = s.epochs := rfl
@[simp] theorem modCore_cmps (s : State) (c : Nat) (f : CoreSt → CoreSt) : (modCore s c f).cmps = s.cmps := rfl
@[simp] theorem modCore_late (s : State) (c : Nat) (f : CoreSt → CoreSt) : (modCore s c f).late = s.late := rfl
@[simp] theorem modCore_owed (s : State) (c : Nat) (f : CoreSt → CoreSt) : (modCore s c f).owed = s.owed := rfl
@[simp] theorem modCore_engines (s : State) (c : Nat) (f : CoreSt → CoreSt) : (modCore s c f).engines = s.engines := rfl
@[simp] theorem modCore_wires (s : State) (c : Nat) (f : CoreSt → CoreSt) : (modCore s c f).wires = s.wires := rfl

@[simp] theorem setSlot_core (s : State) (c i : Nat) (v : SlotSt) : (setSlot s c i v).core = s.core := rfl
@[simp] theorem setSlot_slot (s : State) (c i : Nat) (v : SlotSt) : (setSlot s c i v).slot = s.slot := rfl
@[simp] theorem setSlot_agenda (s : State) (c i : Nat) (v : SlotSt) : (setSlot s c i v).agenda = s.agenda := rfl
@[simp] theorem setSlot_focus (s : State) (c i : Nat) (v : SlotSt) : (setSlot s c i v).focus = s.focus := rfl
@[simp] theorem setSlot_turns (s : State) (c i : Nat) (v : SlotSt) : (setSlot s c i v).turns = s.turns := rfl
@[simp] theorem setSlot_now (s : State) (c i : Nat) (v : SlotSt) : (setSlot s c i v).now = s.now := rfl
@[simp] theorem setSlot_seq (s : State) (c i : Nat) (v : SlotSt) : (setSlot s c i v).seq = s.seq := rfl
@[simp] theorem setSlot_mem (s : State) (c i : Nat) (v : SlotSt) : (setSlot s c i v).mem = s.mem := rfl
@[simp] theorem setSlot_mpoison (s : State) (c i : Nat) (v : SlotSt) : (setSlot s c i v).mpoison = s.mpoison := rfl
@[simp] theorem setSlot_rel (s : State) (c i : Nat) (v : SlotSt) : (setSlot s c i v).rel = s.rel := rfl
@[simp] theorem setSlot_arrivals (s : State) (c i : Nat) (v : SlotSt) : (setSlot s c i v).arrivals = s.arrivals := rfl
@[simp] theorem setSlot_clusters (s : State) (c i : Nat) (v : SlotSt) : (setSlot s c i v).clusters = s.clusters := rfl
@[simp] theorem setSlot_dies (s : State) (c i : Nat) (v : SlotSt) : (setSlot s c i v).dies = s.dies := rfl
@[simp] theorem setSlot_slices (s : State) (c i : Nat) (v : SlotSt) : (setSlot s c i v).slices = s.slices := rfl
@[simp] theorem setSlot_tlb (s : State) (c i : Nat) (v : SlotSt) : (setSlot s c i v).tlb = s.tlb := rfl
@[simp] theorem setSlot_presence (s : State) (c i : Nat) (v : SlotSt) : (setSlot s c i v).presence = s.presence := rfl
@[simp] theorem setSlot_tasks (s : State) (c i : Nat) (v : SlotSt) : (setSlot s c i v).tasks = s.tasks := rfl
@[simp] theorem setSlot_launches (s : State) (c i : Nat) (v : SlotSt) : (setSlot s c i v).launches = s.launches := rfl
@[simp] theorem setSlot_groups (s : State) (c i : Nat) (v : SlotSt) : (setSlot s c i v).groups = s.groups := rfl
@[simp] theorem setSlot_pool (s : State) (c i : Nat) (v : SlotSt) : (setSlot s c i v).pool = s.pool := rfl
@[simp] theorem setSlot_edges (s : State) (c i : Nat) (v : SlotSt) : (setSlot s c i v).edges = s.edges := rfl
@[simp] theorem setSlot_probes (s : State) (c i : Nat) (v : SlotSt) : (setSlot s c i v).probes = s.probes := rfl
@[simp] theorem setSlot_probeRecs (s : State) (c i : Nat) (v : SlotSt) : (setSlot s c i v).probeRecs = s.probeRecs := rfl
@[simp] theorem setSlot_wakes (s : State) (c i : Nat) (v : SlotSt) : (setSlot s c i v).wakes = s.wakes := rfl
@[simp] theorem setSlot_cmds (s : State) (c i : Nat) (v : SlotSt) : (setSlot s c i v).cmds = s.cmds := rfl
@[simp] theorem setSlot_cmsgs (s : State) (c i : Nat) (v : SlotSt) : (setSlot s c i v).cmsgs = s.cmsgs := rfl
@[simp] theorem setSlot_kmsgs (s : State) (c i : Nat) (v : SlotSt) : (setSlot s c i v).kmsgs = s.kmsgs := rfl
@[simp] theorem setSlot_tiles (s : State) (c i : Nat) (v : SlotSt) : (setSlot s c i v).tiles = s.tiles := rfl
@[simp] theorem setSlot_credits (s : State) (c i : Nat) (v : SlotSt) : (setSlot s c i v).credits = s.credits := rfl
@[simp] theorem setSlot_nets (s : State) (c i : Nat) (v : SlotSt) : (setSlot s c i v).nets = s.nets := rfl
@[simp] theorem setSlot_fetches (s : State) (c i : Nat) (v : SlotSt) : (setSlot s c i v).fetches = s.fetches := rfl
@[simp] theorem setSlot_tbinvs (s : State) (c i : Nat) (v : SlotSt) : (setSlot s c i v).tbinvs = s.tbinvs := rfl
@[simp] theorem setSlot_micro (s : State) (c i : Nat) (v : SlotSt) : (setSlot s c i v).micro = s.micro := rfl
@[simp] theorem setSlot_robin (s : State) (c i : Nat) (v : SlotSt) : (setSlot s c i v).robin = s.robin := rfl
@[simp] theorem setSlot_gw (s : State) (c i : Nat) (v : SlotSt) : (setSlot s c i v).gw = s.gw := rfl
@[simp] theorem setSlot_resets (s : State) (c i : Nat) (v : SlotSt) : (setSlot s c i v).resets = s.resets := rfl
@[simp] theorem setSlot_keys (s : State) (c i : Nat) (v : SlotSt) : (setSlot s c i v).keys = s.keys := rfl
@[simp] theorem setSlot_epochs (s : State) (c i : Nat) (v : SlotSt) : (setSlot s c i v).epochs = s.epochs := rfl
@[simp] theorem setSlot_cmps (s : State) (c i : Nat) (v : SlotSt) : (setSlot s c i v).cmps = s.cmps := rfl
@[simp] theorem setSlot_late (s : State) (c i : Nat) (v : SlotSt) : (setSlot s c i v).late = s.late := rfl
@[simp] theorem setSlot_owed (s : State) (c i : Nat) (v : SlotSt) : (setSlot s c i v).owed = s.owed := rfl
@[simp] theorem setSlot_engines (s : State) (c i : Nat) (v : SlotSt) : (setSlot s c i v).engines = s.engines := rfl
@[simp] theorem setSlot_wires (s : State) (c i : Nat) (v : SlotSt) : (setSlot s c i v).wires = s.wires := rfl

@[simp] theorem delSlot_core (s : State) (c i : Nat) : (delSlot s c i).core = s.core := rfl
@[simp] theorem delSlot_slot (s : State) (c i : Nat) : (delSlot s c i).slot = s.slot := rfl
@[simp] theorem delSlot_agenda (s : State) (c i : Nat) : (delSlot s c i).agenda = s.agenda := rfl
@[simp] theorem delSlot_focus (s : State) (c i : Nat) : (delSlot s c i).focus = s.focus := rfl
@[simp] theorem delSlot_turns (s : State) (c i : Nat) : (delSlot s c i).turns = s.turns := rfl
@[simp] theorem delSlot_now (s : State) (c i : Nat) : (delSlot s c i).now = s.now := rfl
@[simp] theorem delSlot_seq (s : State) (c i : Nat) : (delSlot s c i).seq = s.seq := rfl
@[simp] theorem delSlot_mem (s : State) (c i : Nat) : (delSlot s c i).mem = s.mem := rfl
@[simp] theorem delSlot_mpoison (s : State) (c i : Nat) : (delSlot s c i).mpoison = s.mpoison := rfl
@[simp] theorem delSlot_rel (s : State) (c i : Nat) : (delSlot s c i).rel = s.rel := rfl
@[simp] theorem delSlot_arrivals (s : State) (c i : Nat) : (delSlot s c i).arrivals = s.arrivals := rfl
@[simp] theorem delSlot_clusters (s : State) (c i : Nat) : (delSlot s c i).clusters = s.clusters := rfl
@[simp] theorem delSlot_dies (s : State) (c i : Nat) : (delSlot s c i).dies = s.dies := rfl
@[simp] theorem delSlot_slices (s : State) (c i : Nat) : (delSlot s c i).slices = s.slices := rfl
@[simp] theorem delSlot_tlb (s : State) (c i : Nat) : (delSlot s c i).tlb = s.tlb := rfl
@[simp] theorem delSlot_presence (s : State) (c i : Nat) : (delSlot s c i).presence = s.presence := rfl
@[simp] theorem delSlot_tasks (s : State) (c i : Nat) : (delSlot s c i).tasks = s.tasks := rfl
@[simp] theorem delSlot_launches (s : State) (c i : Nat) : (delSlot s c i).launches = s.launches := rfl
@[simp] theorem delSlot_groups (s : State) (c i : Nat) : (delSlot s c i).groups = s.groups := rfl
@[simp] theorem delSlot_pool (s : State) (c i : Nat) : (delSlot s c i).pool = s.pool := rfl
@[simp] theorem delSlot_edges (s : State) (c i : Nat) : (delSlot s c i).edges = s.edges := rfl
@[simp] theorem delSlot_probes (s : State) (c i : Nat) : (delSlot s c i).probes = s.probes := rfl
@[simp] theorem delSlot_probeRecs (s : State) (c i : Nat) : (delSlot s c i).probeRecs = s.probeRecs := rfl
@[simp] theorem delSlot_wakes (s : State) (c i : Nat) : (delSlot s c i).wakes = s.wakes := rfl
@[simp] theorem delSlot_cmds (s : State) (c i : Nat) : (delSlot s c i).cmds = s.cmds := rfl
@[simp] theorem delSlot_cmsgs (s : State) (c i : Nat) : (delSlot s c i).cmsgs = s.cmsgs := rfl
@[simp] theorem delSlot_kmsgs (s : State) (c i : Nat) : (delSlot s c i).kmsgs = s.kmsgs := rfl
@[simp] theorem delSlot_tiles (s : State) (c i : Nat) : (delSlot s c i).tiles = s.tiles := rfl
@[simp] theorem delSlot_credits (s : State) (c i : Nat) : (delSlot s c i).credits = s.credits := rfl
@[simp] theorem delSlot_nets (s : State) (c i : Nat) : (delSlot s c i).nets = s.nets := rfl
@[simp] theorem delSlot_fetches (s : State) (c i : Nat) : (delSlot s c i).fetches = s.fetches := rfl
@[simp] theorem delSlot_tbinvs (s : State) (c i : Nat) : (delSlot s c i).tbinvs = s.tbinvs := rfl
@[simp] theorem delSlot_micro (s : State) (c i : Nat) : (delSlot s c i).micro = s.micro := rfl
@[simp] theorem delSlot_robin (s : State) (c i : Nat) : (delSlot s c i).robin = s.robin := rfl
@[simp] theorem delSlot_gw (s : State) (c i : Nat) : (delSlot s c i).gw = s.gw := rfl
@[simp] theorem delSlot_resets (s : State) (c i : Nat) : (delSlot s c i).resets = s.resets := rfl
@[simp] theorem delSlot_keys (s : State) (c i : Nat) : (delSlot s c i).keys = s.keys := rfl
@[simp] theorem delSlot_epochs (s : State) (c i : Nat) : (delSlot s c i).epochs = s.epochs := rfl
@[simp] theorem delSlot_cmps (s : State) (c i : Nat) : (delSlot s c i).cmps = s.cmps := rfl
@[simp] theorem delSlot_late (s : State) (c i : Nat) : (delSlot s c i).late = s.late := rfl
@[simp] theorem delSlot_owed (s : State) (c i : Nat) : (delSlot s c i).owed = s.owed := rfl
@[simp] theorem delSlot_engines (s : State) (c i : Nat) : (delSlot s c i).engines = s.engines := rfl
@[simp] theorem delSlot_wires (s : State) (c i : Nat) : (delSlot s c i).wires = s.wires := rfl

@[simp] theorem modSlot_core (s : State) (c i : Nat) (f : SlotSt → SlotSt) : (modSlot s c i f).core = s.core := by unfold modSlot; split <;> rfl
@[simp] theorem modSlot_slot (s : State) (c i : Nat) (f : SlotSt → SlotSt) : (modSlot s c i f).slot = s.slot := by unfold modSlot; split <;> rfl
@[simp] theorem modSlot_agenda (s : State) (c i : Nat) (f : SlotSt → SlotSt) : (modSlot s c i f).agenda = s.agenda := by unfold modSlot; split <;> rfl
@[simp] theorem modSlot_focus (s : State) (c i : Nat) (f : SlotSt → SlotSt) : (modSlot s c i f).focus = s.focus := by unfold modSlot; split <;> rfl
@[simp] theorem modSlot_turns (s : State) (c i : Nat) (f : SlotSt → SlotSt) : (modSlot s c i f).turns = s.turns := by unfold modSlot; split <;> rfl
@[simp] theorem modSlot_now (s : State) (c i : Nat) (f : SlotSt → SlotSt) : (modSlot s c i f).now = s.now := by unfold modSlot; split <;> rfl
@[simp] theorem modSlot_seq (s : State) (c i : Nat) (f : SlotSt → SlotSt) : (modSlot s c i f).seq = s.seq := by unfold modSlot; split <;> rfl
@[simp] theorem modSlot_mem (s : State) (c i : Nat) (f : SlotSt → SlotSt) : (modSlot s c i f).mem = s.mem := by unfold modSlot; split <;> rfl
@[simp] theorem modSlot_mpoison (s : State) (c i : Nat) (f : SlotSt → SlotSt) : (modSlot s c i f).mpoison = s.mpoison := by unfold modSlot; split <;> rfl
@[simp] theorem modSlot_rel (s : State) (c i : Nat) (f : SlotSt → SlotSt) : (modSlot s c i f).rel = s.rel := by unfold modSlot; split <;> rfl
@[simp] theorem modSlot_arrivals (s : State) (c i : Nat) (f : SlotSt → SlotSt) : (modSlot s c i f).arrivals = s.arrivals := by unfold modSlot; split <;> rfl
@[simp] theorem modSlot_clusters (s : State) (c i : Nat) (f : SlotSt → SlotSt) : (modSlot s c i f).clusters = s.clusters := by unfold modSlot; split <;> rfl
@[simp] theorem modSlot_dies (s : State) (c i : Nat) (f : SlotSt → SlotSt) : (modSlot s c i f).dies = s.dies := by unfold modSlot; split <;> rfl
@[simp] theorem modSlot_slices (s : State) (c i : Nat) (f : SlotSt → SlotSt) : (modSlot s c i f).slices = s.slices := by unfold modSlot; split <;> rfl
@[simp] theorem modSlot_tlb (s : State) (c i : Nat) (f : SlotSt → SlotSt) : (modSlot s c i f).tlb = s.tlb := by unfold modSlot; split <;> rfl
@[simp] theorem modSlot_presence (s : State) (c i : Nat) (f : SlotSt → SlotSt) : (modSlot s c i f).presence = s.presence := by unfold modSlot; split <;> rfl
@[simp] theorem modSlot_tasks (s : State) (c i : Nat) (f : SlotSt → SlotSt) : (modSlot s c i f).tasks = s.tasks := by unfold modSlot; split <;> rfl
@[simp] theorem modSlot_launches (s : State) (c i : Nat) (f : SlotSt → SlotSt) : (modSlot s c i f).launches = s.launches := by unfold modSlot; split <;> rfl
@[simp] theorem modSlot_groups (s : State) (c i : Nat) (f : SlotSt → SlotSt) : (modSlot s c i f).groups = s.groups := by unfold modSlot; split <;> rfl
@[simp] theorem modSlot_pool (s : State) (c i : Nat) (f : SlotSt → SlotSt) : (modSlot s c i f).pool = s.pool := by unfold modSlot; split <;> rfl
@[simp] theorem modSlot_edges (s : State) (c i : Nat) (f : SlotSt → SlotSt) : (modSlot s c i f).edges = s.edges := by unfold modSlot; split <;> rfl
@[simp] theorem modSlot_probes (s : State) (c i : Nat) (f : SlotSt → SlotSt) : (modSlot s c i f).probes = s.probes := by unfold modSlot; split <;> rfl
@[simp] theorem modSlot_probeRecs (s : State) (c i : Nat) (f : SlotSt → SlotSt) : (modSlot s c i f).probeRecs = s.probeRecs := by unfold modSlot; split <;> rfl
@[simp] theorem modSlot_wakes (s : State) (c i : Nat) (f : SlotSt → SlotSt) : (modSlot s c i f).wakes = s.wakes := by unfold modSlot; split <;> rfl
@[simp] theorem modSlot_cmds (s : State) (c i : Nat) (f : SlotSt → SlotSt) : (modSlot s c i f).cmds = s.cmds := by unfold modSlot; split <;> rfl
@[simp] theorem modSlot_cmsgs (s : State) (c i : Nat) (f : SlotSt → SlotSt) : (modSlot s c i f).cmsgs = s.cmsgs := by unfold modSlot; split <;> rfl
@[simp] theorem modSlot_kmsgs (s : State) (c i : Nat) (f : SlotSt → SlotSt) : (modSlot s c i f).kmsgs = s.kmsgs := by unfold modSlot; split <;> rfl
@[simp] theorem modSlot_tiles (s : State) (c i : Nat) (f : SlotSt → SlotSt) : (modSlot s c i f).tiles = s.tiles := by unfold modSlot; split <;> rfl
@[simp] theorem modSlot_credits (s : State) (c i : Nat) (f : SlotSt → SlotSt) : (modSlot s c i f).credits = s.credits := by unfold modSlot; split <;> rfl
@[simp] theorem modSlot_nets (s : State) (c i : Nat) (f : SlotSt → SlotSt) : (modSlot s c i f).nets = s.nets := by unfold modSlot; split <;> rfl
@[simp] theorem modSlot_fetches (s : State) (c i : Nat) (f : SlotSt → SlotSt) : (modSlot s c i f).fetches = s.fetches := by unfold modSlot; split <;> rfl
@[simp] theorem modSlot_tbinvs (s : State) (c i : Nat) (f : SlotSt → SlotSt) : (modSlot s c i f).tbinvs = s.tbinvs := by unfold modSlot; split <;> rfl
@[simp] theorem modSlot_micro (s : State) (c i : Nat) (f : SlotSt → SlotSt) : (modSlot s c i f).micro = s.micro := by unfold modSlot; split <;> rfl
@[simp] theorem modSlot_robin (s : State) (c i : Nat) (f : SlotSt → SlotSt) : (modSlot s c i f).robin = s.robin := by unfold modSlot; split <;> rfl
@[simp] theorem modSlot_gw (s : State) (c i : Nat) (f : SlotSt → SlotSt) : (modSlot s c i f).gw = s.gw := by unfold modSlot; split <;> rfl

@[simp] theorem modCur_core (s : State) (f : SlotSt → SlotSt) : (modCur s f).core = s.core := by simp [modCur]
@[simp] theorem modCur_slot (s : State) (f : SlotSt → SlotSt) : (modCur s f).slot = s.slot := by simp [modCur]
@[simp] theorem modCur_agenda (s : State) (f : SlotSt → SlotSt) : (modCur s f).agenda = s.agenda := by simp [modCur]
@[simp] theorem modCur_focus (s : State) (f : SlotSt → SlotSt) : (modCur s f).focus = s.focus := by simp [modCur]
@[simp] theorem modCur_turns (s : State) (f : SlotSt → SlotSt) : (modCur s f).turns = s.turns := by simp [modCur]
@[simp] theorem modCur_now (s : State) (f : SlotSt → SlotSt) : (modCur s f).now = s.now := by simp [modCur]
@[simp] theorem modCur_seq (s : State) (f : SlotSt → SlotSt) : (modCur s f).seq = s.seq := by simp [modCur]
@[simp] theorem modCur_mem (s : State) (f : SlotSt → SlotSt) : (modCur s f).mem = s.mem := by simp [modCur]
@[simp] theorem modCur_mpoison (s : State) (f : SlotSt → SlotSt) : (modCur s f).mpoison = s.mpoison := by simp [modCur]
@[simp] theorem modCur_rel (s : State) (f : SlotSt → SlotSt) : (modCur s f).rel = s.rel := by simp [modCur]
@[simp] theorem modCur_arrivals (s : State) (f : SlotSt → SlotSt) : (modCur s f).arrivals = s.arrivals := by simp [modCur]
@[simp] theorem modCur_clusters (s : State) (f : SlotSt → SlotSt) : (modCur s f).clusters = s.clusters := by simp [modCur]
@[simp] theorem modCur_dies (s : State) (f : SlotSt → SlotSt) : (modCur s f).dies = s.dies := by simp [modCur]
@[simp] theorem modCur_slices (s : State) (f : SlotSt → SlotSt) : (modCur s f).slices = s.slices := by simp [modCur]
@[simp] theorem modCur_tlb (s : State) (f : SlotSt → SlotSt) : (modCur s f).tlb = s.tlb := by simp [modCur]
@[simp] theorem modCur_presence (s : State) (f : SlotSt → SlotSt) : (modCur s f).presence = s.presence := by simp [modCur]
@[simp] theorem modCur_tasks (s : State) (f : SlotSt → SlotSt) : (modCur s f).tasks = s.tasks := by simp [modCur]
@[simp] theorem modCur_launches (s : State) (f : SlotSt → SlotSt) : (modCur s f).launches = s.launches := by simp [modCur]
@[simp] theorem modCur_groups (s : State) (f : SlotSt → SlotSt) : (modCur s f).groups = s.groups := by simp [modCur]
@[simp] theorem modCur_pool (s : State) (f : SlotSt → SlotSt) : (modCur s f).pool = s.pool := by simp [modCur]
@[simp] theorem modCur_edges (s : State) (f : SlotSt → SlotSt) : (modCur s f).edges = s.edges := by simp [modCur]
@[simp] theorem modCur_probes (s : State) (f : SlotSt → SlotSt) : (modCur s f).probes = s.probes := by simp [modCur]
@[simp] theorem modCur_probeRecs (s : State) (f : SlotSt → SlotSt) : (modCur s f).probeRecs = s.probeRecs := by simp [modCur]
@[simp] theorem modCur_wakes (s : State) (f : SlotSt → SlotSt) : (modCur s f).wakes = s.wakes := by simp [modCur]
@[simp] theorem modCur_cmds (s : State) (f : SlotSt → SlotSt) : (modCur s f).cmds = s.cmds := by simp [modCur]
@[simp] theorem modCur_cmsgs (s : State) (f : SlotSt → SlotSt) : (modCur s f).cmsgs = s.cmsgs := by simp [modCur]
@[simp] theorem modCur_kmsgs (s : State) (f : SlotSt → SlotSt) : (modCur s f).kmsgs = s.kmsgs := by simp [modCur]
@[simp] theorem modCur_tiles (s : State) (f : SlotSt → SlotSt) : (modCur s f).tiles = s.tiles := by simp [modCur]
@[simp] theorem modCur_credits (s : State) (f : SlotSt → SlotSt) : (modCur s f).credits = s.credits := by simp [modCur]
@[simp] theorem modCur_nets (s : State) (f : SlotSt → SlotSt) : (modCur s f).nets = s.nets := by simp [modCur]
@[simp] theorem modCur_fetches (s : State) (f : SlotSt → SlotSt) : (modCur s f).fetches = s.fetches := by simp [modCur]
@[simp] theorem modCur_tbinvs (s : State) (f : SlotSt → SlotSt) : (modCur s f).tbinvs = s.tbinvs := by simp [modCur]
@[simp] theorem modCur_micro (s : State) (f : SlotSt → SlotSt) : (modCur s f).micro = s.micro := by simp [modCur]
@[simp] theorem modCur_robin (s : State) (f : SlotSt → SlotSt) : (modCur s f).robin = s.robin := by simp [modCur]
@[simp] theorem modCur_gw (s : State) (f : SlotSt → SlotSt) : (modCur s f).gw = s.gw := by simp [modCur]

@[simp] theorem setTask_core (s : State) (t : Nat) (v : TaskSt) : (setTask s t v).core = s.core := rfl
@[simp] theorem setTask_slot (s : State) (t : Nat) (v : TaskSt) : (setTask s t v).slot = s.slot := rfl
@[simp] theorem setTask_agenda (s : State) (t : Nat) (v : TaskSt) : (setTask s t v).agenda = s.agenda := rfl
@[simp] theorem setTask_focus (s : State) (t : Nat) (v : TaskSt) : (setTask s t v).focus = s.focus := rfl
@[simp] theorem setTask_turns (s : State) (t : Nat) (v : TaskSt) : (setTask s t v).turns = s.turns := rfl
@[simp] theorem setTask_now (s : State) (t : Nat) (v : TaskSt) : (setTask s t v).now = s.now := rfl
@[simp] theorem setTask_seq (s : State) (t : Nat) (v : TaskSt) : (setTask s t v).seq = s.seq := rfl
@[simp] theorem setTask_mem (s : State) (t : Nat) (v : TaskSt) : (setTask s t v).mem = s.mem := rfl
@[simp] theorem setTask_mpoison (s : State) (t : Nat) (v : TaskSt) : (setTask s t v).mpoison = s.mpoison := rfl
@[simp] theorem setTask_rel (s : State) (t : Nat) (v : TaskSt) : (setTask s t v).rel = s.rel := rfl
@[simp] theorem setTask_arrivals (s : State) (t : Nat) (v : TaskSt) : (setTask s t v).arrivals = s.arrivals := rfl
@[simp] theorem setTask_cores (s : State) (t : Nat) (v : TaskSt) : (setTask s t v).cores = s.cores := rfl
@[simp] theorem setTask_clusters (s : State) (t : Nat) (v : TaskSt) : (setTask s t v).clusters = s.clusters := rfl
@[simp] theorem setTask_dies (s : State) (t : Nat) (v : TaskSt) : (setTask s t v).dies = s.dies := rfl
@[simp] theorem setTask_slices (s : State) (t : Nat) (v : TaskSt) : (setTask s t v).slices = s.slices := rfl
@[simp] theorem setTask_tlb (s : State) (t : Nat) (v : TaskSt) : (setTask s t v).tlb = s.tlb := rfl
@[simp] theorem setTask_presence (s : State) (t : Nat) (v : TaskSt) : (setTask s t v).presence = s.presence := rfl
@[simp] theorem setTask_launches (s : State) (t : Nat) (v : TaskSt) : (setTask s t v).launches = s.launches := rfl
@[simp] theorem setTask_groups (s : State) (t : Nat) (v : TaskSt) : (setTask s t v).groups = s.groups := rfl
@[simp] theorem setTask_pool (s : State) (t : Nat) (v : TaskSt) : (setTask s t v).pool = s.pool := rfl
@[simp] theorem setTask_edges (s : State) (t : Nat) (v : TaskSt) : (setTask s t v).edges = s.edges := rfl
@[simp] theorem setTask_probes (s : State) (t : Nat) (v : TaskSt) : (setTask s t v).probes = s.probes := rfl
@[simp] theorem setTask_probeRecs (s : State) (t : Nat) (v : TaskSt) : (setTask s t v).probeRecs = s.probeRecs := rfl
@[simp] theorem setTask_wakes (s : State) (t : Nat) (v : TaskSt) : (setTask s t v).wakes = s.wakes := rfl
@[simp] theorem setTask_cmds (s : State) (t : Nat) (v : TaskSt) : (setTask s t v).cmds = s.cmds := rfl
@[simp] theorem setTask_cmsgs (s : State) (t : Nat) (v : TaskSt) : (setTask s t v).cmsgs = s.cmsgs := rfl
@[simp] theorem setTask_kmsgs (s : State) (t : Nat) (v : TaskSt) : (setTask s t v).kmsgs = s.kmsgs := rfl
@[simp] theorem setTask_tiles (s : State) (t : Nat) (v : TaskSt) : (setTask s t v).tiles = s.tiles := rfl
@[simp] theorem setTask_credits (s : State) (t : Nat) (v : TaskSt) : (setTask s t v).credits = s.credits := rfl
@[simp] theorem setTask_nets (s : State) (t : Nat) (v : TaskSt) : (setTask s t v).nets = s.nets := rfl
@[simp] theorem setTask_fetches (s : State) (t : Nat) (v : TaskSt) : (setTask s t v).fetches = s.fetches := rfl
@[simp] theorem setTask_tbinvs (s : State) (t : Nat) (v : TaskSt) : (setTask s t v).tbinvs = s.tbinvs := rfl
@[simp] theorem setTask_micro (s : State) (t : Nat) (v : TaskSt) : (setTask s t v).micro = s.micro := rfl
@[simp] theorem setTask_robin (s : State) (t : Nat) (v : TaskSt) : (setTask s t v).robin = s.robin := rfl
@[simp] theorem setTask_gw (s : State) (t : Nat) (v : TaskSt) : (setTask s t v).gw = s.gw := rfl
@[simp] theorem setTask_resets (s : State) (t : Nat) (v : TaskSt) : (setTask s t v).resets = s.resets := rfl
@[simp] theorem setTask_keys (s : State) (t : Nat) (v : TaskSt) : (setTask s t v).keys = s.keys := rfl
@[simp] theorem setTask_epochs (s : State) (t : Nat) (v : TaskSt) : (setTask s t v).epochs = s.epochs := rfl
@[simp] theorem setTask_cmps (s : State) (t : Nat) (v : TaskSt) : (setTask s t v).cmps = s.cmps := rfl
@[simp] theorem setTask_late (s : State) (t : Nat) (v : TaskSt) : (setTask s t v).late = s.late := rfl
@[simp] theorem setTask_owed (s : State) (t : Nat) (v : TaskSt) : (setTask s t v).owed = s.owed := rfl
@[simp] theorem setTask_engines (s : State) (t : Nat) (v : TaskSt) : (setTask s t v).engines = s.engines := rfl
@[simp] theorem setTask_wires (s : State) (t : Nat) (v : TaskSt) : (setTask s t v).wires = s.wires := rfl

@[simp] theorem setTask_tasks (s : State) (t : Nat) (v : TaskSt) : (setTask s t v).tasks = tset s.tasks t v := rfl

@[simp] theorem modTask_core (s : State) (t : Nat) (f : TaskSt → TaskSt) : (modTask s t f).core = s.core := rfl
@[simp] theorem modTask_slot (s : State) (t : Nat) (f : TaskSt → TaskSt) : (modTask s t f).slot = s.slot := rfl
@[simp] theorem modTask_agenda (s : State) (t : Nat) (f : TaskSt → TaskSt) : (modTask s t f).agenda = s.agenda := rfl
@[simp] theorem modTask_focus (s : State) (t : Nat) (f : TaskSt → TaskSt) : (modTask s t f).focus = s.focus := rfl
@[simp] theorem modTask_turns (s : State) (t : Nat) (f : TaskSt → TaskSt) : (modTask s t f).turns = s.turns := rfl
@[simp] theorem modTask_now (s : State) (t : Nat) (f : TaskSt → TaskSt) : (modTask s t f).now = s.now := rfl
@[simp] theorem modTask_seq (s : State) (t : Nat) (f : TaskSt → TaskSt) : (modTask s t f).seq = s.seq := rfl
@[simp] theorem modTask_mem (s : State) (t : Nat) (f : TaskSt → TaskSt) : (modTask s t f).mem = s.mem := rfl
@[simp] theorem modTask_mpoison (s : State) (t : Nat) (f : TaskSt → TaskSt) : (modTask s t f).mpoison = s.mpoison := rfl
@[simp] theorem modTask_rel (s : State) (t : Nat) (f : TaskSt → TaskSt) : (modTask s t f).rel = s.rel := rfl
@[simp] theorem modTask_arrivals (s : State) (t : Nat) (f : TaskSt → TaskSt) : (modTask s t f).arrivals = s.arrivals := rfl
@[simp] theorem modTask_cores (s : State) (t : Nat) (f : TaskSt → TaskSt) : (modTask s t f).cores = s.cores := rfl
@[simp] theorem modTask_clusters (s : State) (t : Nat) (f : TaskSt → TaskSt) : (modTask s t f).clusters = s.clusters := rfl
@[simp] theorem modTask_dies (s : State) (t : Nat) (f : TaskSt → TaskSt) : (modTask s t f).dies = s.dies := rfl
@[simp] theorem modTask_slices (s : State) (t : Nat) (f : TaskSt → TaskSt) : (modTask s t f).slices = s.slices := rfl
@[simp] theorem modTask_tlb (s : State) (t : Nat) (f : TaskSt → TaskSt) : (modTask s t f).tlb = s.tlb := rfl
@[simp] theorem modTask_presence (s : State) (t : Nat) (f : TaskSt → TaskSt) : (modTask s t f).presence = s.presence := rfl
@[simp] theorem modTask_launches (s : State) (t : Nat) (f : TaskSt → TaskSt) : (modTask s t f).launches = s.launches := rfl
@[simp] theorem modTask_groups (s : State) (t : Nat) (f : TaskSt → TaskSt) : (modTask s t f).groups = s.groups := rfl
@[simp] theorem modTask_pool (s : State) (t : Nat) (f : TaskSt → TaskSt) : (modTask s t f).pool = s.pool := rfl
@[simp] theorem modTask_edges (s : State) (t : Nat) (f : TaskSt → TaskSt) : (modTask s t f).edges = s.edges := rfl
@[simp] theorem modTask_probes (s : State) (t : Nat) (f : TaskSt → TaskSt) : (modTask s t f).probes = s.probes := rfl
@[simp] theorem modTask_probeRecs (s : State) (t : Nat) (f : TaskSt → TaskSt) : (modTask s t f).probeRecs = s.probeRecs := rfl
@[simp] theorem modTask_wakes (s : State) (t : Nat) (f : TaskSt → TaskSt) : (modTask s t f).wakes = s.wakes := rfl
@[simp] theorem modTask_cmds (s : State) (t : Nat) (f : TaskSt → TaskSt) : (modTask s t f).cmds = s.cmds := rfl
@[simp] theorem modTask_cmsgs (s : State) (t : Nat) (f : TaskSt → TaskSt) : (modTask s t f).cmsgs = s.cmsgs := rfl
@[simp] theorem modTask_kmsgs (s : State) (t : Nat) (f : TaskSt → TaskSt) : (modTask s t f).kmsgs = s.kmsgs := rfl
@[simp] theorem modTask_tiles (s : State) (t : Nat) (f : TaskSt → TaskSt) : (modTask s t f).tiles = s.tiles := rfl
@[simp] theorem modTask_credits (s : State) (t : Nat) (f : TaskSt → TaskSt) : (modTask s t f).credits = s.credits := rfl
@[simp] theorem modTask_nets (s : State) (t : Nat) (f : TaskSt → TaskSt) : (modTask s t f).nets = s.nets := rfl
@[simp] theorem modTask_fetches (s : State) (t : Nat) (f : TaskSt → TaskSt) : (modTask s t f).fetches = s.fetches := rfl
@[simp] theorem modTask_tbinvs (s : State) (t : Nat) (f : TaskSt → TaskSt) : (modTask s t f).tbinvs = s.tbinvs := rfl
@[simp] theorem modTask_micro (s : State) (t : Nat) (f : TaskSt → TaskSt) : (modTask s t f).micro = s.micro := rfl
@[simp] theorem modTask_robin (s : State) (t : Nat) (f : TaskSt → TaskSt) : (modTask s t f).robin = s.robin := rfl
@[simp] theorem modTask_gw (s : State) (t : Nat) (f : TaskSt → TaskSt) : (modTask s t f).gw = s.gw := rfl
@[simp] theorem modTask_resets (s : State) (t : Nat) (f : TaskSt → TaskSt) : (modTask s t f).resets = s.resets := rfl
@[simp] theorem modTask_keys (s : State) (t : Nat) (f : TaskSt → TaskSt) : (modTask s t f).keys = s.keys := rfl
@[simp] theorem modTask_epochs (s : State) (t : Nat) (f : TaskSt → TaskSt) : (modTask s t f).epochs = s.epochs := rfl
@[simp] theorem modTask_cmps (s : State) (t : Nat) (f : TaskSt → TaskSt) : (modTask s t f).cmps = s.cmps := rfl
@[simp] theorem modTask_late (s : State) (t : Nat) (f : TaskSt → TaskSt) : (modTask s t f).late = s.late := rfl
@[simp] theorem modTask_owed (s : State) (t : Nat) (f : TaskSt → TaskSt) : (modTask s t f).owed = s.owed := rfl
@[simp] theorem modTask_engines (s : State) (t : Nat) (f : TaskSt → TaskSt) : (modTask s t f).engines = s.engines := rfl
@[simp] theorem modTask_wires (s : State) (t : Nat) (f : TaskSt → TaskSt) : (modTask s t f).wires = s.wires := rfl

@[simp] theorem setDie_core (s : State) (d : Nat) (v : DieSt) : (setDie s d v).core = s.core := rfl
@[simp] theorem setDie_slot (s : State) (d : Nat) (v : DieSt) : (setDie s d v).slot = s.slot := rfl
@[simp] theorem setDie_agenda (s : State) (d : Nat) (v : DieSt) : (setDie s d v).agenda = s.agenda := rfl
@[simp] theorem setDie_focus (s : State) (d : Nat) (v : DieSt) : (setDie s d v).focus = s.focus := rfl
@[simp] theorem setDie_turns (s : State) (d : Nat) (v : DieSt) : (setDie s d v).turns = s.turns := rfl
@[simp] theorem setDie_now (s : State) (d : Nat) (v : DieSt) : (setDie s d v).now = s.now := rfl
@[simp] theorem setDie_seq (s : State) (d : Nat) (v : DieSt) : (setDie s d v).seq = s.seq := rfl
@[simp] theorem setDie_mem (s : State) (d : Nat) (v : DieSt) : (setDie s d v).mem = s.mem := rfl
@[simp] theorem setDie_mpoison (s : State) (d : Nat) (v : DieSt) : (setDie s d v).mpoison = s.mpoison := rfl
@[simp] theorem setDie_rel (s : State) (d : Nat) (v : DieSt) : (setDie s d v).rel = s.rel := rfl
@[simp] theorem setDie_arrivals (s : State) (d : Nat) (v : DieSt) : (setDie s d v).arrivals = s.arrivals := rfl
@[simp] theorem setDie_cores (s : State) (d : Nat) (v : DieSt) : (setDie s d v).cores = s.cores := rfl
@[simp] theorem setDie_clusters (s : State) (d : Nat) (v : DieSt) : (setDie s d v).clusters = s.clusters := rfl
@[simp] theorem setDie_slices (s : State) (d : Nat) (v : DieSt) : (setDie s d v).slices = s.slices := rfl
@[simp] theorem setDie_tlb (s : State) (d : Nat) (v : DieSt) : (setDie s d v).tlb = s.tlb := rfl
@[simp] theorem setDie_presence (s : State) (d : Nat) (v : DieSt) : (setDie s d v).presence = s.presence := rfl
@[simp] theorem setDie_tasks (s : State) (d : Nat) (v : DieSt) : (setDie s d v).tasks = s.tasks := rfl
@[simp] theorem setDie_launches (s : State) (d : Nat) (v : DieSt) : (setDie s d v).launches = s.launches := rfl
@[simp] theorem setDie_groups (s : State) (d : Nat) (v : DieSt) : (setDie s d v).groups = s.groups := rfl
@[simp] theorem setDie_pool (s : State) (d : Nat) (v : DieSt) : (setDie s d v).pool = s.pool := rfl
@[simp] theorem setDie_edges (s : State) (d : Nat) (v : DieSt) : (setDie s d v).edges = s.edges := rfl
@[simp] theorem setDie_probes (s : State) (d : Nat) (v : DieSt) : (setDie s d v).probes = s.probes := rfl
@[simp] theorem setDie_probeRecs (s : State) (d : Nat) (v : DieSt) : (setDie s d v).probeRecs = s.probeRecs := rfl
@[simp] theorem setDie_wakes (s : State) (d : Nat) (v : DieSt) : (setDie s d v).wakes = s.wakes := rfl
@[simp] theorem setDie_cmds (s : State) (d : Nat) (v : DieSt) : (setDie s d v).cmds = s.cmds := rfl
@[simp] theorem setDie_cmsgs (s : State) (d : Nat) (v : DieSt) : (setDie s d v).cmsgs = s.cmsgs := rfl
@[simp] theorem setDie_kmsgs (s : State) (d : Nat) (v : DieSt) : (setDie s d v).kmsgs = s.kmsgs := rfl
@[simp] theorem setDie_tiles (s : State) (d : Nat) (v : DieSt) : (setDie s d v).tiles = s.tiles := rfl
@[simp] theorem setDie_credits (s : State) (d : Nat) (v : DieSt) : (setDie s d v).credits = s.credits := rfl
@[simp] theorem setDie_nets (s : State) (d : Nat) (v : DieSt) : (setDie s d v).nets = s.nets := rfl
@[simp] theorem setDie_fetches (s : State) (d : Nat) (v : DieSt) : (setDie s d v).fetches = s.fetches := rfl
@[simp] theorem setDie_tbinvs (s : State) (d : Nat) (v : DieSt) : (setDie s d v).tbinvs = s.tbinvs := rfl
@[simp] theorem setDie_micro (s : State) (d : Nat) (v : DieSt) : (setDie s d v).micro = s.micro := rfl
@[simp] theorem setDie_robin (s : State) (d : Nat) (v : DieSt) : (setDie s d v).robin = s.robin := rfl
@[simp] theorem setDie_gw (s : State) (d : Nat) (v : DieSt) : (setDie s d v).gw = s.gw := rfl
@[simp] theorem setDie_resets (s : State) (d : Nat) (v : DieSt) : (setDie s d v).resets = s.resets := rfl
@[simp] theorem setDie_keys (s : State) (d : Nat) (v : DieSt) : (setDie s d v).keys = s.keys := rfl
@[simp] theorem setDie_epochs (s : State) (d : Nat) (v : DieSt) : (setDie s d v).epochs = s.epochs := rfl
@[simp] theorem setDie_cmps (s : State) (d : Nat) (v : DieSt) : (setDie s d v).cmps = s.cmps := rfl
@[simp] theorem setDie_late (s : State) (d : Nat) (v : DieSt) : (setDie s d v).late = s.late := rfl
@[simp] theorem setDie_owed (s : State) (d : Nat) (v : DieSt) : (setDie s d v).owed = s.owed := rfl
@[simp] theorem setDie_engines (s : State) (d : Nat) (v : DieSt) : (setDie s d v).engines = s.engines := rfl
@[simp] theorem setDie_wires (s : State) (d : Nat) (v : DieSt) : (setDie s d v).wires = s.wires := rfl

@[simp] theorem setCluster_core (s : State) (c : Nat) (v : ClusterSt) : (setCluster s c v).core = s.core := rfl
@[simp] theorem setCluster_slot (s : State) (c : Nat) (v : ClusterSt) : (setCluster s c v).slot = s.slot := rfl
@[simp] theorem setCluster_agenda (s : State) (c : Nat) (v : ClusterSt) : (setCluster s c v).agenda = s.agenda := rfl
@[simp] theorem setCluster_focus (s : State) (c : Nat) (v : ClusterSt) : (setCluster s c v).focus = s.focus := rfl
@[simp] theorem setCluster_turns (s : State) (c : Nat) (v : ClusterSt) : (setCluster s c v).turns = s.turns := rfl
@[simp] theorem setCluster_now (s : State) (c : Nat) (v : ClusterSt) : (setCluster s c v).now = s.now := rfl
@[simp] theorem setCluster_seq (s : State) (c : Nat) (v : ClusterSt) : (setCluster s c v).seq = s.seq := rfl
@[simp] theorem setCluster_mem (s : State) (c : Nat) (v : ClusterSt) : (setCluster s c v).mem = s.mem := rfl
@[simp] theorem setCluster_mpoison (s : State) (c : Nat) (v : ClusterSt) : (setCluster s c v).mpoison = s.mpoison := rfl
@[simp] theorem setCluster_rel (s : State) (c : Nat) (v : ClusterSt) : (setCluster s c v).rel = s.rel := rfl
@[simp] theorem setCluster_arrivals (s : State) (c : Nat) (v : ClusterSt) : (setCluster s c v).arrivals = s.arrivals := rfl
@[simp] theorem setCluster_cores (s : State) (c : Nat) (v : ClusterSt) : (setCluster s c v).cores = s.cores := rfl
@[simp] theorem setCluster_dies (s : State) (c : Nat) (v : ClusterSt) : (setCluster s c v).dies = s.dies := rfl
@[simp] theorem setCluster_slices (s : State) (c : Nat) (v : ClusterSt) : (setCluster s c v).slices = s.slices := rfl
@[simp] theorem setCluster_tlb (s : State) (c : Nat) (v : ClusterSt) : (setCluster s c v).tlb = s.tlb := rfl
@[simp] theorem setCluster_presence (s : State) (c : Nat) (v : ClusterSt) : (setCluster s c v).presence = s.presence := rfl
@[simp] theorem setCluster_tasks (s : State) (c : Nat) (v : ClusterSt) : (setCluster s c v).tasks = s.tasks := rfl
@[simp] theorem setCluster_launches (s : State) (c : Nat) (v : ClusterSt) : (setCluster s c v).launches = s.launches := rfl
@[simp] theorem setCluster_groups (s : State) (c : Nat) (v : ClusterSt) : (setCluster s c v).groups = s.groups := rfl
@[simp] theorem setCluster_pool (s : State) (c : Nat) (v : ClusterSt) : (setCluster s c v).pool = s.pool := rfl
@[simp] theorem setCluster_edges (s : State) (c : Nat) (v : ClusterSt) : (setCluster s c v).edges = s.edges := rfl
@[simp] theorem setCluster_probes (s : State) (c : Nat) (v : ClusterSt) : (setCluster s c v).probes = s.probes := rfl
@[simp] theorem setCluster_probeRecs (s : State) (c : Nat) (v : ClusterSt) : (setCluster s c v).probeRecs = s.probeRecs := rfl
@[simp] theorem setCluster_wakes (s : State) (c : Nat) (v : ClusterSt) : (setCluster s c v).wakes = s.wakes := rfl
@[simp] theorem setCluster_cmds (s : State) (c : Nat) (v : ClusterSt) : (setCluster s c v).cmds = s.cmds := rfl
@[simp] theorem setCluster_cmsgs (s : State) (c : Nat) (v : ClusterSt) : (setCluster s c v).cmsgs = s.cmsgs := rfl
@[simp] theorem setCluster_kmsgs (s : State) (c : Nat) (v : ClusterSt) : (setCluster s c v).kmsgs = s.kmsgs := rfl
@[simp] theorem setCluster_tiles (s : State) (c : Nat) (v : ClusterSt) : (setCluster s c v).tiles = s.tiles := rfl
@[simp] theorem setCluster_credits (s : State) (c : Nat) (v : ClusterSt) : (setCluster s c v).credits = s.credits := rfl
@[simp] theorem setCluster_nets (s : State) (c : Nat) (v : ClusterSt) : (setCluster s c v).nets = s.nets := rfl
@[simp] theorem setCluster_fetches (s : State) (c : Nat) (v : ClusterSt) : (setCluster s c v).fetches = s.fetches := rfl
@[simp] theorem setCluster_tbinvs (s : State) (c : Nat) (v : ClusterSt) : (setCluster s c v).tbinvs = s.tbinvs := rfl
@[simp] theorem setCluster_micro (s : State) (c : Nat) (v : ClusterSt) : (setCluster s c v).micro = s.micro := rfl
@[simp] theorem setCluster_robin (s : State) (c : Nat) (v : ClusterSt) : (setCluster s c v).robin = s.robin := rfl
@[simp] theorem setCluster_gw (s : State) (c : Nat) (v : ClusterSt) : (setCluster s c v).gw = s.gw := rfl
@[simp] theorem setCluster_resets (s : State) (c : Nat) (v : ClusterSt) : (setCluster s c v).resets = s.resets := rfl
@[simp] theorem setCluster_keys (s : State) (c : Nat) (v : ClusterSt) : (setCluster s c v).keys = s.keys := rfl
@[simp] theorem setCluster_epochs (s : State) (c : Nat) (v : ClusterSt) : (setCluster s c v).epochs = s.epochs := rfl
@[simp] theorem setCluster_cmps (s : State) (c : Nat) (v : ClusterSt) : (setCluster s c v).cmps = s.cmps := rfl
@[simp] theorem setCluster_late (s : State) (c : Nat) (v : ClusterSt) : (setCluster s c v).late = s.late := rfl
@[simp] theorem setCluster_owed (s : State) (c : Nat) (v : ClusterSt) : (setCluster s c v).owed = s.owed := rfl
@[simp] theorem setCluster_engines (s : State) (c : Nat) (v : ClusterSt) : (setCluster s c v).engines = s.engines := rfl
@[simp] theorem setCluster_wires (s : State) (c : Nat) (v : ClusterSt) : (setCluster s c v).wires = s.wires := rfl

@[simp] theorem modCluster_core (s : State) (c : Nat) (f : ClusterSt → ClusterSt) : (modCluster s c f).core = s.core := rfl
@[simp] theorem modCluster_slot (s : State) (c : Nat) (f : ClusterSt → ClusterSt) : (modCluster s c f).slot = s.slot := rfl
@[simp] theorem modCluster_agenda (s : State) (c : Nat) (f : ClusterSt → ClusterSt) : (modCluster s c f).agenda = s.agenda := rfl
@[simp] theorem modCluster_focus (s : State) (c : Nat) (f : ClusterSt → ClusterSt) : (modCluster s c f).focus = s.focus := rfl
@[simp] theorem modCluster_turns (s : State) (c : Nat) (f : ClusterSt → ClusterSt) : (modCluster s c f).turns = s.turns := rfl
@[simp] theorem modCluster_now (s : State) (c : Nat) (f : ClusterSt → ClusterSt) : (modCluster s c f).now = s.now := rfl
@[simp] theorem modCluster_seq (s : State) (c : Nat) (f : ClusterSt → ClusterSt) : (modCluster s c f).seq = s.seq := rfl
@[simp] theorem modCluster_mem (s : State) (c : Nat) (f : ClusterSt → ClusterSt) : (modCluster s c f).mem = s.mem := rfl
@[simp] theorem modCluster_mpoison (s : State) (c : Nat) (f : ClusterSt → ClusterSt) : (modCluster s c f).mpoison = s.mpoison := rfl
@[simp] theorem modCluster_rel (s : State) (c : Nat) (f : ClusterSt → ClusterSt) : (modCluster s c f).rel = s.rel := rfl
@[simp] theorem modCluster_arrivals (s : State) (c : Nat) (f : ClusterSt → ClusterSt) : (modCluster s c f).arrivals = s.arrivals := rfl
@[simp] theorem modCluster_cores (s : State) (c : Nat) (f : ClusterSt → ClusterSt) : (modCluster s c f).cores = s.cores := rfl
@[simp] theorem modCluster_dies (s : State) (c : Nat) (f : ClusterSt → ClusterSt) : (modCluster s c f).dies = s.dies := rfl
@[simp] theorem modCluster_slices (s : State) (c : Nat) (f : ClusterSt → ClusterSt) : (modCluster s c f).slices = s.slices := rfl
@[simp] theorem modCluster_tlb (s : State) (c : Nat) (f : ClusterSt → ClusterSt) : (modCluster s c f).tlb = s.tlb := rfl
@[simp] theorem modCluster_presence (s : State) (c : Nat) (f : ClusterSt → ClusterSt) : (modCluster s c f).presence = s.presence := rfl
@[simp] theorem modCluster_tasks (s : State) (c : Nat) (f : ClusterSt → ClusterSt) : (modCluster s c f).tasks = s.tasks := rfl
@[simp] theorem modCluster_launches (s : State) (c : Nat) (f : ClusterSt → ClusterSt) : (modCluster s c f).launches = s.launches := rfl
@[simp] theorem modCluster_groups (s : State) (c : Nat) (f : ClusterSt → ClusterSt) : (modCluster s c f).groups = s.groups := rfl
@[simp] theorem modCluster_pool (s : State) (c : Nat) (f : ClusterSt → ClusterSt) : (modCluster s c f).pool = s.pool := rfl
@[simp] theorem modCluster_edges (s : State) (c : Nat) (f : ClusterSt → ClusterSt) : (modCluster s c f).edges = s.edges := rfl
@[simp] theorem modCluster_probes (s : State) (c : Nat) (f : ClusterSt → ClusterSt) : (modCluster s c f).probes = s.probes := rfl
@[simp] theorem modCluster_probeRecs (s : State) (c : Nat) (f : ClusterSt → ClusterSt) : (modCluster s c f).probeRecs = s.probeRecs := rfl
@[simp] theorem modCluster_wakes (s : State) (c : Nat) (f : ClusterSt → ClusterSt) : (modCluster s c f).wakes = s.wakes := rfl
@[simp] theorem modCluster_cmds (s : State) (c : Nat) (f : ClusterSt → ClusterSt) : (modCluster s c f).cmds = s.cmds := rfl
@[simp] theorem modCluster_cmsgs (s : State) (c : Nat) (f : ClusterSt → ClusterSt) : (modCluster s c f).cmsgs = s.cmsgs := rfl
@[simp] theorem modCluster_kmsgs (s : State) (c : Nat) (f : ClusterSt → ClusterSt) : (modCluster s c f).kmsgs = s.kmsgs := rfl
@[simp] theorem modCluster_tiles (s : State) (c : Nat) (f : ClusterSt → ClusterSt) : (modCluster s c f).tiles = s.tiles := rfl
@[simp] theorem modCluster_credits (s : State) (c : Nat) (f : ClusterSt → ClusterSt) : (modCluster s c f).credits = s.credits := rfl
@[simp] theorem modCluster_nets (s : State) (c : Nat) (f : ClusterSt → ClusterSt) : (modCluster s c f).nets = s.nets := rfl
@[simp] theorem modCluster_fetches (s : State) (c : Nat) (f : ClusterSt → ClusterSt) : (modCluster s c f).fetches = s.fetches := rfl
@[simp] theorem modCluster_tbinvs (s : State) (c : Nat) (f : ClusterSt → ClusterSt) : (modCluster s c f).tbinvs = s.tbinvs := rfl
@[simp] theorem modCluster_micro (s : State) (c : Nat) (f : ClusterSt → ClusterSt) : (modCluster s c f).micro = s.micro := rfl
@[simp] theorem modCluster_robin (s : State) (c : Nat) (f : ClusterSt → ClusterSt) : (modCluster s c f).robin = s.robin := rfl
@[simp] theorem modCluster_gw (s : State) (c : Nat) (f : ClusterSt → ClusterSt) : (modCluster s c f).gw = s.gw := rfl
@[simp] theorem modCluster_resets (s : State) (c : Nat) (f : ClusterSt → ClusterSt) :
    (modCluster s c f).resets = s.resets := rfl
@[simp] theorem modCluster_keys (s : State) (c : Nat) (f : ClusterSt → ClusterSt) : (modCluster s c f).keys = s.keys := rfl
@[simp] theorem modCluster_epochs (s : State) (c : Nat) (f : ClusterSt → ClusterSt) :
    (modCluster s c f).epochs = s.epochs := rfl
@[simp] theorem modCluster_cmps (s : State) (c : Nat) (f : ClusterSt → ClusterSt) : (modCluster s c f).cmps = s.cmps := rfl
@[simp] theorem modCluster_late (s : State) (c : Nat) (f : ClusterSt → ClusterSt) : (modCluster s c f).late = s.late := rfl
@[simp] theorem modCluster_owed (s : State) (c : Nat) (f : ClusterSt → ClusterSt) : (modCluster s c f).owed = s.owed := rfl
@[simp] theorem modCluster_engines (s : State) (c : Nat) (f : ClusterSt → ClusterSt) :
    (modCluster s c f).engines = s.engines := rfl
@[simp] theorem modCluster_wires (s : State) (c : Nat) (f : ClusterSt → ClusterSt) :
    (modCluster s c f).wires = s.wires := rfl

@[simp] theorem setSlice_core (s : State) (k : Nat) (v : SliceSt) : (setSlice s k v).core = s.core := rfl
@[simp] theorem setSlice_slot (s : State) (k : Nat) (v : SliceSt) : (setSlice s k v).slot = s.slot := rfl
@[simp] theorem setSlice_agenda (s : State) (k : Nat) (v : SliceSt) : (setSlice s k v).agenda = s.agenda := rfl
@[simp] theorem setSlice_focus (s : State) (k : Nat) (v : SliceSt) : (setSlice s k v).focus = s.focus := rfl
@[simp] theorem setSlice_turns (s : State) (k : Nat) (v : SliceSt) : (setSlice s k v).turns = s.turns := rfl
@[simp] theorem setSlice_now (s : State) (k : Nat) (v : SliceSt) : (setSlice s k v).now = s.now := rfl
@[simp] theorem setSlice_seq (s : State) (k : Nat) (v : SliceSt) : (setSlice s k v).seq = s.seq := rfl
@[simp] theorem setSlice_mem (s : State) (k : Nat) (v : SliceSt) : (setSlice s k v).mem = s.mem := rfl
@[simp] theorem setSlice_mpoison (s : State) (k : Nat) (v : SliceSt) : (setSlice s k v).mpoison = s.mpoison := rfl
@[simp] theorem setSlice_rel (s : State) (k : Nat) (v : SliceSt) : (setSlice s k v).rel = s.rel := rfl
@[simp] theorem setSlice_arrivals (s : State) (k : Nat) (v : SliceSt) : (setSlice s k v).arrivals = s.arrivals := rfl
@[simp] theorem setSlice_cores (s : State) (k : Nat) (v : SliceSt) : (setSlice s k v).cores = s.cores := rfl
@[simp] theorem setSlice_clusters (s : State) (k : Nat) (v : SliceSt) : (setSlice s k v).clusters = s.clusters := rfl
@[simp] theorem setSlice_dies (s : State) (k : Nat) (v : SliceSt) : (setSlice s k v).dies = s.dies := rfl
@[simp] theorem setSlice_tlb (s : State) (k : Nat) (v : SliceSt) : (setSlice s k v).tlb = s.tlb := rfl
@[simp] theorem setSlice_presence (s : State) (k : Nat) (v : SliceSt) : (setSlice s k v).presence = s.presence := rfl
@[simp] theorem setSlice_tasks (s : State) (k : Nat) (v : SliceSt) : (setSlice s k v).tasks = s.tasks := rfl
@[simp] theorem setSlice_launches (s : State) (k : Nat) (v : SliceSt) : (setSlice s k v).launches = s.launches := rfl
@[simp] theorem setSlice_groups (s : State) (k : Nat) (v : SliceSt) : (setSlice s k v).groups = s.groups := rfl
@[simp] theorem setSlice_pool (s : State) (k : Nat) (v : SliceSt) : (setSlice s k v).pool = s.pool := rfl
@[simp] theorem setSlice_edges (s : State) (k : Nat) (v : SliceSt) : (setSlice s k v).edges = s.edges := rfl
@[simp] theorem setSlice_probes (s : State) (k : Nat) (v : SliceSt) : (setSlice s k v).probes = s.probes := rfl
@[simp] theorem setSlice_probeRecs (s : State) (k : Nat) (v : SliceSt) : (setSlice s k v).probeRecs = s.probeRecs := rfl
@[simp] theorem setSlice_wakes (s : State) (k : Nat) (v : SliceSt) : (setSlice s k v).wakes = s.wakes := rfl
@[simp] theorem setSlice_cmds (s : State) (k : Nat) (v : SliceSt) : (setSlice s k v).cmds = s.cmds := rfl
@[simp] theorem setSlice_cmsgs (s : State) (k : Nat) (v : SliceSt) : (setSlice s k v).cmsgs = s.cmsgs := rfl
@[simp] theorem setSlice_kmsgs (s : State) (k : Nat) (v : SliceSt) : (setSlice s k v).kmsgs = s.kmsgs := rfl
@[simp] theorem setSlice_tiles (s : State) (k : Nat) (v : SliceSt) : (setSlice s k v).tiles = s.tiles := rfl
@[simp] theorem setSlice_credits (s : State) (k : Nat) (v : SliceSt) : (setSlice s k v).credits = s.credits := rfl
@[simp] theorem setSlice_nets (s : State) (k : Nat) (v : SliceSt) : (setSlice s k v).nets = s.nets := rfl
@[simp] theorem setSlice_fetches (s : State) (k : Nat) (v : SliceSt) : (setSlice s k v).fetches = s.fetches := rfl
@[simp] theorem setSlice_tbinvs (s : State) (k : Nat) (v : SliceSt) : (setSlice s k v).tbinvs = s.tbinvs := rfl
@[simp] theorem setSlice_micro (s : State) (k : Nat) (v : SliceSt) : (setSlice s k v).micro = s.micro := rfl
@[simp] theorem setSlice_robin (s : State) (k : Nat) (v : SliceSt) : (setSlice s k v).robin = s.robin := rfl
@[simp] theorem setSlice_gw (s : State) (k : Nat) (v : SliceSt) : (setSlice s k v).gw = s.gw := rfl
@[simp] theorem setSlice_resets (s : State) (k : Nat) (v : SliceSt) : (setSlice s k v).resets = s.resets := rfl
@[simp] theorem setSlice_keys (s : State) (k : Nat) (v : SliceSt) : (setSlice s k v).keys = s.keys := rfl
@[simp] theorem setSlice_epochs (s : State) (k : Nat) (v : SliceSt) : (setSlice s k v).epochs = s.epochs := rfl
@[simp] theorem setSlice_cmps (s : State) (k : Nat) (v : SliceSt) : (setSlice s k v).cmps = s.cmps := rfl
@[simp] theorem setSlice_late (s : State) (k : Nat) (v : SliceSt) : (setSlice s k v).late = s.late := rfl
@[simp] theorem setSlice_owed (s : State) (k : Nat) (v : SliceSt) : (setSlice s k v).owed = s.owed := rfl
@[simp] theorem setSlice_engines (s : State) (k : Nat) (v : SliceSt) : (setSlice s k v).engines = s.engines := rfl
@[simp] theorem setSlice_wires (s : State) (k : Nat) (v : SliceSt) : (setSlice s k v).wires = s.wires := rfl

@[simp] theorem picked_core (s : State) (y : Bool) : (picked s y).core = s.core := rfl
@[simp] theorem picked_slot (s : State) (y : Bool) : (picked s y).slot = s.slot := rfl
@[simp] theorem picked_agenda (s : State) (y : Bool) : (picked s y).agenda = s.agenda := rfl
@[simp] theorem picked_focus (s : State) (y : Bool) : (picked s y).focus = s.focus := rfl
@[simp] theorem picked_turns (s : State) (y : Bool) : (picked s y).turns = s.turns := rfl
@[simp] theorem picked_now (s : State) (y : Bool) : (picked s y).now = s.now := rfl
@[simp] theorem picked_seq (s : State) (y : Bool) : (picked s y).seq = s.seq := rfl
@[simp] theorem picked_mem (s : State) (y : Bool) : (picked s y).mem = s.mem := rfl
@[simp] theorem picked_mpoison (s : State) (y : Bool) : (picked s y).mpoison = s.mpoison := rfl
@[simp] theorem picked_rel (s : State) (y : Bool) : (picked s y).rel = s.rel := rfl
@[simp] theorem picked_arrivals (s : State) (y : Bool) : (picked s y).arrivals = s.arrivals := rfl
@[simp] theorem picked_clusters (s : State) (y : Bool) : (picked s y).clusters = s.clusters := rfl
@[simp] theorem picked_dies (s : State) (y : Bool) : (picked s y).dies = s.dies := rfl
@[simp] theorem picked_slices (s : State) (y : Bool) : (picked s y).slices = s.slices := rfl
@[simp] theorem picked_tlb (s : State) (y : Bool) : (picked s y).tlb = s.tlb := rfl
@[simp] theorem picked_presence (s : State) (y : Bool) : (picked s y).presence = s.presence := rfl
@[simp] theorem picked_tasks (s : State) (y : Bool) : (picked s y).tasks = s.tasks := rfl
@[simp] theorem picked_launches (s : State) (y : Bool) : (picked s y).launches = s.launches := rfl
@[simp] theorem picked_groups (s : State) (y : Bool) : (picked s y).groups = s.groups := rfl
@[simp] theorem picked_pool (s : State) (y : Bool) : (picked s y).pool = s.pool := rfl
@[simp] theorem picked_edges (s : State) (y : Bool) : (picked s y).edges = s.edges := rfl
@[simp] theorem picked_probes (s : State) (y : Bool) : (picked s y).probes = s.probes := rfl
@[simp] theorem picked_probeRecs (s : State) (y : Bool) : (picked s y).probeRecs = s.probeRecs := rfl
@[simp] theorem picked_wakes (s : State) (y : Bool) : (picked s y).wakes = s.wakes := rfl
@[simp] theorem picked_cmds (s : State) (y : Bool) : (picked s y).cmds = s.cmds := rfl
@[simp] theorem picked_cmsgs (s : State) (y : Bool) : (picked s y).cmsgs = s.cmsgs := rfl
@[simp] theorem picked_kmsgs (s : State) (y : Bool) : (picked s y).kmsgs = s.kmsgs := rfl
@[simp] theorem picked_tiles (s : State) (y : Bool) : (picked s y).tiles = s.tiles := rfl
@[simp] theorem picked_credits (s : State) (y : Bool) : (picked s y).credits = s.credits := rfl
@[simp] theorem picked_nets (s : State) (y : Bool) : (picked s y).nets = s.nets := rfl
@[simp] theorem picked_fetches (s : State) (y : Bool) : (picked s y).fetches = s.fetches := rfl
@[simp] theorem picked_tbinvs (s : State) (y : Bool) : (picked s y).tbinvs = s.tbinvs := rfl
@[simp] theorem picked_micro (s : State) (y : Bool) : (picked s y).micro = s.micro := rfl
@[simp] theorem picked_robin (s : State) (y : Bool) : (picked s y).robin = s.robin := rfl
@[simp] theorem picked_gw (s : State) (y : Bool) : (picked s y).gw = s.gw := rfl
@[simp] theorem picked_resets (s : State) (y : Bool) : (picked s y).resets = s.resets := rfl
@[simp] theorem picked_keys (s : State) (y : Bool) : (picked s y).keys = s.keys := rfl
@[simp] theorem picked_epochs (s : State) (y : Bool) : (picked s y).epochs = s.epochs := rfl
@[simp] theorem picked_cmps (s : State) (y : Bool) : (picked s y).cmps = s.cmps := rfl
@[simp] theorem picked_late (s : State) (y : Bool) : (picked s y).late = s.late := rfl
@[simp] theorem picked_owed (s : State) (y : Bool) : (picked s y).owed = s.owed := rfl
@[simp] theorem picked_engines (s : State) (y : Bool) : (picked s y).engines = s.engines := rfl
@[simp] theorem picked_wires (s : State) (y : Bool) : (picked s y).wires = s.wires := rfl

@[simp] theorem wrote_task (q : SlotSt) (r : Reg) : (q.wrote r).task = q.task := rfl
@[simp] theorem wrote_pc (q : SlotSt) (r : Reg) : (q.wrote r).pc = q.pc := rfl
@[simp] theorem wrote_xs (q : SlotSt) (r : Reg) : (q.wrote r).xs = q.xs := rfl
@[simp] theorem wrote_vs (q : SlotSt) (r : Reg) : (q.wrote r).vs = q.vs := rfl
@[simp] theorem wrote_ps (q : SlotSt) (r : Reg) : (q.wrote r).ps = q.ps := rfl
@[simp] theorem wrote_fpstat (q : SlotSt) (r : Reg) : (q.wrote r).fpstat = q.fpstat := rfl
@[simp] theorem wrote_misses (q : SlotSt) (r : Reg) : (q.wrote r).misses = q.misses := rfl
@[simp] theorem wrote_slips (q : SlotSt) (r : Reg) : (q.wrote r).slips = q.slips := rfl
@[simp] theorem wrote_lastkind (q : SlotSt) (r : Reg) : (q.wrote r).lastkind = q.lastkind := rfl
@[simp] theorem wrote_strict (q : SlotSt) (r : Reg) : (q.wrote r).strict = q.strict := rfl
@[simp] theorem wrote_bank (q : SlotSt) (r : Reg) : (q.wrote r).bank = q.bank := rfl
@[simp] theorem wrote_inh (q : SlotSt) (r : Reg) : (q.wrote r).inh = q.inh := rfl
@[simp] theorem wrote_level (q : SlotSt) (r : Reg) : (q.wrote r).level = q.level := rfl
@[simp] theorem wrote_upcall (q : SlotSt) (r : Reg) : (q.wrote r).upcall = q.upcall := rfl
@[simp] theorem wrote_scopemiss (q : SlotSt) (r : Reg) : (q.wrote r).scopemiss = q.scopemiss := rfl
@[simp] theorem wrote_xlast (q : SlotSt) (r : Reg) : (q.wrote r).xlast = q.xlast := rfl
@[simp] theorem wrote_xid (q : SlotSt) (r : Reg) : (q.wrote r).xid = q.xid := rfl
@[simp] theorem wrote_uepc (q : SlotSt) (r : Reg) : (q.wrote r).uepc = q.uepc := rfl
@[simp] theorem wrote_gap (q : SlotSt) (r : Reg) : (q.wrote r).gap = q.gap := rfl
@[simp] theorem wrote_frozen (q : SlotSt) (r : Reg) : (q.wrote r).frozen = q.frozen := rfl
@[simp] theorem wrote_hist (q : SlotSt) (r : Reg) : (q.wrote r).hist = q.hist := rfl
@[simp] theorem wrote_inflight (q : SlotSt) (r : Reg) : (q.wrote r).inflight = q.inflight := rfl
@[simp] theorem wrote_ops (q : SlotSt) (r : Reg) : (q.wrote r).ops = q.ops := rfl
@[simp] theorem wrote_hold (q : SlotSt) (r : Reg) : (q.wrote r).hold = q.hold := rfl
@[simp] theorem wrote_preReq (q : SlotSt) (r : Reg) : (q.wrote r).preReq = q.preReq := rfl
@[simp] theorem wrote_handlers (q : SlotSt) (r : Reg) : (q.wrote r).handlers = q.handlers := rfl
@[simp] theorem wrote_recalling (q : SlotSt) (r : Reg) : (q.wrote r).recalling = q.recalling := rfl
@[simp] theorem wrote_saveWait (q : SlotSt) (r : Reg) : (q.wrote r).saveWait = q.saveWait := rfl
@[simp] theorem wrote_fmask (q : SlotSt) (r : Reg) : (q.wrote r).fmask = q.fmask := rfl
@[simp] theorem wrote_undo (q : SlotSt) (r : Reg) : (q.wrote r).undo = q.undo := rfl
@[simp] theorem wrote_mark (q : SlotSt) (r : Reg) : (q.wrote r).mark = q.mark := rfl
@[simp] theorem wrote_flow (q : SlotSt) (r : Reg) : (q.wrote r).flow = q.flow := rfl
@[simp] theorem wrote_fed (q : SlotSt) (r : Reg) : (q.wrote r).fed = q.fed := rfl
@[simp] theorem wrote_turned (q : SlotSt) (r : Reg) : (q.wrote r).turned = q.turned := rfl

@[simp] theorem setP_task (q : SlotSt) (n : Nat) (v : Word) : (q.setP n v).task = q.task := by unfold SlotSt.setP; split <;> rfl
@[simp] theorem setP_pc (q : SlotSt) (n : Nat) (v : Word) : (q.setP n v).pc = q.pc := by unfold SlotSt.setP; split <;> rfl
@[simp] theorem setP_vs (q : SlotSt) (n : Nat) (v : Word) : (q.setP n v).vs = q.vs := by unfold SlotSt.setP; split <;> rfl
@[simp] theorem setP_ps (q : SlotSt) (n : Nat) (v : Word) : (q.setP n v).ps = q.ps := by unfold SlotSt.setP; split <;> rfl
@[simp] theorem setP_fpstat (q : SlotSt) (n : Nat) (v : Word) : (q.setP n v).fpstat = q.fpstat := by unfold SlotSt.setP; split <;> rfl
@[simp] theorem setP_misses (q : SlotSt) (n : Nat) (v : Word) : (q.setP n v).misses = q.misses := by unfold SlotSt.setP; split <;> rfl
@[simp] theorem setP_slips (q : SlotSt) (n : Nat) (v : Word) : (q.setP n v).slips = q.slips := by unfold SlotSt.setP; split <;> rfl
@[simp] theorem setP_lastkind (q : SlotSt) (n : Nat) (v : Word) : (q.setP n v).lastkind = q.lastkind := by unfold SlotSt.setP; split <;> rfl
@[simp] theorem setP_strict (q : SlotSt) (n : Nat) (v : Word) : (q.setP n v).strict = q.strict := by unfold SlotSt.setP; split <;> rfl
@[simp] theorem setP_bank (q : SlotSt) (n : Nat) (v : Word) : (q.setP n v).bank = q.bank := by unfold SlotSt.setP; split <;> rfl
@[simp] theorem setP_inh (q : SlotSt) (n : Nat) (v : Word) : (q.setP n v).inh = q.inh := by unfold SlotSt.setP; split <;> rfl
@[simp] theorem setP_level (q : SlotSt) (n : Nat) (v : Word) : (q.setP n v).level = q.level := by unfold SlotSt.setP; split <;> rfl
@[simp] theorem setP_upcall (q : SlotSt) (n : Nat) (v : Word) : (q.setP n v).upcall = q.upcall := by unfold SlotSt.setP; split <;> rfl
@[simp] theorem setP_scopemiss (q : SlotSt) (n : Nat) (v : Word) : (q.setP n v).scopemiss = q.scopemiss := by unfold SlotSt.setP; split <;> rfl
@[simp] theorem setP_xlast (q : SlotSt) (n : Nat) (v : Word) : (q.setP n v).xlast = q.xlast := by unfold SlotSt.setP; split <;> rfl
@[simp] theorem setP_xid (q : SlotSt) (n : Nat) (v : Word) : (q.setP n v).xid = q.xid := by unfold SlotSt.setP; split <;> rfl
@[simp] theorem setP_uepc (q : SlotSt) (n : Nat) (v : Word) : (q.setP n v).uepc = q.uepc := by unfold SlotSt.setP; split <;> rfl
@[simp] theorem setP_gap (q : SlotSt) (n : Nat) (v : Word) : (q.setP n v).gap = q.gap := by unfold SlotSt.setP; split <;> rfl
@[simp] theorem setP_frozen (q : SlotSt) (n : Nat) (v : Word) : (q.setP n v).frozen = q.frozen := by unfold SlotSt.setP; split <;> rfl
@[simp] theorem setP_hist (q : SlotSt) (n : Nat) (v : Word) : (q.setP n v).hist = q.hist := by unfold SlotSt.setP; split <;> rfl
@[simp] theorem setP_inflight (q : SlotSt) (n : Nat) (v : Word) : (q.setP n v).inflight = q.inflight := by unfold SlotSt.setP; split <;> rfl
@[simp] theorem setP_ops (q : SlotSt) (n : Nat) (v : Word) : (q.setP n v).ops = q.ops := by unfold SlotSt.setP; split <;> rfl
@[simp] theorem setP_hold (q : SlotSt) (n : Nat) (v : Word) : (q.setP n v).hold = q.hold := by unfold SlotSt.setP; split <;> rfl
@[simp] theorem setP_preReq (q : SlotSt) (n : Nat) (v : Word) : (q.setP n v).preReq = q.preReq := by unfold SlotSt.setP; split <;> rfl
@[simp] theorem setP_handlers (q : SlotSt) (n : Nat) (v : Word) : (q.setP n v).handlers = q.handlers := by unfold SlotSt.setP; split <;> rfl
@[simp] theorem setP_recalling (q : SlotSt) (n : Nat) (v : Word) : (q.setP n v).recalling = q.recalling := by unfold SlotSt.setP; split <;> rfl
@[simp] theorem setP_saveWait (q : SlotSt) (n : Nat) (v : Word) : (q.setP n v).saveWait = q.saveWait := by unfold SlotSt.setP; split <;> rfl
@[simp] theorem setP_fmask (q : SlotSt) (n : Nat) (v : Word) : (q.setP n v).fmask = q.fmask := by unfold SlotSt.setP; split <;> rfl
@[simp] theorem setP_undo (q : SlotSt) (n : Nat) (v : Word) : (q.setP n v).undo = q.undo := by unfold SlotSt.setP; split <;> rfl
@[simp] theorem setP_mark (q : SlotSt) (n : Nat) (v : Word) : (q.setP n v).mark = q.mark := by unfold SlotSt.setP; split <;> rfl
@[simp] theorem setP_flow (q : SlotSt) (n : Nat) (v : Word) : (q.setP n v).flow = q.flow := by unfold SlotSt.setP; split <;> rfl
@[simp] theorem setP_fed (q : SlotSt) (n : Nat) (v : Word) : (q.setP n v).fed = q.fed := by unfold SlotSt.setP; split <;> rfl
@[simp] theorem setP_turned (q : SlotSt) (n : Nat) (v : Word) : (q.setP n v).turned = q.turned := by unfold SlotSt.setP; split <;> rfl

@[simp] theorem setX_task (q : SlotSt) (n : Nat) (v : Word) : (q.setX n v).task = q.task := by simp [SlotSt.setX]
@[simp] theorem setX_pc (q : SlotSt) (n : Nat) (v : Word) : (q.setX n v).pc = q.pc := by simp [SlotSt.setX]
@[simp] theorem setX_vs (q : SlotSt) (n : Nat) (v : Word) : (q.setX n v).vs = q.vs := by simp [SlotSt.setX]
@[simp] theorem setX_ps (q : SlotSt) (n : Nat) (v : Word) : (q.setX n v).ps = q.ps := by simp [SlotSt.setX]
@[simp] theorem setX_fpstat (q : SlotSt) (n : Nat) (v : Word) : (q.setX n v).fpstat = q.fpstat := by simp [SlotSt.setX]
@[simp] theorem setX_misses (q : SlotSt) (n : Nat) (v : Word) : (q.setX n v).misses = q.misses := by simp [SlotSt.setX]
@[simp] theorem setX_slips (q : SlotSt) (n : Nat) (v : Word) : (q.setX n v).slips = q.slips := by simp [SlotSt.setX]
@[simp] theorem setX_lastkind (q : SlotSt) (n : Nat) (v : Word) : (q.setX n v).lastkind = q.lastkind := by simp [SlotSt.setX]
@[simp] theorem setX_strict (q : SlotSt) (n : Nat) (v : Word) : (q.setX n v).strict = q.strict := by simp [SlotSt.setX]
@[simp] theorem setX_bank (q : SlotSt) (n : Nat) (v : Word) : (q.setX n v).bank = q.bank := by simp [SlotSt.setX]
@[simp] theorem setX_inh (q : SlotSt) (n : Nat) (v : Word) : (q.setX n v).inh = q.inh := by simp [SlotSt.setX]
@[simp] theorem setX_level (q : SlotSt) (n : Nat) (v : Word) : (q.setX n v).level = q.level := by simp [SlotSt.setX]
@[simp] theorem setX_upcall (q : SlotSt) (n : Nat) (v : Word) : (q.setX n v).upcall = q.upcall := by simp [SlotSt.setX]
@[simp] theorem setX_scopemiss (q : SlotSt) (n : Nat) (v : Word) : (q.setX n v).scopemiss = q.scopemiss := by simp [SlotSt.setX]
@[simp] theorem setX_xlast (q : SlotSt) (n : Nat) (v : Word) : (q.setX n v).xlast = q.xlast := by simp [SlotSt.setX]
@[simp] theorem setX_xid (q : SlotSt) (n : Nat) (v : Word) : (q.setX n v).xid = q.xid := by simp [SlotSt.setX]
@[simp] theorem setX_uepc (q : SlotSt) (n : Nat) (v : Word) : (q.setX n v).uepc = q.uepc := by simp [SlotSt.setX]
@[simp] theorem setX_gap (q : SlotSt) (n : Nat) (v : Word) : (q.setX n v).gap = q.gap := by simp [SlotSt.setX]
@[simp] theorem setX_frozen (q : SlotSt) (n : Nat) (v : Word) : (q.setX n v).frozen = q.frozen := by simp [SlotSt.setX]
@[simp] theorem setX_hist (q : SlotSt) (n : Nat) (v : Word) : (q.setX n v).hist = q.hist := by simp [SlotSt.setX]
@[simp] theorem setX_inflight (q : SlotSt) (n : Nat) (v : Word) : (q.setX n v).inflight = q.inflight := by simp [SlotSt.setX]
@[simp] theorem setX_ops (q : SlotSt) (n : Nat) (v : Word) : (q.setX n v).ops = q.ops := by simp [SlotSt.setX]
@[simp] theorem setX_hold (q : SlotSt) (n : Nat) (v : Word) : (q.setX n v).hold = q.hold := by simp [SlotSt.setX]
@[simp] theorem setX_preReq (q : SlotSt) (n : Nat) (v : Word) : (q.setX n v).preReq = q.preReq := by simp [SlotSt.setX]
@[simp] theorem setX_handlers (q : SlotSt) (n : Nat) (v : Word) : (q.setX n v).handlers = q.handlers := by simp [SlotSt.setX]
@[simp] theorem setX_recalling (q : SlotSt) (n : Nat) (v : Word) : (q.setX n v).recalling = q.recalling := by simp [SlotSt.setX]
@[simp] theorem setX_saveWait (q : SlotSt) (n : Nat) (v : Word) : (q.setX n v).saveWait = q.saveWait := by simp [SlotSt.setX]
@[simp] theorem setX_fmask (q : SlotSt) (n : Nat) (v : Word) : (q.setX n v).fmask = q.fmask := by simp [SlotSt.setX]
@[simp] theorem setX_undo (q : SlotSt) (n : Nat) (v : Word) : (q.setX n v).undo = q.undo := by simp [SlotSt.setX]
@[simp] theorem setX_mark (q : SlotSt) (n : Nat) (v : Word) : (q.setX n v).mark = q.mark := by simp [SlotSt.setX]
@[simp] theorem setX_flow (q : SlotSt) (n : Nat) (v : Word) : (q.setX n v).flow = q.flow := by simp [SlotSt.setX]
@[simp] theorem setX_fed (q : SlotSt) (n : Nat) (v : Word) : (q.setX n v).fed = q.fed := by simp [SlotSt.setX]
@[simp] theorem setX_turned (q : SlotSt) (n : Nat) (v : Word) : (q.setX n v).turned = q.turned := by simp [SlotSt.setX]

@[simp] theorem setV_task (q : SlotSt) (n : Nat) (v : Vec) : (q.setV n v).task = q.task := rfl
@[simp] theorem setV_pc (q : SlotSt) (n : Nat) (v : Vec) : (q.setV n v).pc = q.pc := rfl
@[simp] theorem setV_xs (q : SlotSt) (n : Nat) (v : Vec) : (q.setV n v).xs = q.xs := rfl
@[simp] theorem setV_ps (q : SlotSt) (n : Nat) (v : Vec) : (q.setV n v).ps = q.ps := rfl
@[simp] theorem setV_fpstat (q : SlotSt) (n : Nat) (v : Vec) : (q.setV n v).fpstat = q.fpstat := rfl
@[simp] theorem setV_misses (q : SlotSt) (n : Nat) (v : Vec) : (q.setV n v).misses = q.misses := rfl
@[simp] theorem setV_slips (q : SlotSt) (n : Nat) (v : Vec) : (q.setV n v).slips = q.slips := rfl
@[simp] theorem setV_lastkind (q : SlotSt) (n : Nat) (v : Vec) : (q.setV n v).lastkind = q.lastkind := rfl
@[simp] theorem setV_strict (q : SlotSt) (n : Nat) (v : Vec) : (q.setV n v).strict = q.strict := rfl
@[simp] theorem setV_bank (q : SlotSt) (n : Nat) (v : Vec) : (q.setV n v).bank = q.bank := rfl
@[simp] theorem setV_inh (q : SlotSt) (n : Nat) (v : Vec) : (q.setV n v).inh = q.inh := rfl
@[simp] theorem setV_level (q : SlotSt) (n : Nat) (v : Vec) : (q.setV n v).level = q.level := rfl
@[simp] theorem setV_upcall (q : SlotSt) (n : Nat) (v : Vec) : (q.setV n v).upcall = q.upcall := rfl
@[simp] theorem setV_scopemiss (q : SlotSt) (n : Nat) (v : Vec) : (q.setV n v).scopemiss = q.scopemiss := rfl
@[simp] theorem setV_xlast (q : SlotSt) (n : Nat) (v : Vec) : (q.setV n v).xlast = q.xlast := rfl
@[simp] theorem setV_xid (q : SlotSt) (n : Nat) (v : Vec) : (q.setV n v).xid = q.xid := rfl
@[simp] theorem setV_uepc (q : SlotSt) (n : Nat) (v : Vec) : (q.setV n v).uepc = q.uepc := rfl
@[simp] theorem setV_gap (q : SlotSt) (n : Nat) (v : Vec) : (q.setV n v).gap = q.gap := rfl
@[simp] theorem setV_frozen (q : SlotSt) (n : Nat) (v : Vec) : (q.setV n v).frozen = q.frozen := rfl
@[simp] theorem setV_hist (q : SlotSt) (n : Nat) (v : Vec) : (q.setV n v).hist = q.hist := rfl
@[simp] theorem setV_inflight (q : SlotSt) (n : Nat) (v : Vec) : (q.setV n v).inflight = q.inflight := rfl
@[simp] theorem setV_ops (q : SlotSt) (n : Nat) (v : Vec) : (q.setV n v).ops = q.ops := rfl
@[simp] theorem setV_hold (q : SlotSt) (n : Nat) (v : Vec) : (q.setV n v).hold = q.hold := rfl
@[simp] theorem setV_preReq (q : SlotSt) (n : Nat) (v : Vec) : (q.setV n v).preReq = q.preReq := rfl
@[simp] theorem setV_handlers (q : SlotSt) (n : Nat) (v : Vec) : (q.setV n v).handlers = q.handlers := rfl
@[simp] theorem setV_recalling (q : SlotSt) (n : Nat) (v : Vec) : (q.setV n v).recalling = q.recalling := rfl
@[simp] theorem setV_saveWait (q : SlotSt) (n : Nat) (v : Vec) : (q.setV n v).saveWait = q.saveWait := rfl
@[simp] theorem setV_fmask (q : SlotSt) (n : Nat) (v : Vec) : (q.setV n v).fmask = q.fmask := rfl
@[simp] theorem setV_undo (q : SlotSt) (n : Nat) (v : Vec) : (q.setV n v).undo = q.undo := rfl
@[simp] theorem setV_mark (q : SlotSt) (n : Nat) (v : Vec) : (q.setV n v).mark = q.mark := rfl
@[simp] theorem setV_flow (q : SlotSt) (n : Nat) (v : Vec) : (q.setV n v).flow = q.flow := rfl
@[simp] theorem setV_fed (q : SlotSt) (n : Nat) (v : Vec) : (q.setV n v).fed = q.fed := rfl
@[simp] theorem setV_turned (q : SlotSt) (n : Nat) (v : Vec) : (q.setV n v).turned = q.turned := rfl

@[simp] theorem setPr_task (q : SlotSt) (n : Nat) (v : Pred) : (q.setPr n v).task = q.task := by unfold SlotSt.setPr; split <;> rfl
@[simp] theorem setPr_pc (q : SlotSt) (n : Nat) (v : Pred) : (q.setPr n v).pc = q.pc := by unfold SlotSt.setPr; split <;> rfl
@[simp] theorem setPr_xs (q : SlotSt) (n : Nat) (v : Pred) : (q.setPr n v).xs = q.xs := by unfold SlotSt.setPr; split <;> rfl
@[simp] theorem setPr_vs (q : SlotSt) (n : Nat) (v : Pred) : (q.setPr n v).vs = q.vs := by unfold SlotSt.setPr; split <;> rfl
@[simp] theorem setPr_fpstat (q : SlotSt) (n : Nat) (v : Pred) : (q.setPr n v).fpstat = q.fpstat := by unfold SlotSt.setPr; split <;> rfl
@[simp] theorem setPr_misses (q : SlotSt) (n : Nat) (v : Pred) : (q.setPr n v).misses = q.misses := by unfold SlotSt.setPr; split <;> rfl
@[simp] theorem setPr_slips (q : SlotSt) (n : Nat) (v : Pred) : (q.setPr n v).slips = q.slips := by unfold SlotSt.setPr; split <;> rfl
@[simp] theorem setPr_lastkind (q : SlotSt) (n : Nat) (v : Pred) : (q.setPr n v).lastkind = q.lastkind := by unfold SlotSt.setPr; split <;> rfl
@[simp] theorem setPr_strict (q : SlotSt) (n : Nat) (v : Pred) : (q.setPr n v).strict = q.strict := by unfold SlotSt.setPr; split <;> rfl
@[simp] theorem setPr_bank (q : SlotSt) (n : Nat) (v : Pred) : (q.setPr n v).bank = q.bank := by unfold SlotSt.setPr; split <;> rfl
@[simp] theorem setPr_inh (q : SlotSt) (n : Nat) (v : Pred) : (q.setPr n v).inh = q.inh := by unfold SlotSt.setPr; split <;> rfl
@[simp] theorem setPr_level (q : SlotSt) (n : Nat) (v : Pred) : (q.setPr n v).level = q.level := by unfold SlotSt.setPr; split <;> rfl
@[simp] theorem setPr_upcall (q : SlotSt) (n : Nat) (v : Pred) : (q.setPr n v).upcall = q.upcall := by unfold SlotSt.setPr; split <;> rfl
@[simp] theorem setPr_scopemiss (q : SlotSt) (n : Nat) (v : Pred) : (q.setPr n v).scopemiss = q.scopemiss := by unfold SlotSt.setPr; split <;> rfl
@[simp] theorem setPr_xlast (q : SlotSt) (n : Nat) (v : Pred) : (q.setPr n v).xlast = q.xlast := by unfold SlotSt.setPr; split <;> rfl
@[simp] theorem setPr_xid (q : SlotSt) (n : Nat) (v : Pred) : (q.setPr n v).xid = q.xid := by unfold SlotSt.setPr; split <;> rfl
@[simp] theorem setPr_uepc (q : SlotSt) (n : Nat) (v : Pred) : (q.setPr n v).uepc = q.uepc := by unfold SlotSt.setPr; split <;> rfl
@[simp] theorem setPr_gap (q : SlotSt) (n : Nat) (v : Pred) : (q.setPr n v).gap = q.gap := by unfold SlotSt.setPr; split <;> rfl
@[simp] theorem setPr_frozen (q : SlotSt) (n : Nat) (v : Pred) : (q.setPr n v).frozen = q.frozen := by unfold SlotSt.setPr; split <;> rfl
@[simp] theorem setPr_hist (q : SlotSt) (n : Nat) (v : Pred) : (q.setPr n v).hist = q.hist := by unfold SlotSt.setPr; split <;> rfl
@[simp] theorem setPr_inflight (q : SlotSt) (n : Nat) (v : Pred) : (q.setPr n v).inflight = q.inflight := by unfold SlotSt.setPr; split <;> rfl
@[simp] theorem setPr_ops (q : SlotSt) (n : Nat) (v : Pred) : (q.setPr n v).ops = q.ops := by unfold SlotSt.setPr; split <;> rfl
@[simp] theorem setPr_hold (q : SlotSt) (n : Nat) (v : Pred) : (q.setPr n v).hold = q.hold := by unfold SlotSt.setPr; split <;> rfl
@[simp] theorem setPr_preReq (q : SlotSt) (n : Nat) (v : Pred) : (q.setPr n v).preReq = q.preReq := by unfold SlotSt.setPr; split <;> rfl
@[simp] theorem setPr_handlers (q : SlotSt) (n : Nat) (v : Pred) : (q.setPr n v).handlers = q.handlers := by unfold SlotSt.setPr; split <;> rfl
@[simp] theorem setPr_recalling (q : SlotSt) (n : Nat) (v : Pred) : (q.setPr n v).recalling = q.recalling := by unfold SlotSt.setPr; split <;> rfl
@[simp] theorem setPr_saveWait (q : SlotSt) (n : Nat) (v : Pred) : (q.setPr n v).saveWait = q.saveWait := by unfold SlotSt.setPr; split <;> rfl
@[simp] theorem setPr_fmask (q : SlotSt) (n : Nat) (v : Pred) : (q.setPr n v).fmask = q.fmask := by unfold SlotSt.setPr; split <;> rfl
@[simp] theorem setPr_undo (q : SlotSt) (n : Nat) (v : Pred) : (q.setPr n v).undo = q.undo := by unfold SlotSt.setPr; split <;> rfl
@[simp] theorem setPr_mark (q : SlotSt) (n : Nat) (v : Pred) : (q.setPr n v).mark = q.mark := by unfold SlotSt.setPr; split <;> rfl
@[simp] theorem setPr_flow (q : SlotSt) (n : Nat) (v : Pred) : (q.setPr n v).flow = q.flow := by unfold SlotSt.setPr; split <;> rfl
@[simp] theorem setPr_fed (q : SlotSt) (n : Nat) (v : Pred) : (q.setPr n v).fed = q.fed := by unfold SlotSt.setPr; split <;> rfl
@[simp] theorem setPr_turned (q : SlotSt) (n : Nat) (v : Pred) : (q.setPr n v).turned = q.turned := by unfold SlotSt.setPr; split <;> rfl

@[simp] theorem setPoison_task (q : SlotSt) (r : Reg) (a : Nat) : (q.setPoison r a).task = q.task := by unfold SlotSt.setPoison; split <;> rfl
@[simp] theorem setPoison_pc (q : SlotSt) (r : Reg) (a : Nat) : (q.setPoison r a).pc = q.pc := by unfold SlotSt.setPoison; split <;> rfl
@[simp] theorem setPoison_xs (q : SlotSt) (r : Reg) (a : Nat) : (q.setPoison r a).xs = q.xs := by unfold SlotSt.setPoison; split <;> rfl
@[simp] theorem setPoison_vs (q : SlotSt) (r : Reg) (a : Nat) : (q.setPoison r a).vs = q.vs := by unfold SlotSt.setPoison; split <;> rfl
@[simp] theorem setPoison_ps (q : SlotSt) (r : Reg) (a : Nat) : (q.setPoison r a).ps = q.ps := by unfold SlotSt.setPoison; split <;> rfl
@[simp] theorem setPoison_fpstat (q : SlotSt) (r : Reg) (a : Nat) : (q.setPoison r a).fpstat = q.fpstat := by unfold SlotSt.setPoison; split <;> rfl
@[simp] theorem setPoison_misses (q : SlotSt) (r : Reg) (a : Nat) : (q.setPoison r a).misses = q.misses := by unfold SlotSt.setPoison; split <;> rfl
@[simp] theorem setPoison_slips (q : SlotSt) (r : Reg) (a : Nat) : (q.setPoison r a).slips = q.slips := by unfold SlotSt.setPoison; split <;> rfl
@[simp] theorem setPoison_lastkind (q : SlotSt) (r : Reg) (a : Nat) : (q.setPoison r a).lastkind = q.lastkind := by unfold SlotSt.setPoison; split <;> rfl
@[simp] theorem setPoison_strict (q : SlotSt) (r : Reg) (a : Nat) : (q.setPoison r a).strict = q.strict := by unfold SlotSt.setPoison; split <;> rfl
@[simp] theorem setPoison_bank (q : SlotSt) (r : Reg) (a : Nat) : (q.setPoison r a).bank = q.bank := by unfold SlotSt.setPoison; split <;> rfl
@[simp] theorem setPoison_inh (q : SlotSt) (r : Reg) (a : Nat) : (q.setPoison r a).inh = q.inh := by unfold SlotSt.setPoison; split <;> rfl
@[simp] theorem setPoison_level (q : SlotSt) (r : Reg) (a : Nat) : (q.setPoison r a).level = q.level := by unfold SlotSt.setPoison; split <;> rfl
@[simp] theorem setPoison_upcall (q : SlotSt) (r : Reg) (a : Nat) : (q.setPoison r a).upcall = q.upcall := by unfold SlotSt.setPoison; split <;> rfl
@[simp] theorem setPoison_scopemiss (q : SlotSt) (r : Reg) (a : Nat) : (q.setPoison r a).scopemiss = q.scopemiss := by unfold SlotSt.setPoison; split <;> rfl
@[simp] theorem setPoison_xlast (q : SlotSt) (r : Reg) (a : Nat) : (q.setPoison r a).xlast = q.xlast := by unfold SlotSt.setPoison; split <;> rfl
@[simp] theorem setPoison_xid (q : SlotSt) (r : Reg) (a : Nat) : (q.setPoison r a).xid = q.xid := by unfold SlotSt.setPoison; split <;> rfl
@[simp] theorem setPoison_uepc (q : SlotSt) (r : Reg) (a : Nat) : (q.setPoison r a).uepc = q.uepc := by unfold SlotSt.setPoison; split <;> rfl
@[simp] theorem setPoison_gap (q : SlotSt) (r : Reg) (a : Nat) : (q.setPoison r a).gap = q.gap := by unfold SlotSt.setPoison; split <;> rfl
@[simp] theorem setPoison_frozen (q : SlotSt) (r : Reg) (a : Nat) : (q.setPoison r a).frozen = q.frozen := by unfold SlotSt.setPoison; split <;> rfl
@[simp] theorem setPoison_hist (q : SlotSt) (r : Reg) (a : Nat) : (q.setPoison r a).hist = q.hist := by unfold SlotSt.setPoison; split <;> rfl
@[simp] theorem setPoison_inflight (q : SlotSt) (r : Reg) (a : Nat) : (q.setPoison r a).inflight = q.inflight := by unfold SlotSt.setPoison; split <;> rfl
@[simp] theorem setPoison_ops (q : SlotSt) (r : Reg) (a : Nat) : (q.setPoison r a).ops = q.ops := by unfold SlotSt.setPoison; split <;> rfl
@[simp] theorem setPoison_hold (q : SlotSt) (r : Reg) (a : Nat) : (q.setPoison r a).hold = q.hold := by unfold SlotSt.setPoison; split <;> rfl
@[simp] theorem setPoison_preReq (q : SlotSt) (r : Reg) (a : Nat) : (q.setPoison r a).preReq = q.preReq := by unfold SlotSt.setPoison; split <;> rfl
@[simp] theorem setPoison_handlers (q : SlotSt) (r : Reg) (a : Nat) : (q.setPoison r a).handlers = q.handlers := by unfold SlotSt.setPoison; split <;> rfl
@[simp] theorem setPoison_recalling (q : SlotSt) (r : Reg) (a : Nat) : (q.setPoison r a).recalling = q.recalling := by unfold SlotSt.setPoison; split <;> rfl
@[simp] theorem setPoison_saveWait (q : SlotSt) (r : Reg) (a : Nat) : (q.setPoison r a).saveWait = q.saveWait := by unfold SlotSt.setPoison; split <;> rfl
@[simp] theorem setPoison_fmask (q : SlotSt) (r : Reg) (a : Nat) : (q.setPoison r a).fmask = q.fmask := by unfold SlotSt.setPoison; split <;> rfl
@[simp] theorem setPoison_undo (q : SlotSt) (r : Reg) (a : Nat) : (q.setPoison r a).undo = q.undo := by unfold SlotSt.setPoison; split <;> rfl
@[simp] theorem setPoison_mark (q : SlotSt) (r : Reg) (a : Nat) : (q.setPoison r a).mark = q.mark := by unfold SlotSt.setPoison; split <;> rfl
@[simp] theorem setPoison_flow (q : SlotSt) (r : Reg) (a : Nat) : (q.setPoison r a).flow = q.flow := by unfold SlotSt.setPoison; split <;> rfl
@[simp] theorem setPoison_fed (q : SlotSt) (r : Reg) (a : Nat) : (q.setPoison r a).fed = q.fed := by unfold SlotSt.setPoison; split <;> rfl
@[simp] theorem setPoison_turned (q : SlotSt) (r : Reg) (a : Nat) : (q.setPoison r a).turned = q.turned := by unfold SlotSt.setPoison; split <;> rfl

@[simp] theorem orFlags_task (q : SlotSt) (f : BitVec 5) : (q.orFlags f).task = q.task := rfl
@[simp] theorem orFlags_pc (q : SlotSt) (f : BitVec 5) : (q.orFlags f).pc = q.pc := rfl
@[simp] theorem orFlags_xs (q : SlotSt) (f : BitVec 5) : (q.orFlags f).xs = q.xs := rfl
@[simp] theorem orFlags_vs (q : SlotSt) (f : BitVec 5) : (q.orFlags f).vs = q.vs := rfl
@[simp] theorem orFlags_ps (q : SlotSt) (f : BitVec 5) : (q.orFlags f).ps = q.ps := rfl
@[simp] theorem orFlags_poison (q : SlotSt) (f : BitVec 5) : (q.orFlags f).poison = q.poison := rfl
@[simp] theorem orFlags_misses (q : SlotSt) (f : BitVec 5) : (q.orFlags f).misses = q.misses := rfl
@[simp] theorem orFlags_slips (q : SlotSt) (f : BitVec 5) : (q.orFlags f).slips = q.slips := rfl
@[simp] theorem orFlags_lastkind (q : SlotSt) (f : BitVec 5) : (q.orFlags f).lastkind = q.lastkind := rfl
@[simp] theorem orFlags_strict (q : SlotSt) (f : BitVec 5) : (q.orFlags f).strict = q.strict := rfl
@[simp] theorem orFlags_bank (q : SlotSt) (f : BitVec 5) : (q.orFlags f).bank = q.bank := rfl
@[simp] theorem orFlags_inh (q : SlotSt) (f : BitVec 5) : (q.orFlags f).inh = q.inh := rfl
@[simp] theorem orFlags_level (q : SlotSt) (f : BitVec 5) : (q.orFlags f).level = q.level := rfl
@[simp] theorem orFlags_upcall (q : SlotSt) (f : BitVec 5) : (q.orFlags f).upcall = q.upcall := rfl
@[simp] theorem orFlags_scopemiss (q : SlotSt) (f : BitVec 5) : (q.orFlags f).scopemiss = q.scopemiss := rfl
@[simp] theorem orFlags_xlast (q : SlotSt) (f : BitVec 5) : (q.orFlags f).xlast = q.xlast := rfl
@[simp] theorem orFlags_xid (q : SlotSt) (f : BitVec 5) : (q.orFlags f).xid = q.xid := rfl
@[simp] theorem orFlags_uepc (q : SlotSt) (f : BitVec 5) : (q.orFlags f).uepc = q.uepc := rfl
@[simp] theorem orFlags_gap (q : SlotSt) (f : BitVec 5) : (q.orFlags f).gap = q.gap := rfl
@[simp] theorem orFlags_frozen (q : SlotSt) (f : BitVec 5) : (q.orFlags f).frozen = q.frozen := rfl
@[simp] theorem orFlags_hist (q : SlotSt) (f : BitVec 5) : (q.orFlags f).hist = q.hist := rfl
@[simp] theorem orFlags_inflight (q : SlotSt) (f : BitVec 5) : (q.orFlags f).inflight = q.inflight := rfl
@[simp] theorem orFlags_ops (q : SlotSt) (f : BitVec 5) : (q.orFlags f).ops = q.ops := rfl
@[simp] theorem orFlags_latA (q : SlotSt) (f : BitVec 5) : (q.orFlags f).latA = q.latA := rfl
@[simp] theorem orFlags_latB (q : SlotSt) (f : BitVec 5) : (q.orFlags f).latB = q.latB := rfl
@[simp] theorem orFlags_latC (q : SlotSt) (f : BitVec 5) : (q.orFlags f).latC = q.latC := rfl
@[simp] theorem orFlags_hold (q : SlotSt) (f : BitVec 5) : (q.orFlags f).hold = q.hold := rfl
@[simp] theorem orFlags_preReq (q : SlotSt) (f : BitVec 5) : (q.orFlags f).preReq = q.preReq := rfl
@[simp] theorem orFlags_handlers (q : SlotSt) (f : BitVec 5) : (q.orFlags f).handlers = q.handlers := rfl
@[simp] theorem orFlags_recalling (q : SlotSt) (f : BitVec 5) : (q.orFlags f).recalling = q.recalling := rfl
@[simp] theorem orFlags_saveWait (q : SlotSt) (f : BitVec 5) : (q.orFlags f).saveWait = q.saveWait := rfl
@[simp] theorem orFlags_fmask (q : SlotSt) (f : BitVec 5) : (q.orFlags f).fmask = q.fmask := rfl
@[simp] theorem orFlags_undo (q : SlotSt) (f : BitVec 5) : (q.orFlags f).undo = q.undo := rfl
@[simp] theorem orFlags_mark (q : SlotSt) (f : BitVec 5) : (q.orFlags f).mark = q.mark := rfl
@[simp] theorem orFlags_flow (q : SlotSt) (f : BitVec 5) : (q.orFlags f).flow = q.flow := rfl
@[simp] theorem orFlags_fed (q : SlotSt) (f : BitVec 5) : (q.orFlags f).fed = q.fed := rfl
@[simp] theorem orFlags_turned (q : SlotSt) (f : BitVec 5) : (q.orFlags f).turned = q.turned := rfl

@[simp] theorem countMiss_task (q : SlotSt) (k : Nat) : (q.countMiss k).task = q.task := by unfold SlotSt.countMiss; split <;> rfl
@[simp] theorem countMiss_pc (q : SlotSt) (k : Nat) : (q.countMiss k).pc = q.pc := by unfold SlotSt.countMiss; split <;> rfl
@[simp] theorem countMiss_xs (q : SlotSt) (k : Nat) : (q.countMiss k).xs = q.xs := by unfold SlotSt.countMiss; split <;> rfl
@[simp] theorem countMiss_vs (q : SlotSt) (k : Nat) : (q.countMiss k).vs = q.vs := by unfold SlotSt.countMiss; split <;> rfl
@[simp] theorem countMiss_ps (q : SlotSt) (k : Nat) : (q.countMiss k).ps = q.ps := by unfold SlotSt.countMiss; split <;> rfl
@[simp] theorem countMiss_poison (q : SlotSt) (k : Nat) : (q.countMiss k).poison = q.poison := by unfold SlotSt.countMiss; split <;> rfl
@[simp] theorem countMiss_fpstat (q : SlotSt) (k : Nat) : (q.countMiss k).fpstat = q.fpstat := by unfold SlotSt.countMiss; split <;> rfl
@[simp] theorem countMiss_slips (q : SlotSt) (k : Nat) : (q.countMiss k).slips = q.slips := by unfold SlotSt.countMiss; split <;> rfl
@[simp] theorem countMiss_strict (q : SlotSt) (k : Nat) : (q.countMiss k).strict = q.strict := by unfold SlotSt.countMiss; split <;> rfl
@[simp] theorem countMiss_bank (q : SlotSt) (k : Nat) : (q.countMiss k).bank = q.bank := by unfold SlotSt.countMiss; split <;> rfl
@[simp] theorem countMiss_inh (q : SlotSt) (k : Nat) : (q.countMiss k).inh = q.inh := by unfold SlotSt.countMiss; split <;> rfl
@[simp] theorem countMiss_level (q : SlotSt) (k : Nat) : (q.countMiss k).level = q.level := by unfold SlotSt.countMiss; split <;> rfl
@[simp] theorem countMiss_upcall (q : SlotSt) (k : Nat) : (q.countMiss k).upcall = q.upcall := by unfold SlotSt.countMiss; split <;> rfl
@[simp] theorem countMiss_scopemiss (q : SlotSt) (k : Nat) : (q.countMiss k).scopemiss = q.scopemiss := by unfold SlotSt.countMiss; split <;> rfl
@[simp] theorem countMiss_xlast (q : SlotSt) (k : Nat) : (q.countMiss k).xlast = q.xlast := by unfold SlotSt.countMiss; split <;> rfl
@[simp] theorem countMiss_xid (q : SlotSt) (k : Nat) : (q.countMiss k).xid = q.xid := by unfold SlotSt.countMiss; split <;> rfl
@[simp] theorem countMiss_uepc (q : SlotSt) (k : Nat) : (q.countMiss k).uepc = q.uepc := by unfold SlotSt.countMiss; split <;> rfl
@[simp] theorem countMiss_gap (q : SlotSt) (k : Nat) : (q.countMiss k).gap = q.gap := by unfold SlotSt.countMiss; split <;> rfl
@[simp] theorem countMiss_frozen (q : SlotSt) (k : Nat) : (q.countMiss k).frozen = q.frozen := by unfold SlotSt.countMiss; split <;> rfl
@[simp] theorem countMiss_hist (q : SlotSt) (k : Nat) : (q.countMiss k).hist = q.hist := by unfold SlotSt.countMiss; split <;> rfl
@[simp] theorem countMiss_inflight (q : SlotSt) (k : Nat) : (q.countMiss k).inflight = q.inflight := by unfold SlotSt.countMiss; split <;> rfl
@[simp] theorem countMiss_ops (q : SlotSt) (k : Nat) : (q.countMiss k).ops = q.ops := by unfold SlotSt.countMiss; split <;> rfl
@[simp] theorem countMiss_latA (q : SlotSt) (k : Nat) : (q.countMiss k).latA = q.latA := by unfold SlotSt.countMiss; split <;> rfl
@[simp] theorem countMiss_latB (q : SlotSt) (k : Nat) : (q.countMiss k).latB = q.latB := by unfold SlotSt.countMiss; split <;> rfl
@[simp] theorem countMiss_latC (q : SlotSt) (k : Nat) : (q.countMiss k).latC = q.latC := by unfold SlotSt.countMiss; split <;> rfl
@[simp] theorem countMiss_hold (q : SlotSt) (k : Nat) : (q.countMiss k).hold = q.hold := by unfold SlotSt.countMiss; split <;> rfl
@[simp] theorem countMiss_preReq (q : SlotSt) (k : Nat) : (q.countMiss k).preReq = q.preReq := by unfold SlotSt.countMiss; split <;> rfl
@[simp] theorem countMiss_handlers (q : SlotSt) (k : Nat) : (q.countMiss k).handlers = q.handlers := by unfold SlotSt.countMiss; split <;> rfl
@[simp] theorem countMiss_recalling (q : SlotSt) (k : Nat) : (q.countMiss k).recalling = q.recalling := by unfold SlotSt.countMiss; split <;> rfl
@[simp] theorem countMiss_saveWait (q : SlotSt) (k : Nat) : (q.countMiss k).saveWait = q.saveWait := by unfold SlotSt.countMiss; split <;> rfl
@[simp] theorem countMiss_fmask (q : SlotSt) (k : Nat) : (q.countMiss k).fmask = q.fmask := by unfold SlotSt.countMiss; split <;> rfl
@[simp] theorem countMiss_undo (q : SlotSt) (k : Nat) : (q.countMiss k).undo = q.undo := by unfold SlotSt.countMiss; split <;> rfl
@[simp] theorem countMiss_mark (q : SlotSt) (k : Nat) : (q.countMiss k).mark = q.mark := by unfold SlotSt.countMiss; split <;> rfl
@[simp] theorem countMiss_flow (q : SlotSt) (k : Nat) : (q.countMiss k).flow = q.flow := by unfold SlotSt.countMiss; split <;> rfl
@[simp] theorem countMiss_fed (q : SlotSt) (k : Nat) : (q.countMiss k).fed = q.fed := by unfold SlotSt.countMiss; split <;> rfl
@[simp] theorem countMiss_turned (q : SlotSt) (k : Nat) : (q.countMiss k).turned = q.turned := by unfold SlotSt.countMiss; split <;> rfl

@[simp] theorem fresh_task (q : SlotSt) : (q.fresh).task = q.task := rfl
@[simp] theorem fresh_pc (q : SlotSt) : (q.fresh).pc = q.pc := rfl
@[simp] theorem fresh_xs (q : SlotSt) : (q.fresh).xs = q.xs := rfl
@[simp] theorem fresh_vs (q : SlotSt) : (q.fresh).vs = q.vs := rfl
@[simp] theorem fresh_ps (q : SlotSt) : (q.fresh).ps = q.ps := rfl
@[simp] theorem fresh_poison (q : SlotSt) : (q.fresh).poison = q.poison := rfl
@[simp] theorem fresh_fpstat (q : SlotSt) : (q.fresh).fpstat = q.fpstat := rfl
@[simp] theorem fresh_misses (q : SlotSt) : (q.fresh).misses = q.misses := rfl
@[simp] theorem fresh_slips (q : SlotSt) : (q.fresh).slips = q.slips := rfl
@[simp] theorem fresh_lastkind (q : SlotSt) : (q.fresh).lastkind = q.lastkind := rfl
@[simp] theorem fresh_strict (q : SlotSt) : (q.fresh).strict = q.strict := rfl
@[simp] theorem fresh_bank (q : SlotSt) : (q.fresh).bank = q.bank := rfl
@[simp] theorem fresh_inh (q : SlotSt) : (q.fresh).inh = q.inh := rfl
@[simp] theorem fresh_level (q : SlotSt) : (q.fresh).level = q.level := rfl
@[simp] theorem fresh_upcall (q : SlotSt) : (q.fresh).upcall = q.upcall := rfl
@[simp] theorem fresh_scopemiss (q : SlotSt) : (q.fresh).scopemiss = q.scopemiss := rfl
@[simp] theorem fresh_xlast (q : SlotSt) : (q.fresh).xlast = q.xlast := rfl
@[simp] theorem fresh_xid (q : SlotSt) : (q.fresh).xid = q.xid := rfl
@[simp] theorem fresh_uepc (q : SlotSt) : (q.fresh).uepc = q.uepc := rfl
@[simp] theorem fresh_gap (q : SlotSt) : (q.fresh).gap = q.gap := rfl
@[simp] theorem fresh_frozen (q : SlotSt) : (q.fresh).frozen = q.frozen := rfl
@[simp] theorem fresh_inflight (q : SlotSt) : (q.fresh).inflight = q.inflight := rfl
@[simp] theorem fresh_ops (q : SlotSt) : (q.fresh).ops = q.ops := rfl
@[simp] theorem fresh_hold (q : SlotSt) : (q.fresh).hold = q.hold := rfl
@[simp] theorem fresh_preReq (q : SlotSt) : (q.fresh).preReq = q.preReq := rfl
@[simp] theorem fresh_handlers (q : SlotSt) : (q.fresh).handlers = q.handlers := rfl
@[simp] theorem fresh_recalling (q : SlotSt) : (q.fresh).recalling = q.recalling := rfl
@[simp] theorem fresh_saveWait (q : SlotSt) : (q.fresh).saveWait = q.saveWait := rfl
@[simp] theorem fresh_fmask (q : SlotSt) : (q.fresh).fmask = q.fmask := rfl
@[simp] theorem fresh_undo (q : SlotSt) : (q.fresh).undo = q.undo := rfl
@[simp] theorem fresh_mark (q : SlotSt) : (q.fresh).mark = q.mark := rfl
@[simp] theorem fresh_flow (q : SlotSt) : (q.fresh).flow = q.flow := rfl
@[simp] theorem fresh_fed (q : SlotSt) : (q.fresh).fed = q.fed := rfl
@[simp] theorem fresh_turned (q : SlotSt) : (q.fresh).turned = q.turned := rfl

end Sys2Proof.Laws
end

