-- ==== Sys2Proof/Laws/Issue.lean ====
section
/-!
SUPPORT. The issue of an instruction, said once: what it does where the checks of R75 let the instruction run, where the
guard turns it off, and what it leaves of the slot and of the rest of the state.
-/
set_option Elab.async false

namespace Sys2Proof.Laws

open Sys2Proof.Machine

/-! ### Cores and slots -/

@[simp] theorem getCore_setCore_self (s : State) (c : Nat) (v : CoreSt) : getCore (setCore s c v) c = v := by
  simp [getCore]

theorem getCore_setCore_ne (s : State) {c d : Nat} (v : CoreSt) (h : d ≠ c) : getCore (setCore s c v) d = getCore s d := by
  simp [getCore, tget_tset_ne _ _ h]

@[simp] theorem getCore_modCore_self (s : State) (c : Nat) (f : CoreSt → CoreSt) :
    getCore (modCore s c f) c = f (getCore s c) := by
  simp [modCore]

theorem getCore_modCore_ne (s : State) {c d : Nat} (f : CoreSt → CoreSt) (h : d ≠ c) :
    getCore (modCore s c f) d = getCore s d := getCore_setCore_ne s _ h

@[simp] theorem slotAt_setSlot_self (s : State) (c i : Nat) (v : SlotSt) : slotAt (setSlot s c i v) c i = some v := by
  simp [slotAt, setSlot]

theorem slotAt_setSlot_ne (s : State) {c i d j : Nat} (v : SlotSt) (h : (d, j) ≠ (c, i)) :
    slotAt (setSlot s c i v) d j = slotAt s d j := by
  by_cases hd : d = c
  · subst hd
    have hj : j ≠ i := fun e => h (by rw [e])
    simp [slotAt, setSlot, tget_tset_ne _ _ hj]
  · simp [slotAt, setSlot, getCore_modCore_ne _ _ hd]

/-! ### The state that an issue leaves -/

@[simp] theorem withSlot_core (s : State) (y : Bool) (q : SlotSt) : (s.withSlot y q).core = s.core := rfl
@[simp] theorem withSlot_slot (s : State) (y : Bool) (q : SlotSt) : (s.withSlot y q).slot = s.slot := rfl
@[simp] theorem withSlot_seq (s : State) (y : Bool) (q : SlotSt) : (s.withSlot y q).seq = s.seq := rfl
@[simp] theorem withSlot_mem (s : State) (y : Bool) (q : SlotSt) : (s.withSlot y q).mem = s.mem := rfl
@[simp] theorem withSlot_tasks (s : State) (y : Bool) (q : SlotSt) : (s.withSlot y q).tasks = s.tasks := rfl
@[simp] theorem withSlot_gw (s : State) (y : Bool) (q : SlotSt) : (s.withSlot y q).gw = s.gw := rfl
@[simp] theorem after_core (s : State) (h : Hdr) (q : SlotSt) : (s.after h q).core = s.core := rfl
@[simp] theorem after_slot (s : State) (h : Hdr) (q : SlotSt) : (s.after h q).slot = s.slot := rfl
@[simp] theorem after_seq (s : State) (h : Hdr) (q : SlotSt) : (s.after h q).seq = s.seq + 2 := rfl
@[simp] theorem after_mem (s : State) (h : Hdr) (q : SlotSt) : (s.after h q).mem = s.mem := rfl
@[simp] theorem after_tasks (s : State) (h : Hdr) (q : SlotSt) : (s.after h q).tasks = s.tasks := rfl
@[simp] theorem after_launches (s : State) (h : Hdr) (q : SlotSt) : (s.after h q).launches = s.launches := rfl
@[simp] theorem after_groups (s : State) (h : Hdr) (q : SlotSt) : (s.after h q).groups = s.groups := rfl
@[simp] theorem after_now (s : State) (h : Hdr) (q : SlotSt) : (s.after h q).now = s.now := rfl
@[simp] theorem after_gw (s : State) (h : Hdr) (q : SlotSt) : (s.after h q).gw = s.gw := rfl

theorem getCore_withSlot (s : State) (y : Bool) (q : SlotSt) : getCore (s.withSlot y q) s.core =
    { getCore s s.core with
      rr := s.slot, last := s.slot, yielded := y, slots := tset (getCore s s.core).slots s.slot q } := by
  simp [getCore, State.withSlot]

theorem getCore_after (s : State) (h : Hdr) (q : SlotSt) : getCore (s.after h q) s.core =
    { getCore s s.core with
      rr := s.slot, last := s.slot, yielded := h.yld, slots := tset (getCore s s.core).slots s.slot q } := by
  simp [getCore, State.after, State.withSlot]

theorem getCore_after_ne (s : State) (h : Hdr) (q : SlotSt) {c : Nat} (hc : c ≠ s.core) :
    getCore (s.after h q) c = getCore s c := by
  simp [getCore, State.after, State.withSlot, tget_tset_ne _ _ hc]

@[simp] theorem curSlot_withSlot (s : State) (y : Bool) (q : SlotSt) : curSlot (s.withSlot y q) = some q := by
  simp [curSlot, slotAt, getCore_withSlot]

@[simp] theorem curSlot_after (s : State) (h : Hdr) (q : SlotSt) : curSlot (s.after h q) = some q := by
  simp [curSlot, slotAt, getCore_after]

/-- A second change of the current slot takes the place of the first. -/
theorem modCur_after (s : State) (h : Hdr) (q : SlotSt) (f : SlotSt → SlotSt) :
    modCur (s.after h q) f = s.after h (f q) := by
  have hc : slotAt (s.after h q) s.core s.slot = some q := curSlot_after s h q
  simp only [modCur, modSlot, after_core, after_slot, hc, setSlot, modCore, setCore, getCore_after]
  simp [State.after, State.withSlot]

/-- Noting the issue choice and changing the current slot, in one. -/
theorem modCur_picked (s : State) (y : Bool) (sl : SlotSt) (f : SlotSt → SlotSt) (hs : curSlot s = some sl) :
    modCur (picked s y) f = s.withSlot y (f sl) := by
  have hc : tget (getCore s s.core).slots s.slot = some sl := hs
  simp only [modCur, modSlot, picked, slotAt, modCore_core, modCore_slot, getCore_modCore_self, hc, setSlot]
  simp [modCore, setCore, State.withSlot, getCore]

/-- An issue that traps writes the issue choice and the slot's pace, and nothing else. -/
theorem tried_eq (s : State) (h : Hdr) (sl : SlotSt) (hs : curSlot s = some sl) :
    tried s h = s.withSlot h.yld { sl with gap := h.pace.toNat + 1 } := modCur_picked s h.yld sl _ hs

/-! ### The slot that an issue leaves -/

theorem started_frame (sl : SlotSt) (h : Hdr) (i : Instr) (id : Nat) :
    sl.started h i id = { sl with
      pc := sl.pc + 16, gap := h.pace.toNat + 1, hist := (sl.started h i id).hist
      inflight := (sl.started h i id).inflight, latA := (sl.started h i id).latA, latB := (sl.started h i id).latB
      latC := (sl.started h i id).latC, misses := (sl.started h i id).misses
      lastkind := (sl.started h i id).lastkind, undo := (sl.started h i id).undo
      flow := (sl.started h i id).flow, fed := (sl.started h i id).fed, turned := (sl.started h i id).turned } := by
  unfold SlotSt.started SlotSt.issued SlotSt.countMiss
  split <;> rfl

@[simp] theorem started_pc (sl : SlotSt) (h : Hdr) (i : Instr) (id : Nat) : (sl.started h i id).pc = sl.pc + 16 := rfl
@[simp] theorem started_task (sl : SlotSt) (h : Hdr) (i : Instr) (id : Nat) : (sl.started h i id).task = sl.task := by
  rw [started_frame]
@[simp] theorem started_xs (sl : SlotSt) (h : Hdr) (i : Instr) (id : Nat) : (sl.started h i id).xs = sl.xs := by
  rw [started_frame]
@[simp] theorem started_vs (sl : SlotSt) (h : Hdr) (i : Instr) (id : Nat) : (sl.started h i id).vs = sl.vs := by
  rw [started_frame]
@[simp] theorem started_ps (sl : SlotSt) (h : Hdr) (i : Instr) (id : Nat) : (sl.started h i id).ps = sl.ps := by
  rw [started_frame]
@[simp] theorem started_bank (sl : SlotSt) (h : Hdr) (i : Instr) (id : Nat) : (sl.started h i id).bank = sl.bank := by
  rw [started_frame]
@[simp] theorem started_poison (sl : SlotSt) (h : Hdr) (i : Instr) (id : Nat) :
    (sl.started h i id).poison = sl.poison := by
  rw [started_frame]
@[simp] theorem started_fpstat (sl : SlotSt) (h : Hdr) (i : Instr) (id : Nat) :
    (sl.started h i id).fpstat = sl.fpstat := by
  rw [started_frame]
@[simp] theorem started_level (sl : SlotSt) (h : Hdr) (i : Instr) (id : Nat) : (sl.started h i id).level = sl.level := by
  rw [started_frame]
@[simp] theorem started_inh (sl : SlotSt) (h : Hdr) (i : Instr) (id : Nat) : (sl.started h i id).inh = sl.inh := by
  rw [started_frame]
@[simp] theorem started_upcall (sl : SlotSt) (h : Hdr) (i : Instr) (id : Nat) :
    (sl.started h i id).upcall = sl.upcall := by
  rw [started_frame]
@[simp] theorem started_ops (sl : SlotSt) (h : Hdr) (i : Instr) (id : Nat) : (sl.started h i id).ops = sl.ops := by
  rw [started_frame]
@[simp] theorem started_hold (sl : SlotSt) (h : Hdr) (i : Instr) (id : Nat) : (sl.started h i id).hold = sl.hold := by
  rw [started_frame]
@[simp] theorem started_undo (sl : SlotSt) (h : Hdr) (i : Instr) (id : Nat) :
    (sl.started h i id).undo = undoAfter sl i false id := rfl
@[simp] theorem started_mark (sl : SlotSt) (h : Hdr) (i : Instr) (id : Nat) : (sl.started h i id).mark = sl.mark := by
  rw [started_frame]
@[simp] theorem started_xlast (sl : SlotSt) (h : Hdr) (i : Instr) (id : Nat) : (sl.started h i id).xlast = sl.xlast := by
  rw [started_frame]
@[simp] theorem started_xid (sl : SlotSt) (h : Hdr) (i : Instr) (id : Nat) : (sl.started h i id).xid = sl.xid := by
  rw [started_frame]
@[simp] theorem started_handlers (sl : SlotSt) (h : Hdr) (i : Instr) (id : Nat) :
    (sl.started h i id).handlers = sl.handlers := by
  rw [started_frame]
@[simp] theorem started_x (sl : SlotSt) (h : Hdr) (i : Instr) (id n : Nat) : (sl.started h i id).x n = sl.x n := by
  unfold SlotSt.x SlotSt.px SlotSt.rdP
  rw [started_bank, started_xs]
@[simp] theorem started_v (sl : SlotSt) (h : Hdr) (i : Instr) (id n : Nat) : (sl.started h i id).v n = sl.v n := by
  simp [SlotSt.v]
@[simp] theorem started_p (sl : SlotSt) (h : Hdr) (i : Instr) (id n : Nat) : (sl.started h i id).p n = sl.p n := by
  simp [SlotSt.p]
@[simp] theorem started_mask (sl : SlotSt) (h h' : Hdr) (i : Instr) (id : Nat) :
    (sl.started h i id).mask h' = sl.mask h' := by
  simp [SlotSt.mask]

/-! ### Issue -/

theorem verdict_runs {s : State} {h : Hdr} {i : Instr} {sl : SlotSt} {k : TaskSt} (r : s.Runs h i sl k) :
    verdict s sl k h (profile i) = .on (hintKind sl h (profile i) false) := by
  have hf : (profile i).feats.find? (fun b => !(getCore s s.core).feat.getLsbD b) = none := by
    rw [List.find?_eq_none]
    intro b hb
    simp [r.feats b hb]
  have hh : (hintKind sl h (profile i) false ≠ 0 && sl.strict && sl.level = k.level0) = false := by
    rcases r.hints with e | e | e <;> simp [e]
  rw [verdict, hf]
  dsimp only
  rw [r.on, hh, r.guard, if_neg (by simp)]
  dsimp only
  rw [if_neg (by simp), r.clean]
  dsimp only
  rw [r.fresh]

theorem verdict_skips {s : State} {h : Hdr} {i : Instr} {sl : SlotSt} {k : TaskSt} (r : s.Skips h i sl k) :
    verdict s sl k h (profile i) = .off (hintKind sl h (profile i) true) := by
  have hf : (profile i).feats.find? (fun b => !(getCore s s.core).feat.getLsbD b) = none := by
    rw [List.find?_eq_none]
    intro b hb
    simp [r.feats b hb]
  have hh : (hintKind sl h (profile i) true ≠ 0 && sl.strict && sl.level = k.level0) = false := by
    rcases r.hints with e | e | e <;> simp [e]
  rw [verdict, hf]
  dsimp only
  rw [r.off, hh, r.guard, if_neg (by simp)]
  dsimp only
  rw [if_pos rfl]

/-- An instruction that runs: its effect, on the state in which it has issued. -/
theorem issue_runs {s : State} {h : Hdr} {i : Instr} {sl : SlotSt} {k : TaskSt} (r : s.Runs h i sl k)
    (body : Nat → State → Eff) : issue i h s body = match body s.seq (s.after h (sl.started h i s.seq)) with
      | .ok t => .next t
      | .trap t => .next (raiseTrap (tried s h) s.core s.slot { t with word := wordOf i })
      | .fail f => .next (raiseFail (tried s h) s.core s.slot f (wordOf i)) := by
  simp only [issue, r.slot, r.task, verdict_runs r]
  rw [modCur_picked s h.yld sl _ r.slot]
  rfl

/-- An instruction whose whole effect is on its own slot. -/
theorem issueSlot_runs {s : State} {h : Hdr} {i : Instr} {sl : SlotSt} {k : TaskSt} (r : s.Runs h i sl k)
    (f : SlotSt → SlotSt) : issueSlot i h s f = .next (s.after h (f (sl.started h i s.seq))) := by
  rw [issueSlot, issue_runs r]
  simp only [modCur_after]

/-- An instruction that its guard turns off has no effect beyond its issue. -/
theorem issue_skips {s : State} {h : Hdr} {i : Instr} {sl : SlotSt} {k : TaskSt} (r : s.Skips h i sl k)
    (body : Nat → State → Eff) : issue i h s body = .next (s.withSlot h.yld (sl.skipped h i s.seq)) := by
  simp only [issue, r.slot, r.task, verdict_skips r]
  rw [modCur_picked s h.yld sl _ r.slot]
  rfl

theorem poisoned_nil {sl : SlotSt} (h : sl.poison = []) (l : List Reg) : sl.poisoned l = none := by
  induction l with
  | nil => rfl
  | cons r l ih => simp [SlotSt.poisoned, h, ih]

theorem feats_lt (i : Instr) : ∀ b ∈ (profile i).feats, b < 6 := by
  cases i <;> simp [profile] <;> (try split) <;> simp

theorem runs_of {s : State} {h : Hdr} {i : Instr} {sl : SlotSt} {k : TaskSt} (hs : curSlot s = some sl)
    (hk : getTask s sl.task = some k) (hp : sl.poison = []) (hh : sl.hist = []) (hr : h.reuse = 0) (hg : h.guard = 0)
    (hn : h.neg = false) (hm : sl.mark = none) (hf : ∀ b ∈ (profile i).feats, (getCore s s.core).feat.getLsbD b = true) : s.Runs h i sl k where
  slot := hs
  task := hk
  feats := hf
  hints := by
    left
    simp [hintKind, hh, hr, coverHist, staleAt]
  guard := poisoned_nil hp _
  on := by
    have hm : sl.mask h = 0xFF := by simp [SlotSt.mask, hg, hn, SlotSt.p]
    simp [guardOff, hm]
  clean := poisoned_nil hp _
  fresh := hm

/-! ### Registers -/

@[simp] theorem x_zero (q : SlotSt) : q.x 0 = 0 := by simp [SlotSt.x, SlotSt.px, SlotSt.rdP, xphys]
@[simp] theorem p_zero (q : SlotSt) : q.p 0 = 0xFF := rfl
@[simp] theorem setX_zero (q : SlotSt) (v : Word) : q.setX 0 v = q := by simp [SlotSt.setX, SlotSt.px, SlotSt.setP, xphys]
@[simp] theorem setPr_zero (q : SlotSt) (v : Pred) : q.setPr 0 v = q := rfl

theorem xphys_lt (bank : Bool) {n : Nat} (h : n < 32) : xphys bank n < 40 := by
  unfold xphys
  split <;> omega

theorem xphys_inj (bank : Bool) {m n : Nat} (hm : m < 32) (hn : n < 32) (h : xphys bank m = xphys bank n) : m = n := by
  unfold xphys at h
  cases bank <;> simp at h <;> (try split at h) <;> (try split at h) <;> omega

theorem xphys_ne_zero (bank : Bool) {n : Nat} (h : n ≠ 0) : xphys bank n ≠ 0 := by
  unfold xphys
  split <;> omega

/-- The register written reads as the value; every other register of the file reads as before (R62, R63). -/
theorem x_setX (q : SlotSt) (d n : XReg) (v : Word) :
    (q.setX d.val v).x n.val = if n = d ∧ d ≠ 0 then v else q.x n.val := by
  have hn := xphys_lt q.bank n.isLt
  have hd := xphys_lt q.bank d.isLt
  by_cases hd0 : d = 0
  · subst hd0
    simp
  · have hd' : d.val ≠ 0 := fun e => hd0 (Fin.ext e)
    have hp := xphys_ne_zero q.bank hd'
    simp only [SlotSt.x, SlotSt.px, setX_bank, SlotSt.rdP]
    simp only [SlotSt.setX, SlotSt.px, SlotSt.setP, hp, if_false]
    by_cases h : n = d
    · subst h
      simp [hp, hd, hd0]
    · have hne : xphys q.bank d.val ≠ xphys q.bank n.val := fun e => h (Fin.ext (xphys_inj q.bank n.isLt d.isLt e.symm))
      simp only [h, false_and, if_false]
      rw [Vector.getElem?_setIfInBounds_ne hne]
      rfl

theorem v_setV (q : SlotSt) (d n : VReg) (v : Vec) : (q.setV d.val v).v n.val = if n = d then v else q.v n.val := by
  simp only [SlotSt.v, SlotSt.setV]
  by_cases h : n = d
  · subst h
    simp
  · have hne : d.val ≠ n.val := fun e => h (Fin.ext e.symm)
    simp only [h, if_false]
    rw [Vector.getElem?_setIfInBounds_ne hne]

theorem p_setPr (q : SlotSt) (d n : PReg) (v : Pred) :
    (q.setPr d.val v).p n.val = if n = d ∧ d ≠ 0 then v else q.p n.val := by
  by_cases hd0 : d = 0
  · subst hd0
    simp
  · have hd' : d.val ≠ 0 := fun e => hd0 (Fin.ext e)
    simp only [SlotSt.p, SlotSt.setPr, hd', if_false]
    by_cases h : n = d
    · subst h
      simp [hd', hd0]
    · have hne : d.val ≠ n.val := fun e => h (Fin.ext e.symm)
      simp only [h, false_and, if_false]
      rw [Vector.getElem?_setIfInBounds_ne hne]

end Sys2Proof.Laws
end

