-- ==== Sys2Proof/Laws/Events.lean ====
section
/-!
SUPPORT. What the shared operations of the device events can do, said once: router cycles that pass, a message to a group
that is gone, a raise that is withdrawn, a core that freezes.
-/
set_option Elab.async false

namespace Sys2Proof.Laws

open Sys2Proof.Machine

/-! ### Dies -/

@[simp] theorem getDie_setDie_self (s : State) (d : Nat) (v : DieSt) : getDie (setDie s d v) d = v := by
  simp [getDie, setDie]

theorem getDie_setDie_ne (s : State) {c d : Nat} (v : DieSt) (h : d ≠ c) : getDie (setDie s c v) d = getDie s d := by
  simp [getDie, setDie, tget_tset_ne _ _ h]

/-! ### Router cycles (R230) -/

/-- Where no exchange phase runs or waits for its Trel, the time alone changes. -/
theorem passCycles_idle {s : State} (h : exchanging s = false) (n : Nat) : passCycles s n = { s with now := s.now + n } := by
  simp [passCycles, h]

/-- Where one does, the cycles pass one by one. -/
theorem passCycles_busy {s : State} (h : exchanging s = true) (n : Nat) : passCycles s n = runCycles s n := by
  simp [passCycles, h]

/-! ### Messages that are dropped (R362) -/

/-- A dropped message counts at the home die of its group, and changes nothing else. -/
theorem dropStale_eq (s : State) (g : GroupId) : dropStale s g = s ∨ ∃ r, tget s.groups (gidIdx g) = some r ∧
    dropStale s g = setDie s r.home { getDie s r.home with stale := satInc (getDie s r.home).stale } := by
  unfold dropStale
  split
  · exact .inr ⟨_, ‹_›, rfl⟩
  · exact .inl rfl

/-! ### Raises (R291, R365) -/

/-- A core whose raise is withdrawn has none left at its die. -/
theorem withdrawRaise_raises (s : State) (c : Nat) :
    (getDie (withdrawRaise s c) (dieKey c)).raises = (getDie s (dieKey c)).raises.filter fun r => r.core ≠ c := by
  simp [withdrawRaise]

/-! ### Frozen cores (R375) -/

/-- Noting the site of a frozen core leaves the remap tables as they were. -/
theorem noteFrozen_maps (s : State) (c d : Nat) : (getDie (noteFrozen s c) d).coreMap = (getDie s d).coreMap ∧
    (getDie (noteFrozen s c) d).clusterMap = (getDie s d).clusterMap := by
  by_cases h : d = dieOf c
  · subst h
    simp [noteFrozen, modDie]
  · simp [noteFrozen, modDie, getDie_setDie_ne _ _ h]

end Sys2Proof.Laws
end

