-- ==== Sys2Proof/Laws/Exec.lean ====
section
/-!
SUPPORT. Every instruction that a word can hold is an issue (R75) with an effect of its own.
-/
set_option Elab.async false

namespace Sys2Proof.Laws

open Sys2Proof.Machine

/-- The meaning of an instruction with scheduling fields is the issue of that instruction. -/
theorem exec_issue {i : Instr} {h : Hdr} (hi : hdrOf i = some h) (s : State) : ∃ body, exec i s = issue i h s body := by
  cases i <;> simp only [hdrOf, Option.some.injEq, reduceCtorEq] at hi <;> subst hi <;> unfold exec <;> dsimp only
  · unfold execNop; exact ⟨_, rfl⟩
  · unfold execBrk; exact ⟨_, rfl⟩
  · unfold execTrap; exact ⟨_, rfl⟩
  · unfold execTrapret; exact ⟨_, rfl⟩
  · unfold execTrapretMove; exact ⟨_, rfl⟩
  · unfold execTrapretEnd; exact ⟨_, rfl⟩
  · unfold execUpret; exact ⟨_, rfl⟩
  · unfold execCrrd; exact ⟨_, rfl⟩
  · unfold execCrwr; exact ⟨_, rfl⟩
  · unfold execCrset; exact ⟨_, rfl⟩
  · unfold execCrclr; exact ⟨_, rfl⟩
  · unfold execIdent; exact ⟨_, rfl⟩
  · unfold execFeat; exact ⟨_, rfl⟩
  · unfold execHalt; exact ⟨_, rfl⟩
  · unfold execSleep; exact ⟨_, rfl⟩
  · unfold execBr; exact ⟨_, rfl⟩
  · unfold execBri; exact ⟨_, rfl⟩
  · unfold execCall; exact ⟨_, rfl⟩
  · unfold execCalli; exact ⟨_, rfl⟩
  · unfold execRet; exact ⟨_, rfl⟩
  · unfold execLoop; exact ⟨_, rfl⟩
  · unfold execEndTask; exact ⟨_, rfl⟩
  · unfold execYieldSlot; exact ⟨_, rfl⟩
  · unfold execIpf; exact ⟨_, rfl⟩
  · unfold execAdd; exact ⟨_, rfl⟩
  · unfold execSub; exact ⟨_, rfl⟩
  · unfold execAddi; exact ⟨_, rfl⟩
  · unfold execMul; exact ⟨_, rfl⟩
  · unfold execMulh; exact ⟨_, rfl⟩
  · unfold execMulhn; exact ⟨_, rfl⟩
  · unfold execMad; exact ⟨_, rfl⟩
  · unfold execDiv; exact ⟨_, rfl⟩
  · unfold execDivn; exact ⟨_, rfl⟩
  · unfold execRem; exact ⟨_, rfl⟩
  · unfold execRemn; exact ⟨_, rfl⟩
  · unfold execAnd; exact ⟨_, rfl⟩
  · unfold execOr; exact ⟨_, rfl⟩
  · unfold execXor; exact ⟨_, rfl⟩
  · unfold execAndn; exact ⟨_, rfl⟩
  · unfold execOrn; exact ⟨_, rfl⟩
  · unfold execShl; exact ⟨_, rfl⟩
  · unfold execShr; exact ⟨_, rfl⟩
  · unfold execSar; exact ⟨_, rfl⟩
  · unfold execRol; exact ⟨_, rfl⟩
  · unfold execShli; exact ⟨_, rfl⟩
  · unfold execShri; exact ⟨_, rfl⟩
  · unfold execSari; exact ⟨_, rfl⟩
  · unfold execMin; exact ⟨_, rfl⟩
  · unfold execMax; exact ⟨_, rfl⟩
  · unfold execMinn; exact ⟨_, rfl⟩
  · unfold execMaxn; exact ⟨_, rfl⟩
  · unfold execClz; exact ⟨_, rfl⟩
  · unfold execCtz; exact ⟨_, rfl⟩
  · unfold execPopc; exact ⟨_, rfl⟩
  · unfold execBrev; exact ⟨_, rfl⟩
  · unfold execBfx; exact ⟨_, rfl⟩
  · unfold execBfxz; exact ⟨_, rfl⟩
  · unfold execBfi; exact ⟨_, rfl⟩
  · unfold execLea; exact ⟨_, rfl⟩
  · unfold execLi; exact ⟨_, rfl⟩
  · unfold execLih; exact ⟨_, rfl⟩
  · unfold execMov; exact ⟨_, rfl⟩
  · unfold execSel; exact ⟨_, rfl⟩
  · unfold execCmp; exact ⟨_, rfl⟩
  · unfold execCmpi; exact ⟨_, rfl⟩
  · unfold execPand; exact ⟨_, rfl⟩
  · unfold execPor; exact ⟨_, rfl⟩
  · unfold execPxor; exact ⟨_, rfl⟩
  · unfold execPnot; exact ⟨_, rfl⟩
  · unfold execPset; exact ⟨_, rfl⟩
  · unfold execPsetX; exact ⟨_, rfl⟩
  · unfold execPget; exact ⟨_, rfl⟩
  · unfold execFadd; exact ⟨_, rfl⟩
  · unfold execFsub; exact ⟨_, rfl⟩
  · unfold execFmul; exact ⟨_, rfl⟩
  · unfold execFma; exact ⟨_, rfl⟩
  · unfold execFms; exact ⟨_, rfl⟩
  · unfold execFnma; exact ⟨_, rfl⟩
  · unfold execFmin; exact ⟨_, rfl⟩
  · unfold execFmax; exact ⟨_, rfl⟩
  · unfold execFabs; exact ⟨_, rfl⟩
  · unfold execFneg; exact ⟨_, rfl⟩
  · unfold execFdiv; exact ⟨_, rfl⟩
  · unfold execFsqrt; exact ⟨_, rfl⟩
  · unfold execFrcp; exact ⟨_, rfl⟩
  · unfold execFrsq; exact ⟨_, rfl⟩
  · unfold execFexp2; exact ⟨_, rfl⟩
  · unfold execFlog2; exact ⟨_, rfl⟩
  · unfold execFcmp; exact ⟨_, rfl⟩
  · unfold execFclass; exact ⟨_, rfl⟩
  · unfold execFscale; exact ⟨_, rfl⟩
  · unfold execFred; exact ⟨_, rfl⟩
  · unfold execFredmax; exact ⟨_, rfl⟩
  · unfold execFredmin; exact ⟨_, rfl⟩
  · unfold execFdot; exact ⟨_, rfl⟩
  · unfold execVadd; exact ⟨_, rfl⟩
  · unfold execVsub; exact ⟨_, rfl⟩
  · unfold execVmul; exact ⟨_, rfl⟩
  · unfold execVmad; exact ⟨_, rfl⟩
  · unfold execVand; exact ⟨_, rfl⟩
  · unfold execVor; exact ⟨_, rfl⟩
  · unfold execVxor; exact ⟨_, rfl⟩
  · unfold execVshl; exact ⟨_, rfl⟩
  · unfold execVshr; exact ⟨_, rfl⟩
  · unfold execVsar; exact ⟨_, rfl⟩
  · unfold execVmin; exact ⟨_, rfl⟩
  · unfold execVmax; exact ⟨_, rfl⟩
  · unfold execVcmp; exact ⟨_, rfl⟩
  · unfold execVred; exact ⟨_, rfl⟩
  · unfold execVbcast; exact ⟨_, rfl⟩
  · unfold execVperm; exact ⟨_, rfl⟩
  · unfold execVsel; exact ⟨_, rfl⟩
  · unfold execVins; exact ⟨_, rfl⟩
  · unfold execVext; exact ⟨_, rfl⟩
  · unfold execVmovx; exact ⟨_, rfl⟩
  · unfold execCvt; exact ⟨_, rfl⟩
  · unfold execCvti; exact ⟨_, rfl⟩
  · unfold execCvtf; exact ⟨_, rfl⟩
  · unfold execDec8; exact ⟨_, rfl⟩
  · unfold execEnc8; exact ⟨_, rfl⟩
  · unfold execPack; exact ⟨_, rfl⟩
  · unfold execUnpack; exact ⟨_, rfl⟩
  · unfold execTblld; exact ⟨_, rfl⟩
  · unfold execLd; exact ⟨_, rfl⟩
  · unfold execSt; exact ⟨_, rfl⟩
  · unfold execLdv; exact ⟨_, rfl⟩
  · unfold execStv; exact ⟨_, rfl⟩
  · unfold execLdro; exact ⟨_, rfl⟩
  · unfold execLdg; exact ⟨_, rfl⟩
  · unfold execSts; exact ⟨_, rfl⟩
  · unfold execPfx; exact ⟨_, rfl⟩
  · unfold execAmo; exact ⟨_, rfl⟩
  · unfold execCas; exact ⟨_, rfl⟩
  · unfold execWbr; exact ⟨_, rfl⟩
  · unfold execInvr; exact ⟨_, rfl⟩
  · unfold execInvrRo; exact ⟨_, rfl⟩
  · unfold execWbinvr; exact ⟨_, rfl⟩
  · unfold execZeror; exact ⟨_, rfl⟩
  · unfold execLockl; exact ⟨_, rfl⟩
  · unfold execUnlockl; exact ⟨_, rfl⟩
  · unfold execCpy; exact ⟨_, rfl⟩
  · unfold execCpyi; exact ⟨_, rfl⟩
  · unfold execGather; exact ⟨_, rfl⟩
  · unfold execScatter; exact ⟨_, rfl⟩
  · unfold execHalo; exact ⟨_, rfl⟩
  · unfold execCpyq; exact ⟨_, rfl⟩
  · unfold execSend; exact ⟨_, rfl⟩
  · unfold execSendi; exact ⟨_, rfl⟩
  · unfold execCntrd; exact ⟨_, rfl⟩
  · unfold execCntadd; exact ⟨_, rfl⟩
  · unfold execCntset; exact ⟨_, rfl⟩
  · unfold execWtset; exact ⟨_, rfl⟩
  · unfold execWtsetS; exact ⟨_, rfl⟩
  · unfold execWtsetL; exact ⟨_, rfl⟩
  · unfold execWtclr; exact ⟨_, rfl⟩
  · unfold execArm; exact ⟨_, rfl⟩
  · unfold execDisarm; exact ⟨_, rfl⟩
  · unfold execLaunch; exact ⟨_, rfl⟩
  · unfold execExch; exact ⟨_, rfl⟩
  · unfold execVote; exact ⟨_, rfl⟩
  · unfold execTtsel; exact ⟨_, rfl⟩
  · unfold execNsend; exact ⟨_, rfl⟩
  · unfold execMfmt; exact ⟨_, rfl⟩
  · unfold execMtbl; exact ⟨_, rfl⟩
  · unfold execMring; exact ⟨_, rfl⟩
  · unfold execMlda; exact ⟨_, rfl⟩
  · unfold execMldb; exact ⟨_, rfl⟩
  · unfold execMma; exact ⟨_, rfl⟩
  · unfold execMmas; exact ⟨_, rfl⟩
  · unfold execMskip; exact ⟨_, rfl⟩
  · unfold execMskipOff; exact ⟨_, rfl⟩
  · unfold execMrot; exact ⟨_, rfl⟩
  · unfold execMzero; exact ⟨_, rfl⟩
  · unfold execMdrain; exact ⟨_, rfl⟩
  · unfold execMcmd; exact ⟨_, rfl⟩
  · unfold execMcap; exact ⟨_, rfl⟩
  · unfold execMcapRev; exact ⟨_, rfl⟩
  · unfold execMstat; exact ⟨_, rfl⟩
  · unfold execMstatU; exact ⟨_, rfl⟩
  · unfold execKstage; exact ⟨_, rfl⟩
  · unfold execKstageU; exact ⟨_, rfl⟩
  · unfold execKsend; exact ⟨_, rfl⟩
  · unfold execKsendt; exact ⟨_, rfl⟩
  · unfold execKyield; exact ⟨_, rfl⟩
  · unfold execKend; exact ⟨_, rfl⟩
  · unfold execKstatOcc; exact ⟨_, rfl⟩
  · unfold execKstatCnt; exact ⟨_, rfl⟩
  · unfold execKflush; exact ⟨_, rfl⟩
  · unfold execGnew; exact ⟨_, rfl⟩
  · unfold execGfree; exact ⟨_, rfl⟩
  · unfold execJoin; exact ⟨_, rfl⟩
  · unfold execLeave; exact ⟨_, rfl⟩
  · unfold execTrylk; exact ⟨_, rfl⟩
  · unfold execUnlk; exact ⟨_, rfl⟩
  · unfold execQpusht; exact ⟨_, rfl⟩
  · unfold execQpopt; exact ⟨_, rfl⟩
  · unfold execBararr; exact ⟨_, rfl⟩
  · unfold execBartry; exact ⟨_, rfl⟩
  · unfold execParkLk; exact ⟨_, rfl⟩
  · unfold execParkQn; exact ⟨_, rfl⟩
  · unfold execParkQs; exact ⟨_, rfl⟩
  · unfold execParkBar; exact ⟨_, rfl⟩
  · unfold execParkRp; exact ⟨_, rfl⟩
  · unfold execShgive; exact ⟨_, rfl⟩
  · unfold execShresv; exact ⟨_, rfl⟩
  · unfold execShrd; exact ⟨_, rfl⟩
  · unfold execShrdL; exact ⟨_, rfl⟩
  · unfold execOprd; exact ⟨_, rfl⟩

end Sys2Proof.Laws
end

