-- ==== Sys2Proof/Laws/PerInstr.lean ====
section
/-!
SUPPORT. The round trip of every instruction: the word that the encoder writes decodes to the instruction it was written
from (R56 to R62). A device event has no word.
-/
set_option Elab.async false
set_option linter.unusedSimpArgs false

namespace Sys2Proof.Laws.RoundTrip

/-- Every word of a well-formed instruction decodes to it. -/
def Statement (i : Instr) : Prop := ∀ w, wellFormed i = true → encode i = some w → decode w = .ok i

theorem illegal (w : BitVec 128) : Statement (.illegal w) := by
  intro x hw he
  simp only [encode, Option.some.injEq] at he
  subst he
  have h : w.extractLsb' 84 12 = 0 := by simpa [wellFormed] using hw
  have h1 : w.extractLsb' 92 4 = 0 := by
    ext i hi
    have := congrArg (fun v : BitVec 12 => v.getLsbD (8 + i)) h
    simp only [BitVec.getLsbD_extractLsb'] at this
    have hi' : 8 + i < 12 := by omega
    simpa [hi', ← Nat.add_assoc] using this
  have h2 : w.extractLsb' 84 8 = 0 := by
    ext i hi
    have := congrArg (fun v : BitVec 12 => v.getLsbD i) h
    simp only [BitVec.getLsbD_extractLsb'] at this
    have hi' : i < 12 := by omega
    simpa [hi'] using this
  simp [decode, Parts.split, h1, h2]

theorem nop (h : Hdr) : Statement (.nop h) := by
  intro x hw he
  simp only [encode, Option.some.injEq] at he
  subst he
  simp only [wellFormed, Bool.and_eq_true] at hw
  rw [decode_gWord _ _ _ _ (by decide) (by decide) (by decide)]
  simp (disch := omega) only [decodeOps, decodeClass0, GOps.zero, gops_split_join, extract_lo, extract_hi, extract_all,
    extract_set_lo, set_set, fits_setWidth, fits_bit, fits_pair, half_lt, bit_lt_two, BitVec.reduceToNat]
  simp [hw, ordOf, ord_eta]

theorem brk (h : Hdr) (code : BitVec 16) : Statement (.brk h code) := by
  intro x hw he
  simp only [encode, Option.some.injEq] at he
  subst he
  simp only [wellFormed, Bool.and_eq_true] at hw
  rw [decode_gWord _ _ _ _ (by decide) (by decide) (by decide)]
  simp (disch := omega) only [decodeOps, decodeClass0, GOps.zero, gops_split_join, extract_lo, extract_hi, extract_all,
    extract_set_lo, set_set, fits_setWidth, fits_bit, fits_pair, half_lt, bit_lt_two, BitVec.reduceToNat]
  simp [hw, ordOf, ord_eta]

theorem trap (h : Hdr) (code : BitVec 16) : Statement (.trap h code) := by
  intro x hw he
  simp only [encode, Option.some.injEq] at he
  subst he
  simp only [wellFormed, Bool.and_eq_true] at hw
  rw [decode_gWord _ _ _ _ (by decide) (by decide) (by decide)]
  simp (disch := omega) only [decodeOps, decodeClass0, GOps.zero, gops_split_join, extract_lo, extract_hi, extract_all,
    extract_set_lo, set_set, fits_setWidth, fits_bit, fits_pair, half_lt, bit_lt_two, BitVec.reduceToNat]
  simp [hw, ordOf, ord_eta]

theorem trapret (h : Hdr) : Statement (.trapret h) := by
  intro x hw he
  simp only [encode, Option.some.injEq] at he
  subst he
  simp only [wellFormed, Bool.and_eq_true] at hw
  rw [decode_gWord _ _ _ _ (by decide) (by decide) (by decide)]
  simp (disch := omega) only [decodeOps, decodeClass0, GOps.zero, gops_split_join, extract_lo, extract_hi, extract_all,
    extract_set_lo, set_set, fits_setWidth, fits_bit, fits_pair, half_lt, bit_lt_two, BitVec.reduceToNat]
  simp [hw, ordOf, ord_eta]

theorem trapretMove (h : Hdr) : Statement (.trapretMove h) := by
  intro _ hw
  simp [wellFormed] at hw

theorem trapretEnd (h : Hdr) : Statement (.trapretEnd h) := by
  intro _ hw
  simp [wellFormed] at hw

theorem upret (h : Hdr) : Statement (.upret h) := by
  intro x hw he
  simp only [encode, Option.some.injEq] at he
  subst he
  simp only [wellFormed, Bool.and_eq_true] at hw
  rw [decode_gWord _ _ _ _ (by decide) (by decide) (by decide)]
  simp (disch := omega) only [decodeOps, decodeClass0, GOps.zero, gops_split_join, extract_lo, extract_hi, extract_all,
    extract_set_lo, set_set, fits_setWidth, fits_bit, fits_pair, half_lt, bit_lt_two, BitVec.reduceToNat]
  simp [hw, ordOf, ord_eta]

theorem crrd (h : Hdr) (d : XReg) (r : CReg) : Statement (.crrd h d r) := by
  intro x hw he
  simp only [encode, Option.some.injEq] at he
  subst he
  simp only [wellFormed, Bool.and_eq_true] at hw
  rw [decode_gWord _ _ _ _ (by decide) (by decide) (by decide)]
  simp (disch := omega) only [decodeOps, decodeClass0, GOps.zero, gops_split_join, extract_lo, extract_hi, extract_all,
    extract_set_lo, set_set, fits_setWidth, fits_bit, fits_pair, half_lt, bit_lt_two, BitVec.reduceToNat]
  simp [hw, ordOf, ord_eta]

theorem crwr (h : Hdr) (a : XReg) (r : CReg) : Statement (.crwr h a r) := by
  intro x hw he
  simp only [encode, Option.some.injEq] at he
  subst he
  simp only [wellFormed, Bool.and_eq_true] at hw
  rw [decode_gWord _ _ _ _ (by decide) (by decide) (by decide)]
  simp (disch := omega) only [decodeOps, decodeClass0, GOps.zero, gops_split_join, extract_lo, extract_hi, extract_all,
    extract_set_lo, set_set, fits_setWidth, fits_bit, fits_pair, half_lt, bit_lt_two, BitVec.reduceToNat]
  simp [hw, ordOf, ord_eta]

theorem crset (h : Hdr) (d a : XReg) (r : CReg) : Statement (.crset h d a r) := by
  intro x hw he
  simp only [encode, Option.some.injEq] at he
  subst he
  simp only [wellFormed, Bool.and_eq_true] at hw
  rw [decode_gWord _ _ _ _ (by decide) (by decide) (by decide)]
  simp (disch := omega) only [decodeOps, decodeClass0, GOps.zero, gops_split_join, extract_lo, extract_hi, extract_all,
    extract_set_lo, set_set, fits_setWidth, fits_bit, fits_pair, half_lt, bit_lt_two, BitVec.reduceToNat]
  simp [hw, ordOf, ord_eta]

theorem crclr (h : Hdr) (d a : XReg) (r : CReg) : Statement (.crclr h d a r) := by
  intro x hw he
  simp only [encode, Option.some.injEq] at he
  subst he
  simp only [wellFormed, Bool.and_eq_true] at hw
  rw [decode_gWord _ _ _ _ (by decide) (by decide) (by decide)]
  simp (disch := omega) only [decodeOps, decodeClass0, GOps.zero, gops_split_join, extract_lo, extract_hi, extract_all,
    extract_set_lo, set_set, fits_setWidth, fits_bit, fits_pair, half_lt, bit_lt_two, BitVec.reduceToNat]
  simp [hw, ordOf, ord_eta]

theorem ident (h : Hdr) (d : XReg) : Statement (.ident h d) := by
  intro x hw he
  simp only [encode, Option.some.injEq] at he
  subst he
  simp only [wellFormed, Bool.and_eq_true] at hw
  rw [decode_gWord _ _ _ _ (by decide) (by decide) (by decide)]
  simp (disch := omega) only [decodeOps, decodeClass0, GOps.zero, gops_split_join, extract_lo, extract_hi, extract_all,
    extract_set_lo, set_set, fits_setWidth, fits_bit, fits_pair, half_lt, bit_lt_two, BitVec.reduceToNat]
  simp [hw, ordOf, ord_eta]

theorem feat (h : Hdr) (d : XReg) : Statement (.feat h d) := by
  intro x hw he
  simp only [encode, Option.some.injEq] at he
  subst he
  simp only [wellFormed, Bool.and_eq_true] at hw
  rw [decode_gWord _ _ _ _ (by decide) (by decide) (by decide)]
  simp (disch := omega) only [decodeOps, decodeClass0, GOps.zero, gops_split_join, extract_lo, extract_hi, extract_all,
    extract_set_lo, set_set, fits_setWidth, fits_bit, fits_pair, half_lt, bit_lt_two, BitVec.reduceToNat]
  simp [hw, ordOf, ord_eta]

theorem halt (h : Hdr) : Statement (.halt h) := by
  intro x hw he
  simp only [encode, Option.some.injEq] at he
  subst he
  simp only [wellFormed, Bool.and_eq_true] at hw
  rw [decode_gWord _ _ _ _ (by decide) (by decide) (by decide)]
  simp (disch := omega) only [decodeOps, decodeClass0, GOps.zero, gops_split_join, extract_lo, extract_hi, extract_all,
    extract_set_lo, set_set, fits_setWidth, fits_bit, fits_pair, half_lt, bit_lt_two, BitVec.reduceToNat]
  simp [hw, ordOf, ord_eta]

theorem sleep (h : Hdr) (d : XReg) (c : CtrReg) (b : XReg) (timeout : BitVec 32) : Statement (.sleep h d c b timeout) := by
  intro x hw he
  simp only [encode, Option.some.injEq] at he
  subst he
  simp only [wellFormed, Bool.and_eq_true] at hw
  rw [decode_gWord _ _ _ _ (by decide) (by decide) (by decide)]
  simp (disch := omega) only [decodeOps, decodeClass0, GOps.zero, gops_split_join, extract_lo, extract_hi, extract_all,
    extract_set_lo, set_set, fits_setWidth, fits_bit, fits_pair, half_lt, bit_lt_two, BitVec.reduceToNat]
  simp [hw, ordOf, ord_eta]

theorem br (h : Hdr) (p : PReg) (t : BrTest) (inv : Bool) (imm : BitVec 48) : Statement (.br h p t inv imm) := by
  intro x hw he
  simp only [encode, Option.some.injEq] at he
  subst he
  simp only [wellFormed, Bool.and_eq_true] at hw
  rw [decode_gWord _ _ _ _ (by decide) (by decide) (by decide)]
  simp (disch := omega) only [decodeOps, decodeClass1, GOps.zero, gops_split_join, extract_lo, extract_hi, extract_all,
    extract_set_lo, set_set, fits_setWidth, fits_bit, fits_pair, half_lt, bit_lt_two, BitVec.reduceToNat]
  simp [hw, ordOf, ord_eta]

theorem bri (h : Hdr) (a : XReg) (imm : BitVec 48) : Statement (.bri h a imm) := by
  intro x hw he
  simp only [encode, Option.some.injEq] at he
  subst he
  simp only [wellFormed, Bool.and_eq_true] at hw
  rw [decode_gWord _ _ _ _ (by decide) (by decide) (by decide)]
  simp (disch := omega) only [decodeOps, decodeClass1, GOps.zero, gops_split_join, extract_lo, extract_hi, extract_all,
    extract_set_lo, set_set, fits_setWidth, fits_bit, fits_pair, half_lt, bit_lt_two, BitVec.reduceToNat]
  simp [hw, ordOf, ord_eta]

theorem call (h : Hdr) (imm : BitVec 48) : Statement (.call h imm) := by
  intro x hw he
  simp only [encode, Option.some.injEq] at he
  subst he
  simp only [wellFormed, Bool.and_eq_true] at hw
  rw [decode_gWord _ _ _ _ (by decide) (by decide) (by decide)]
  simp (disch := omega) only [decodeOps, decodeClass1, GOps.zero, gops_split_join, extract_lo, extract_hi, extract_all,
    extract_set_lo, set_set, fits_setWidth, fits_bit, fits_pair, half_lt, bit_lt_two, BitVec.reduceToNat]
  simp [hw, ordOf, ord_eta]

theorem calli (h : Hdr) (a : XReg) (imm : BitVec 48) : Statement (.calli h a imm) := by
  intro x hw he
  simp only [encode, Option.some.injEq] at he
  subst he
  simp only [wellFormed, Bool.and_eq_true] at hw
  rw [decode_gWord _ _ _ _ (by decide) (by decide) (by decide)]
  simp (disch := omega) only [decodeOps, decodeClass1, GOps.zero, gops_split_join, extract_lo, extract_hi, extract_all,
    extract_set_lo, set_set, fits_setWidth, fits_bit, fits_pair, half_lt, bit_lt_two, BitVec.reduceToNat]
  simp [hw, ordOf, ord_eta]

theorem ret (h : Hdr) (a : XReg) : Statement (.ret h a) := by
  intro x hw he
  simp only [encode, Option.some.injEq] at he
  subst he
  simp only [wellFormed, Bool.and_eq_true] at hw
  rw [decode_gWord _ _ _ _ (by decide) (by decide) (by decide)]
  simp (disch := omega) only [decodeOps, decodeClass1, GOps.zero, gops_split_join, extract_lo, extract_hi, extract_all,
    extract_set_lo, set_set, fits_setWidth, fits_bit, fits_pair, half_lt, bit_lt_two, BitVec.reduceToNat]
  simp [hw, ordOf, ord_eta]

theorem loop (h : Hdr) (a : XReg) (imm : BitVec 48) : Statement (.loop h a imm) := by
  intro x hw he
  simp only [encode, Option.some.injEq] at he
  subst he
  simp only [wellFormed, Bool.and_eq_true] at hw
  rw [decode_gWord _ _ _ _ (by decide) (by decide) (by decide)]
  simp (disch := omega) only [decodeOps, decodeClass1, GOps.zero, gops_split_join, extract_lo, extract_hi, extract_all,
    extract_set_lo, set_set, fits_setWidth, fits_bit, fits_pair, half_lt, bit_lt_two, BitVec.reduceToNat]
  simp [hw, ordOf, ord_eta]

theorem endTask (h : Hdr) : Statement (.endTask h) := by
  intro x hw he
  simp only [encode, Option.some.injEq] at he
  subst he
  simp only [wellFormed, Bool.and_eq_true] at hw
  rw [decode_gWord _ _ _ _ (by decide) (by decide) (by decide)]
  simp (disch := omega) only [decodeOps, decodeClass1, GOps.zero, gops_split_join, extract_lo, extract_hi, extract_all,
    extract_set_lo, set_set, fits_setWidth, fits_bit, fits_pair, half_lt, bit_lt_two, BitVec.reduceToNat]
  simp [hw, ordOf, ord_eta]

theorem yieldSlot (h : Hdr) : Statement (.yieldSlot h) := by
  intro x hw he
  simp only [encode, Option.some.injEq] at he
  subst he
  simp only [wellFormed, Bool.and_eq_true] at hw
  rw [decode_gWord _ _ _ _ (by decide) (by decide) (by decide)]
  simp (disch := omega) only [decodeOps, decodeClass1, GOps.zero, gops_split_join, extract_lo, extract_hi, extract_all,
    extract_set_lo, set_set, fits_setWidth, fits_bit, fits_pair, half_lt, bit_lt_two, BitVec.reduceToNat]
  simp [hw, ordOf, ord_eta]

theorem ipf (h : Hdr) (n : BitVec 4) (imm : BitVec 48) : Statement (.ipf h n imm) := by
  intro x hw he
  simp only [encode, Option.some.injEq] at he
  subst he
  simp only [wellFormed, Bool.and_eq_true] at hw
  rw [decode_gWord _ _ _ _ (by decide) (by decide) (by decide)]
  simp (disch := omega) only [decodeOps, decodeClass1, GOps.zero, gops_split_join, extract_lo, extract_hi, extract_all,
    extract_set_lo, set_set, fits_setWidth, fits_bit, fits_pair, half_lt, bit_lt_two, BitVec.reduceToNat]
  simp [hw, ordOf, ord_eta]

theorem add (h : Hdr) (w : Bool) (d a b : XReg) : Statement (.add h w d a b) := by
  intro x hw he
  simp only [encode, Option.some.injEq] at he
  subst he
  simp only [wellFormed, Bool.and_eq_true] at hw
  rw [decode_gWord _ _ _ _ (by decide) (by decide) (by decide)]
  simp (disch := omega) only [decodeOps, decodeClass2, GOps.zero, gops_split_join, extract_lo, extract_hi, extract_all,
    extract_set_lo, set_set, fits_setWidth, fits_bit, fits_pair, half_lt, bit_lt_two, BitVec.reduceToNat]
  simp [hw, ordOf, ord_eta]

theorem sub (h : Hdr) (w : Bool) (d a b : XReg) : Statement (.sub h w d a b) := by
  intro x hw he
  simp only [encode, Option.some.injEq] at he
  subst he
  simp only [wellFormed, Bool.and_eq_true] at hw
  rw [decode_gWord _ _ _ _ (by decide) (by decide) (by decide)]
  simp (disch := omega) only [decodeOps, decodeClass2, GOps.zero, gops_split_join, extract_lo, extract_hi, extract_all,
    extract_set_lo, set_set, fits_setWidth, fits_bit, fits_pair, half_lt, bit_lt_two, BitVec.reduceToNat]
  simp [hw, ordOf, ord_eta]

theorem addi (h : Hdr) (w : Bool) (d a : XReg) (imm : BitVec 48) : Statement (.addi h w d a imm) := by
  intro x hw he
  simp only [encode, Option.some.injEq] at he
  subst he
  simp only [wellFormed, Bool.and_eq_true] at hw
  rw [decode_gWord _ _ _ _ (by decide) (by decide) (by decide)]
  simp (disch := omega) only [decodeOps, decodeClass2, GOps.zero, gops_split_join, extract_lo, extract_hi, extract_all,
    extract_set_lo, set_set, fits_setWidth, fits_bit, fits_pair, half_lt, bit_lt_two, BitVec.reduceToNat]
  simp [hw, ordOf, ord_eta]

theorem mul (h : Hdr) (w : Bool) (d a b : XReg) : Statement (.mul h w d a b) := by
  intro x hw he
  simp only [encode, Option.some.injEq] at he
  subst he
  simp only [wellFormed, Bool.and_eq_true] at hw
  rw [decode_gWord _ _ _ _ (by decide) (by decide) (by decide)]
  simp (disch := omega) only [decodeOps, decodeClass2, GOps.zero, gops_split_join, extract_lo, extract_hi, extract_all,
    extract_set_lo, set_set, fits_setWidth, fits_bit, fits_pair, half_lt, bit_lt_two, BitVec.reduceToNat]
  simp [hw, ordOf, ord_eta]

theorem mulh (h : Hdr) (w : Bool) (d a b : XReg) : Statement (.mulh h w d a b) := by
  intro x hw he
  simp only [encode, Option.some.injEq] at he
  subst he
  simp only [wellFormed, Bool.and_eq_true] at hw
  rw [decode_gWord _ _ _ _ (by decide) (by decide) (by decide)]
  simp (disch := omega) only [decodeOps, decodeClass2, GOps.zero, gops_split_join, extract_lo, extract_hi, extract_all,
    extract_set_lo, set_set, fits_setWidth, fits_bit, fits_pair, half_lt, bit_lt_two, BitVec.reduceToNat]
  simp [hw, ordOf, ord_eta]

theorem mulhn (h : Hdr) (w : Bool) (d a b : XReg) : Statement (.mulhn h w d a b) := by
  intro x hw he
  simp only [encode, Option.some.injEq] at he
  subst he
  simp only [wellFormed, Bool.and_eq_true] at hw
  rw [decode_gWord _ _ _ _ (by decide) (by decide) (by decide)]
  simp (disch := omega) only [decodeOps, decodeClass2, GOps.zero, gops_split_join, extract_lo, extract_hi, extract_all,
    extract_set_lo, set_set, fits_setWidth, fits_bit, fits_pair, half_lt, bit_lt_two, BitVec.reduceToNat]
  simp [hw, ordOf, ord_eta]

theorem mad (h : Hdr) (w : Bool) (d a b c : XReg) : Statement (.mad h w d a b c) := by
  intro x hw he
  simp only [encode, Option.some.injEq] at he
  subst he
  simp only [wellFormed, Bool.and_eq_true] at hw
  rw [decode_gWord _ _ _ _ (by decide) (by decide) (by decide)]
  simp (disch := omega) only [decodeOps, decodeClass2, GOps.zero, gops_split_join, extract_lo, extract_hi, extract_all,
    extract_set_lo, set_set, fits_setWidth, fits_bit, fits_pair, half_lt, bit_lt_two, BitVec.reduceToNat]
  simp [hw, ordOf, ord_eta]

theorem div (h : Hdr) (w : Bool) (d a b : XReg) : Statement (.div h w d a b) := by
  intro x hw he
  simp only [encode, Option.some.injEq] at he
  subst he
  simp only [wellFormed, Bool.and_eq_true] at hw
  rw [decode_gWord _ _ _ _ (by decide) (by decide) (by decide)]
  simp (disch := omega) only [decodeOps, decodeClass2, GOps.zero, gops_split_join, extract_lo, extract_hi, extract_all,
    extract_set_lo, set_set, fits_setWidth, fits_bit, fits_pair, half_lt, bit_lt_two, BitVec.reduceToNat]
  simp [hw, ordOf, ord_eta]

theorem divn (h : Hdr) (w : Bool) (d a b : XReg) : Statement (.divn h w d a b) := by
  intro x hw he
  simp only [encode, Option.some.injEq] at he
  subst he
  simp only [wellFormed, Bool.and_eq_true] at hw
  rw [decode_gWord _ _ _ _ (by decide) (by decide) (by decide)]
  simp (disch := omega) only [decodeOps, decodeClass2, GOps.zero, gops_split_join, extract_lo, extract_hi, extract_all,
    extract_set_lo, set_set, fits_setWidth, fits_bit, fits_pair, half_lt, bit_lt_two, BitVec.reduceToNat]
  simp [hw, ordOf, ord_eta]

theorem rem (h : Hdr) (w : Bool) (d a b : XReg) : Statement (.rem h w d a b) := by
  intro x hw he
  simp only [encode, Option.some.injEq] at he
  subst he
  simp only [wellFormed, Bool.and_eq_true] at hw
  rw [decode_gWord _ _ _ _ (by decide) (by decide) (by decide)]
  simp (disch := omega) only [decodeOps, decodeClass2, GOps.zero, gops_split_join, extract_lo, extract_hi, extract_all,
    extract_set_lo, set_set, fits_setWidth, fits_bit, fits_pair, half_lt, bit_lt_two, BitVec.reduceToNat]
  simp [hw, ordOf, ord_eta]

theorem remn (h : Hdr) (w : Bool) (d a b : XReg) : Statement (.remn h w d a b) := by
  intro x hw he
  simp only [encode, Option.some.injEq] at he
  subst he
  simp only [wellFormed, Bool.and_eq_true] at hw
  rw [decode_gWord _ _ _ _ (by decide) (by decide) (by decide)]
  simp (disch := omega) only [decodeOps, decodeClass2, GOps.zero, gops_split_join, extract_lo, extract_hi, extract_all,
    extract_set_lo, set_set, fits_setWidth, fits_bit, fits_pair, half_lt, bit_lt_two, BitVec.reduceToNat]
  simp [hw, ordOf, ord_eta]

theorem and (h : Hdr) (d a b : XReg) : Statement (.and h d a b) := by
  intro x hw he
  simp only [encode, Option.some.injEq] at he
  subst he
  simp only [wellFormed, Bool.and_eq_true] at hw
  rw [decode_gWord _ _ _ _ (by decide) (by decide) (by decide)]
  simp (disch := omega) only [decodeOps, decodeClass2, GOps.zero, gops_split_join, extract_lo, extract_hi, extract_all,
    extract_set_lo, set_set, fits_setWidth, fits_bit, fits_pair, half_lt, bit_lt_two, BitVec.reduceToNat]
  simp [hw, ordOf, ord_eta]

theorem or (h : Hdr) (d a b : XReg) : Statement (.or h d a b) := by
  intro x hw he
  simp only [encode, Option.some.injEq] at he
  subst he
  simp only [wellFormed, Bool.and_eq_true] at hw
  rw [decode_gWord _ _ _ _ (by decide) (by decide) (by decide)]
  simp (disch := omega) only [decodeOps, decodeClass2, GOps.zero, gops_split_join, extract_lo, extract_hi, extract_all,
    extract_set_lo, set_set, fits_setWidth, fits_bit, fits_pair, half_lt, bit_lt_two, BitVec.reduceToNat]
  simp [hw, ordOf, ord_eta]

theorem xor (h : Hdr) (d a b : XReg) : Statement (.xor h d a b) := by
  intro x hw he
  simp only [encode, Option.some.injEq] at he
  subst he
  simp only [wellFormed, Bool.and_eq_true] at hw
  rw [decode_gWord _ _ _ _ (by decide) (by decide) (by decide)]
  simp (disch := omega) only [decodeOps, decodeClass2, GOps.zero, gops_split_join, extract_lo, extract_hi, extract_all,
    extract_set_lo, set_set, fits_setWidth, fits_bit, fits_pair, half_lt, bit_lt_two, BitVec.reduceToNat]
  simp [hw, ordOf, ord_eta]

theorem andn (h : Hdr) (d a b : XReg) : Statement (.andn h d a b) := by
  intro x hw he
  simp only [encode, Option.some.injEq] at he
  subst he
  simp only [wellFormed, Bool.and_eq_true] at hw
  rw [decode_gWord _ _ _ _ (by decide) (by decide) (by decide)]
  simp (disch := omega) only [decodeOps, decodeClass2, GOps.zero, gops_split_join, extract_lo, extract_hi, extract_all,
    extract_set_lo, set_set, fits_setWidth, fits_bit, fits_pair, half_lt, bit_lt_two, BitVec.reduceToNat]
  simp [hw, ordOf, ord_eta]

theorem orn (h : Hdr) (d a b : XReg) : Statement (.orn h d a b) := by
  intro x hw he
  simp only [encode, Option.some.injEq] at he
  subst he
  simp only [wellFormed, Bool.and_eq_true] at hw
  rw [decode_gWord _ _ _ _ (by decide) (by decide) (by decide)]
  simp (disch := omega) only [decodeOps, decodeClass2, GOps.zero, gops_split_join, extract_lo, extract_hi, extract_all,
    extract_set_lo, set_set, fits_setWidth, fits_bit, fits_pair, half_lt, bit_lt_two, BitVec.reduceToNat]
  simp [hw, ordOf, ord_eta]

theorem shl (h : Hdr) (w : Bool) (d a b : XReg) : Statement (.shl h w d a b) := by
  intro x hw he
  simp only [encode, Option.some.injEq] at he
  subst he
  simp only [wellFormed, Bool.and_eq_true] at hw
  rw [decode_gWord _ _ _ _ (by decide) (by decide) (by decide)]
  simp (disch := omega) only [decodeOps, decodeClass2, GOps.zero, gops_split_join, extract_lo, extract_hi, extract_all,
    extract_set_lo, set_set, fits_setWidth, fits_bit, fits_pair, half_lt, bit_lt_two, BitVec.reduceToNat]
  simp [hw, ordOf, ord_eta]

theorem shr (h : Hdr) (w : Bool) (d a b : XReg) : Statement (.shr h w d a b) := by
  intro x hw he
  simp only [encode, Option.some.injEq] at he
  subst he
  simp only [wellFormed, Bool.and_eq_true] at hw
  rw [decode_gWord _ _ _ _ (by decide) (by decide) (by decide)]
  simp (disch := omega) only [decodeOps, decodeClass2, GOps.zero, gops_split_join, extract_lo, extract_hi, extract_all,
    extract_set_lo, set_set, fits_setWidth, fits_bit, fits_pair, half_lt, bit_lt_two, BitVec.reduceToNat]
  simp [hw, ordOf, ord_eta]

theorem sar (h : Hdr) (w : Bool) (d a b : XReg) : Statement (.sar h w d a b) := by
  intro x hw he
  simp only [encode, Option.some.injEq] at he
  subst he
  simp only [wellFormed, Bool.and_eq_true] at hw
  rw [decode_gWord _ _ _ _ (by decide) (by decide) (by decide)]
  simp (disch := omega) only [decodeOps, decodeClass2, GOps.zero, gops_split_join, extract_lo, extract_hi, extract_all,
    extract_set_lo, set_set, fits_setWidth, fits_bit, fits_pair, half_lt, bit_lt_two, BitVec.reduceToNat]
  simp [hw, ordOf, ord_eta]

theorem rol (h : Hdr) (w : Bool) (d a b : XReg) : Statement (.rol h w d a b) := by
  intro x hw he
  simp only [encode, Option.some.injEq] at he
  subst he
  simp only [wellFormed, Bool.and_eq_true] at hw
  rw [decode_gWord _ _ _ _ (by decide) (by decide) (by decide)]
  simp (disch := omega) only [decodeOps, decodeClass2, GOps.zero, gops_split_join, extract_lo, extract_hi, extract_all,
    extract_set_lo, set_set, fits_setWidth, fits_bit, fits_pair, half_lt, bit_lt_two, BitVec.reduceToNat]
  simp [hw, ordOf, ord_eta]

theorem shli (h : Hdr) (w : Bool) (d a : XReg) (n : BitVec 6) : Statement (.shli h w d a n) := by
  intro x hw he
  simp only [encode, Option.some.injEq] at he
  subst he
  simp only [wellFormed, Bool.and_eq_true] at hw
  rw [decode_gWord _ _ _ _ (by decide) (by decide) (by decide)]
  simp (disch := omega) only [decodeOps, decodeClass2, GOps.zero, gops_split_join, extract_lo, extract_hi, extract_all,
    extract_set_lo, set_set, fits_setWidth, fits_bit, fits_pair, half_lt, bit_lt_two, BitVec.reduceToNat]
  simp [hw, ordOf, ord_eta]

theorem shri (h : Hdr) (w : Bool) (d a : XReg) (n : BitVec 6) : Statement (.shri h w d a n) := by
  intro x hw he
  simp only [encode, Option.some.injEq] at he
  subst he
  simp only [wellFormed, Bool.and_eq_true] at hw
  rw [decode_gWord _ _ _ _ (by decide) (by decide) (by decide)]
  simp (disch := omega) only [decodeOps, decodeClass2, GOps.zero, gops_split_join, extract_lo, extract_hi, extract_all,
    extract_set_lo, set_set, fits_setWidth, fits_bit, fits_pair, half_lt, bit_lt_two, BitVec.reduceToNat]
  simp [hw, ordOf, ord_eta]

theorem sari (h : Hdr) (w : Bool) (d a : XReg) (n : BitVec 6) : Statement (.sari h w d a n) := by
  intro x hw he
  simp only [encode, Option.some.injEq] at he
  subst he
  simp only [wellFormed, Bool.and_eq_true] at hw
  rw [decode_gWord _ _ _ _ (by decide) (by decide) (by decide)]
  simp (disch := omega) only [decodeOps, decodeClass2, GOps.zero, gops_split_join, extract_lo, extract_hi, extract_all,
    extract_set_lo, set_set, fits_setWidth, fits_bit, fits_pair, half_lt, bit_lt_two, BitVec.reduceToNat]
  simp [hw, ordOf, ord_eta]

theorem min (h : Hdr) (d a b : XReg) : Statement (.min h d a b) := by
  intro x hw he
  simp only [encode, Option.some.injEq] at he
  subst he
  simp only [wellFormed, Bool.and_eq_true] at hw
  rw [decode_gWord _ _ _ _ (by decide) (by decide) (by decide)]
  simp (disch := omega) only [decodeOps, decodeClass3, GOps.zero, gops_split_join, extract_lo, extract_hi, extract_all,
    extract_set_lo, set_set, fits_setWidth, fits_bit, fits_pair, half_lt, bit_lt_two, BitVec.reduceToNat]
  simp [hw, ordOf, ord_eta]

theorem max (h : Hdr) (d a b : XReg) : Statement (.max h d a b) := by
  intro x hw he
  simp only [encode, Option.some.injEq] at he
  subst he
  simp only [wellFormed, Bool.and_eq_true] at hw
  rw [decode_gWord _ _ _ _ (by decide) (by decide) (by decide)]
  simp (disch := omega) only [decodeOps, decodeClass3, GOps.zero, gops_split_join, extract_lo, extract_hi, extract_all,
    extract_set_lo, set_set, fits_setWidth, fits_bit, fits_pair, half_lt, bit_lt_two, BitVec.reduceToNat]
  simp [hw, ordOf, ord_eta]

theorem minn (h : Hdr) (d a b : XReg) : Statement (.minn h d a b) := by
  intro x hw he
  simp only [encode, Option.some.injEq] at he
  subst he
  simp only [wellFormed, Bool.and_eq_true] at hw
  rw [decode_gWord _ _ _ _ (by decide) (by decide) (by decide)]
  simp (disch := omega) only [decodeOps, decodeClass3, GOps.zero, gops_split_join, extract_lo, extract_hi, extract_all,
    extract_set_lo, set_set, fits_setWidth, fits_bit, fits_pair, half_lt, bit_lt_two, BitVec.reduceToNat]
  simp [hw, ordOf, ord_eta]

theorem maxn (h : Hdr) (d a b : XReg) : Statement (.maxn h d a b) := by
  intro x hw he
  simp only [encode, Option.some.injEq] at he
  subst he
  simp only [wellFormed, Bool.and_eq_true] at hw
  rw [decode_gWord _ _ _ _ (by decide) (by decide) (by decide)]
  simp (disch := omega) only [decodeOps, decodeClass3, GOps.zero, gops_split_join, extract_lo, extract_hi, extract_all,
    extract_set_lo, set_set, fits_setWidth, fits_bit, fits_pair, half_lt, bit_lt_two, BitVec.reduceToNat]
  simp [hw, ordOf, ord_eta]

theorem clz (h : Hdr) (d a : XReg) : Statement (.clz h d a) := by
  intro x hw he
  simp only [encode, Option.some.injEq] at he
  subst he
  simp only [wellFormed, Bool.and_eq_true] at hw
  rw [decode_gWord _ _ _ _ (by decide) (by decide) (by decide)]
  simp (disch := omega) only [decodeOps, decodeClass3, GOps.zero, gops_split_join, extract_lo, extract_hi, extract_all,
    extract_set_lo, set_set, fits_setWidth, fits_bit, fits_pair, half_lt, bit_lt_two, BitVec.reduceToNat]
  simp [hw, ordOf, ord_eta]

theorem ctz (h : Hdr) (d a : XReg) : Statement (.ctz h d a) := by
  intro x hw he
  simp only [encode, Option.some.injEq] at he
  subst he
  simp only [wellFormed, Bool.and_eq_true] at hw
  rw [decode_gWord _ _ _ _ (by decide) (by decide) (by decide)]
  simp (disch := omega) only [decodeOps, decodeClass3, GOps.zero, gops_split_join, extract_lo, extract_hi, extract_all,
    extract_set_lo, set_set, fits_setWidth, fits_bit, fits_pair, half_lt, bit_lt_two, BitVec.reduceToNat]
  simp [hw, ordOf, ord_eta]

theorem popc (h : Hdr) (d a : XReg) : Statement (.popc h d a) := by
  intro x hw he
  simp only [encode, Option.some.injEq] at he
  subst he
  simp only [wellFormed, Bool.and_eq_true] at hw
  rw [decode_gWord _ _ _ _ (by decide) (by decide) (by decide)]
  simp (disch := omega) only [decodeOps, decodeClass3, GOps.zero, gops_split_join, extract_lo, extract_hi, extract_all,
    extract_set_lo, set_set, fits_setWidth, fits_bit, fits_pair, half_lt, bit_lt_two, BitVec.reduceToNat]
  simp [hw, ordOf, ord_eta]

theorem brev (h : Hdr) (d a : XReg) : Statement (.brev h d a) := by
  intro x hw he
  simp only [encode, Option.some.injEq] at he
  subst he
  simp only [wellFormed, Bool.and_eq_true] at hw
  rw [decode_gWord _ _ _ _ (by decide) (by decide) (by decide)]
  simp (disch := omega) only [decodeOps, decodeClass3, GOps.zero, gops_split_join, extract_lo, extract_hi, extract_all,
    extract_set_lo, set_set, fits_setWidth, fits_bit, fits_pair, half_lt, bit_lt_two, BitVec.reduceToNat]
  simp [hw, ordOf, ord_eta]

theorem bfx (h : Hdr) (d a : XReg) (pos len : BitVec 6) : Statement (.bfx h d a pos len) := by
  intro x hw he
  simp only [encode, Option.some.injEq] at he
  subst he
  simp only [wellFormed, Bool.and_eq_true] at hw
  rw [decode_gWord _ _ _ _ (by decide) (by decide) (by decide)]
  simp (disch := omega) only [decodeOps, decodeClass3, GOps.zero, gops_split_join, extract_lo, extract_hi, extract_all,
    extract_set_lo, set_set, fits_setWidth, fits_bit, fits_pair, half_lt, bit_lt_two, BitVec.reduceToNat]
  simp [hw, ordOf, ord_eta]

theorem bfxz (h : Hdr) (d a : XReg) (pos len : BitVec 6) : Statement (.bfxz h d a pos len) := by
  intro x hw he
  simp only [encode, Option.some.injEq] at he
  subst he
  simp only [wellFormed, Bool.and_eq_true] at hw
  rw [decode_gWord _ _ _ _ (by decide) (by decide) (by decide)]
  simp (disch := omega) only [decodeOps, decodeClass3, GOps.zero, gops_split_join, extract_lo, extract_hi, extract_all,
    extract_set_lo, set_set, fits_setWidth, fits_bit, fits_pair, half_lt, bit_lt_two, BitVec.reduceToNat]
  simp [hw, ordOf, ord_eta]

theorem bfi (h : Hdr) (d a b : XReg) (pos len : BitVec 6) : Statement (.bfi h d a b pos len) := by
  intro x hw he
  simp only [encode, Option.some.injEq] at he
  subst he
  simp only [wellFormed, Bool.and_eq_true] at hw
  rw [decode_gWord _ _ _ _ (by decide) (by decide) (by decide)]
  simp (disch := omega) only [decodeOps, decodeClass3, GOps.zero, gops_split_join, extract_lo, extract_hi, extract_all,
    extract_set_lo, set_set, fits_setWidth, fits_bit, fits_pair, half_lt, bit_lt_two, BitVec.reduceToNat]
  simp [hw, ordOf, ord_eta]

theorem lea (h : Hdr) (d a b : XReg) (pcrel : Bool) (sh : BitVec 3) (imm : BitVec 48) : Statement (.lea h d a b pcrel sh imm) := by
  intro x hw he
  simp only [encode, Option.some.injEq] at he
  subst he
  simp only [wellFormed, Bool.and_eq_true] at hw
  rw [decode_gWord _ _ _ _ (by decide) (by decide) (by decide)]
  simp (disch := omega) only [decodeOps, decodeClass3, GOps.zero, gops_split_join, extract_lo, extract_hi, extract_all,
    extract_set_lo, set_set, fits_setWidth, fits_bit, fits_pair, half_lt, bit_lt_two, BitVec.reduceToNat]
  simp [hw, ordOf, ord_eta]

theorem li (h : Hdr) (d : XReg) (imm : BitVec 48) : Statement (.li h d imm) := by
  intro x hw he
  simp only [encode, Option.some.injEq] at he
  subst he
  simp only [wellFormed, Bool.and_eq_true] at hw
  rw [decode_gWord _ _ _ _ (by decide) (by decide) (by decide)]
  simp (disch := omega) only [decodeOps, decodeClass3, GOps.zero, gops_split_join, extract_lo, extract_hi, extract_all,
    extract_set_lo, set_set, fits_setWidth, fits_bit, fits_pair, half_lt, bit_lt_two, BitVec.reduceToNat]
  simp [hw, ordOf, ord_eta]

theorem lih (h : Hdr) (d a : XReg) (imm : BitVec 16) : Statement (.lih h d a imm) := by
  intro x hw he
  simp only [encode, Option.some.injEq] at he
  subst he
  simp only [wellFormed, Bool.and_eq_true] at hw
  rw [decode_gWord _ _ _ _ (by decide) (by decide) (by decide)]
  simp (disch := omega) only [decodeOps, decodeClass3, GOps.zero, gops_split_join, extract_lo, extract_hi, extract_all,
    extract_set_lo, set_set, fits_setWidth, fits_bit, fits_pair, half_lt, bit_lt_two, BitVec.reduceToNat]
  simp [hw, ordOf, ord_eta]

theorem mov (h : Hdr) (d a : XReg) : Statement (.mov h d a) := by
  intro x hw he
  simp only [encode, Option.some.injEq] at he
  subst he
  simp only [wellFormed, Bool.and_eq_true] at hw
  rw [decode_gWord _ _ _ _ (by decide) (by decide) (by decide)]
  simp (disch := omega) only [decodeOps, decodeClass3, GOps.zero, gops_split_join, extract_lo, extract_hi, extract_all,
    extract_set_lo, set_set, fits_setWidth, fits_bit, fits_pair, half_lt, bit_lt_two, BitVec.reduceToNat]
  simp [hw, ordOf, ord_eta]

theorem sel (h : Hdr) (d a b : XReg) (c : PReg) : Statement (.sel h d a b c) := by
  intro x hw he
  simp only [encode, Option.some.injEq] at he
  subst he
  simp only [wellFormed, Bool.and_eq_true] at hw
  rw [decode_gWord _ _ _ _ (by decide) (by decide) (by decide)]
  simp (disch := omega) only [decodeOps, decodeClass3, GOps.zero, gops_split_join, extract_lo, extract_hi, extract_all,
    extract_set_lo, set_set, fits_setWidth, fits_bit, fits_pair, half_lt, bit_lt_two, BitVec.reduceToNat]
  simp [hw, ordOf, ord_eta]

theorem cmp (h : Hdr) (cc : Cc) (w : Bool) (d : PReg) (a b : XReg) : Statement (.cmp h cc w d a b) := by
  intro x hw he
  simp only [encode, Option.some.injEq] at he
  subst he
  simp only [wellFormed, Bool.and_eq_true] at hw
  rw [decode_gWord _ _ _ _ (by decide) (by decide) (by decide)]
  simp (disch := omega) only [decodeOps, decodeClass4, GOps.zero, gops_split_join, extract_lo, extract_hi, extract_all,
    extract_set_lo, set_set, fits_setWidth, fits_bit, fits_pair, half_lt, bit_lt_two, BitVec.reduceToNat]
  simp [hw, ordOf, ord_eta]

theorem cmpi (h : Hdr) (cc : Cc) (w : Bool) (d : PReg) (a : XReg) (imm : BitVec 48) : Statement (.cmpi h cc w d a imm) := by
  intro x hw he
  simp only [encode, Option.some.injEq] at he
  subst he
  simp only [wellFormed, Bool.and_eq_true] at hw
  rw [decode_gWord _ _ _ _ (by decide) (by decide) (by decide)]
  simp (disch := omega) only [decodeOps, decodeClass4, GOps.zero, gops_split_join, extract_lo, extract_hi, extract_all,
    extract_set_lo, set_set, fits_setWidth, fits_bit, fits_pair, half_lt, bit_lt_two, BitVec.reduceToNat]
  simp [hw, ordOf, ord_eta]

theorem pand (h : Hdr) (d a b : PReg) : Statement (.pand h d a b) := by
  intro x hw he
  simp only [encode, Option.some.injEq] at he
  subst he
  simp only [wellFormed, Bool.and_eq_true] at hw
  rw [decode_gWord _ _ _ _ (by decide) (by decide) (by decide)]
  simp (disch := omega) only [decodeOps, decodeClass4, GOps.zero, gops_split_join, extract_lo, extract_hi, extract_all,
    extract_set_lo, set_set, fits_setWidth, fits_bit, fits_pair, half_lt, bit_lt_two, BitVec.reduceToNat]
  simp [hw, ordOf, ord_eta]

theorem por (h : Hdr) (d a b : PReg) : Statement (.por h d a b) := by
  intro x hw he
  simp only [encode, Option.some.injEq] at he
  subst he
  simp only [wellFormed, Bool.and_eq_true] at hw
  rw [decode_gWord _ _ _ _ (by decide) (by decide) (by decide)]
  simp (disch := omega) only [decodeOps, decodeClass4, GOps.zero, gops_split_join, extract_lo, extract_hi, extract_all,
    extract_set_lo, set_set, fits_setWidth, fits_bit, fits_pair, half_lt, bit_lt_two, BitVec.reduceToNat]
  simp [hw, ordOf, ord_eta]

theorem pxor (h : Hdr) (d a b : PReg) : Statement (.pxor h d a b) := by
  intro x hw he
  simp only [encode, Option.some.injEq] at he
  subst he
  simp only [wellFormed, Bool.and_eq_true] at hw
  rw [decode_gWord _ _ _ _ (by decide) (by decide) (by decide)]
  simp (disch := omega) only [decodeOps, decodeClass4, GOps.zero, gops_split_join, extract_lo, extract_hi, extract_all,
    extract_set_lo, set_set, fits_setWidth, fits_bit, fits_pair, half_lt, bit_lt_two, BitVec.reduceToNat]
  simp [hw, ordOf, ord_eta]

theorem pnot (h : Hdr) (d a : PReg) : Statement (.pnot h d a) := by
  intro x hw he
  simp only [encode, Option.some.injEq] at he
  subst he
  simp only [wellFormed, Bool.and_eq_true] at hw
  rw [decode_gWord _ _ _ _ (by decide) (by decide) (by decide)]
  simp (disch := omega) only [decodeOps, decodeClass4, GOps.zero, gops_split_join, extract_lo, extract_hi, extract_all,
    extract_set_lo, set_set, fits_setWidth, fits_bit, fits_pair, half_lt, bit_lt_two, BitVec.reduceToNat]
  simp [hw, ordOf, ord_eta]

theorem pset (h : Hdr) (d : PReg) (imm : BitVec 8) : Statement (.pset h d imm) := by
  intro x hw he
  simp only [encode, Option.some.injEq] at he
  subst he
  simp only [wellFormed, Bool.and_eq_true] at hw
  rw [decode_gWord _ _ _ _ (by decide) (by decide) (by decide)]
  simp (disch := omega) only [decodeOps, decodeClass4, GOps.zero, gops_split_join, extract_lo, extract_hi, extract_all,
    extract_set_lo, set_set, fits_setWidth, fits_bit, fits_pair, half_lt, bit_lt_two, BitVec.reduceToNat]
  simp [hw, ordOf, ord_eta]

theorem psetX (h : Hdr) (d : PReg) (a : XReg) : Statement (.psetX h d a) := by
  intro x hw he
  simp only [encode, Option.some.injEq] at he
  subst he
  simp only [wellFormed, Bool.and_eq_true] at hw
  rw [decode_gWord _ _ _ _ (by decide) (by decide) (by decide)]
  simp (disch := omega) only [decodeOps, decodeClass4, GOps.zero, gops_split_join, extract_lo, extract_hi, extract_all,
    extract_set_lo, set_set, fits_setWidth, fits_bit, fits_pair, half_lt, bit_lt_two, BitVec.reduceToNat]
  simp [hw, ordOf, ord_eta]

theorem pget (h : Hdr) (d : XReg) (a : PReg) : Statement (.pget h d a) := by
  intro x hw he
  simp only [encode, Option.some.injEq] at he
  subst he
  simp only [wellFormed, Bool.and_eq_true] at hw
  rw [decode_gWord _ _ _ _ (by decide) (by decide) (by decide)]
  simp (disch := omega) only [decodeOps, decodeClass4, GOps.zero, gops_split_join, extract_lo, extract_hi, extract_all,
    extract_set_lo, set_set, fits_setWidth, fits_bit, fits_pair, half_lt, bit_lt_two, BitVec.reduceToNat]
  simp [hw, ordOf, ord_eta]

theorem fadd (h : Hdr) (t : FTy) (rm : Rnd) (d a b : VReg) : Statement (.fadd h t rm d a b) := by
  intro x hw he
  simp only [encode, Option.some.injEq] at he
  subst he
  simp only [wellFormed, Bool.and_eq_true] at hw
  rw [decode_gWord _ _ _ _ (by decide) (by decide) (by decide)]
  simp (disch := omega) only [decodeOps, decodeClass5, GOps.zero, gops_split_join, extract_lo, extract_hi, extract_all,
    extract_set_lo, set_set, fits_setWidth, fits_bit, fits_pair, half_lt, bit_lt_two, BitVec.reduceToNat]
  simp [hw, ordOf, ord_eta]

theorem fsub (h : Hdr) (t : FTy) (rm : Rnd) (d a b : VReg) : Statement (.fsub h t rm d a b) := by
  intro x hw he
  simp only [encode, Option.some.injEq] at he
  subst he
  simp only [wellFormed, Bool.and_eq_true] at hw
  rw [decode_gWord _ _ _ _ (by decide) (by decide) (by decide)]
  simp (disch := omega) only [decodeOps, decodeClass5, GOps.zero, gops_split_join, extract_lo, extract_hi, extract_all,
    extract_set_lo, set_set, fits_setWidth, fits_bit, fits_pair, half_lt, bit_lt_two, BitVec.reduceToNat]
  simp [hw, ordOf, ord_eta]

theorem fmul (h : Hdr) (t : FTy) (rm : Rnd) (d a b : VReg) : Statement (.fmul h t rm d a b) := by
  intro x hw he
  simp only [encode, Option.some.injEq] at he
  subst he
  simp only [wellFormed, Bool.and_eq_true] at hw
  rw [decode_gWord _ _ _ _ (by decide) (by decide) (by decide)]
  simp (disch := omega) only [decodeOps, decodeClass5, GOps.zero, gops_split_join, extract_lo, extract_hi, extract_all,
    extract_set_lo, set_set, fits_setWidth, fits_bit, fits_pair, half_lt, bit_lt_two, BitVec.reduceToNat]
  simp [hw, ordOf, ord_eta]

theorem fma (h : Hdr) (t : FTy) (rm : Rnd) (d a b c : VReg) : Statement (.fma h t rm d a b c) := by
  intro x hw he
  simp only [encode, Option.some.injEq] at he
  subst he
  simp only [wellFormed, Bool.and_eq_true] at hw
  rw [decode_gWord _ _ _ _ (by decide) (by decide) (by decide)]
  simp (disch := omega) only [decodeOps, decodeClass5, GOps.zero, gops_split_join, extract_lo, extract_hi, extract_all,
    extract_set_lo, set_set, fits_setWidth, fits_bit, fits_pair, half_lt, bit_lt_two, BitVec.reduceToNat]
  simp [hw, ordOf, ord_eta]

theorem fms (h : Hdr) (t : FTy) (rm : Rnd) (d a b c : VReg) : Statement (.fms h t rm d a b c) := by
  intro x hw he
  simp only [encode, Option.some.injEq] at he
  subst he
  simp only [wellFormed, Bool.and_eq_true] at hw
  rw [decode_gWord _ _ _ _ (by decide) (by decide) (by decide)]
  simp (disch := omega) only [decodeOps, decodeClass5, GOps.zero, gops_split_join, extract_lo, extract_hi, extract_all,
    extract_set_lo, set_set, fits_setWidth, fits_bit, fits_pair, half_lt, bit_lt_two, BitVec.reduceToNat]
  simp [hw, ordOf, ord_eta]

theorem fnma (h : Hdr) (t : FTy) (rm : Rnd) (d a b c : VReg) : Statement (.fnma h t rm d a b c) := by
  intro x hw he
  simp only [encode, Option.some.injEq] at he
  subst he
  simp only [wellFormed, Bool.and_eq_true] at hw
  rw [decode_gWord _ _ _ _ (by decide) (by decide) (by decide)]
  simp (disch := omega) only [decodeOps, decodeClass5, GOps.zero, gops_split_join, extract_lo, extract_hi, extract_all,
    extract_set_lo, set_set, fits_setWidth, fits_bit, fits_pair, half_lt, bit_lt_two, BitVec.reduceToNat]
  simp [hw, ordOf, ord_eta]

theorem fmin (h : Hdr) (t : FTy) (d a b : VReg) : Statement (.fmin h t d a b) := by
  intro x hw he
  simp only [encode, Option.some.injEq] at he
  subst he
  simp only [wellFormed, Bool.and_eq_true] at hw
  rw [decode_gWord _ _ _ _ (by decide) (by decide) (by decide)]
  simp (disch := omega) only [decodeOps, decodeClass5, GOps.zero, gops_split_join, extract_lo, extract_hi, extract_all,
    extract_set_lo, set_set, fits_setWidth, fits_bit, fits_pair, half_lt, bit_lt_two, BitVec.reduceToNat]
  simp [hw, ordOf, ord_eta]

theorem fmax (h : Hdr) (t : FTy) (d a b : VReg) : Statement (.fmax h t d a b) := by
  intro x hw he
  simp only [encode, Option.some.injEq] at he
  subst he
  simp only [wellFormed, Bool.and_eq_true] at hw
  rw [decode_gWord _ _ _ _ (by decide) (by decide) (by decide)]
  simp (disch := omega) only [decodeOps, decodeClass5, GOps.zero, gops_split_join, extract_lo, extract_hi, extract_all,
    extract_set_lo, set_set, fits_setWidth, fits_bit, fits_pair, half_lt, bit_lt_two, BitVec.reduceToNat]
  simp [hw, ordOf, ord_eta]

theorem fabs (h : Hdr) (t : FTy) (d a : VReg) : Statement (.fabs h t d a) := by
  intro x hw he
  simp only [encode, Option.some.injEq] at he
  subst he
  simp only [wellFormed, Bool.and_eq_true] at hw
  rw [decode_gWord _ _ _ _ (by decide) (by decide) (by decide)]
  simp (disch := omega) only [decodeOps, decodeClass5, GOps.zero, gops_split_join, extract_lo, extract_hi, extract_all,
    extract_set_lo, set_set, fits_setWidth, fits_bit, fits_pair, half_lt, bit_lt_two, BitVec.reduceToNat]
  simp [hw, ordOf, ord_eta]

theorem fneg (h : Hdr) (t : FTy) (d a : VReg) : Statement (.fneg h t d a) := by
  intro x hw he
  simp only [encode, Option.some.injEq] at he
  subst he
  simp only [wellFormed, Bool.and_eq_true] at hw
  rw [decode_gWord _ _ _ _ (by decide) (by decide) (by decide)]
  simp (disch := omega) only [decodeOps, decodeClass5, GOps.zero, gops_split_join, extract_lo, extract_hi, extract_all,
    extract_set_lo, set_set, fits_setWidth, fits_bit, fits_pair, half_lt, bit_lt_two, BitVec.reduceToNat]
  simp [hw, ordOf, ord_eta]

theorem fdiv (h : Hdr) (t : FTy) (rm : Rnd) (d a b : VReg) : Statement (.fdiv h t rm d a b) := by
  intro x hw he
  simp only [encode, Option.some.injEq] at he
  subst he
  simp only [wellFormed, Bool.and_eq_true] at hw
  rw [decode_gWord _ _ _ _ (by decide) (by decide) (by decide)]
  simp (disch := omega) only [decodeOps, decodeClass5, GOps.zero, gops_split_join, extract_lo, extract_hi, extract_all,
    extract_set_lo, set_set, fits_setWidth, fits_bit, fits_pair, half_lt, bit_lt_two, BitVec.reduceToNat]
  simp [hw, ordOf, ord_eta]

theorem fsqrt (h : Hdr) (t : FTy) (rm : Rnd) (d a : VReg) : Statement (.fsqrt h t rm d a) := by
  intro x hw he
  simp only [encode, Option.some.injEq] at he
  subst he
  simp only [wellFormed, Bool.and_eq_true] at hw
  rw [decode_gWord _ _ _ _ (by decide) (by decide) (by decide)]
  simp (disch := omega) only [decodeOps, decodeClass5, GOps.zero, gops_split_join, extract_lo, extract_hi, extract_all,
    extract_set_lo, set_set, fits_setWidth, fits_bit, fits_pair, half_lt, bit_lt_two, BitVec.reduceToNat]
  simp [hw, ordOf, ord_eta]

theorem frcp (h : Hdr) (t : FTy) (rm : Rnd) (d a : VReg) : Statement (.frcp h t rm d a) := by
  intro x hw he
  simp only [encode, Option.some.injEq] at he
  subst he
  simp only [wellFormed, Bool.and_eq_true] at hw
  rw [decode_gWord _ _ _ _ (by decide) (by decide) (by decide)]
  simp (disch := omega) only [decodeOps, decodeClass5, GOps.zero, gops_split_join, extract_lo, extract_hi, extract_all,
    extract_set_lo, set_set, fits_setWidth, fits_bit, fits_pair, half_lt, bit_lt_two, BitVec.reduceToNat]
  simp [hw, ordOf, ord_eta]

theorem frsq (h : Hdr) (t : FTy) (rm : Rnd) (d a : VReg) : Statement (.frsq h t rm d a) := by
  intro x hw he
  simp only [encode, Option.some.injEq] at he
  subst he
  simp only [wellFormed, Bool.and_eq_true] at hw
  rw [decode_gWord _ _ _ _ (by decide) (by decide) (by decide)]
  simp (disch := omega) only [decodeOps, decodeClass5, GOps.zero, gops_split_join, extract_lo, extract_hi, extract_all,
    extract_set_lo, set_set, fits_setWidth, fits_bit, fits_pair, half_lt, bit_lt_two, BitVec.reduceToNat]
  simp [hw, ordOf, ord_eta]

theorem fexp2 (h : Hdr) (t : FTy) (rm : Rnd) (d a : VReg) : Statement (.fexp2 h t rm d a) := by
  intro x hw he
  simp only [encode, Option.some.injEq] at he
  subst he
  simp only [wellFormed, Bool.and_eq_true] at hw
  rw [decode_gWord _ _ _ _ (by decide) (by decide) (by decide)]
  simp (disch := omega) only [decodeOps, decodeClass5, GOps.zero, gops_split_join, extract_lo, extract_hi, extract_all,
    extract_set_lo, set_set, fits_setWidth, fits_bit, fits_pair, half_lt, bit_lt_two, BitVec.reduceToNat]
  simp [hw, ordOf, ord_eta]

theorem flog2 (h : Hdr) (t : FTy) (rm : Rnd) (d a : VReg) : Statement (.flog2 h t rm d a) := by
  intro x hw he
  simp only [encode, Option.some.injEq] at he
  subst he
  simp only [wellFormed, Bool.and_eq_true] at hw
  rw [decode_gWord _ _ _ _ (by decide) (by decide) (by decide)]
  simp (disch := omega) only [decodeOps, decodeClass5, GOps.zero, gops_split_join, extract_lo, extract_hi, extract_all,
    extract_set_lo, set_set, fits_setWidth, fits_bit, fits_pair, half_lt, bit_lt_two, BitVec.reduceToNat]
  simp [hw, ordOf, ord_eta]

theorem fcmp (h : Hdr) (cc : FCc) (t : FTy) (odd : Bool) (d : PReg) (a b : VReg) : Statement (.fcmp h cc t odd d a b) := by
  intro x hw he
  simp only [encode, Option.some.injEq] at he
  subst he
  simp only [wellFormed, Bool.and_eq_true] at hw
  rw [decode_gWord _ _ _ _ (by decide) (by decide) (by decide)]
  simp (disch := omega) only [decodeOps, decodeClass5, GOps.zero, gops_split_join, extract_lo, extract_hi, extract_all,
    extract_set_lo, set_set, fits_setWidth, fits_bit, fits_pair, half_lt, bit_lt_two, BitVec.reduceToNat]
  simp [hw, ordOf, ord_eta]

theorem fclass (h : Hdr) (t : FTy) (d a : VReg) : Statement (.fclass h t d a) := by
  intro x hw he
  simp only [encode, Option.some.injEq] at he
  subst he
  simp only [wellFormed, Bool.and_eq_true] at hw
  rw [decode_gWord _ _ _ _ (by decide) (by decide) (by decide)]
  simp (disch := omega) only [decodeOps, decodeClass5, GOps.zero, gops_split_join, extract_lo, extract_hi, extract_all,
    extract_set_lo, set_set, fits_setWidth, fits_bit, fits_pair, half_lt, bit_lt_two, BitVec.reduceToNat]
  simp [hw, ordOf, ord_eta]

theorem fscale (h : Hdr) (t : FTy) (rm : Rnd) (d a b : VReg) : Statement (.fscale h t rm d a b) := by
  intro x hw he
  simp only [encode, Option.some.injEq] at he
  subst he
  simp only [wellFormed, Bool.and_eq_true] at hw
  rw [decode_gWord _ _ _ _ (by decide) (by decide) (by decide)]
  simp (disch := omega) only [decodeOps, decodeClass5, GOps.zero, gops_split_join, extract_lo, extract_hi, extract_all,
    extract_set_lo, set_set, fits_setWidth, fits_bit, fits_pair, half_lt, bit_lt_two, BitVec.reduceToNat]
  simp [hw, ordOf, ord_eta]

theorem fred (h : Hdr) (t : FTy) (rm : Rnd) (d : XReg) (a : VReg) : Statement (.fred h t rm d a) := by
  intro x hw he
  simp only [encode, Option.some.injEq] at he
  subst he
  simp only [wellFormed, Bool.and_eq_true] at hw
  rw [decode_gWord _ _ _ _ (by decide) (by decide) (by decide)]
  simp (disch := omega) only [decodeOps, decodeClass5, GOps.zero, gops_split_join, extract_lo, extract_hi, extract_all,
    extract_set_lo, set_set, fits_setWidth, fits_bit, fits_pair, half_lt, bit_lt_two, BitVec.reduceToNat]
  simp [hw, ordOf, ord_eta]

theorem fredmax (h : Hdr) (t : FTy) (d : XReg) (a : VReg) : Statement (.fredmax h t d a) := by
  intro x hw he
  simp only [encode, Option.some.injEq] at he
  subst he
  simp only [wellFormed, Bool.and_eq_true] at hw
  rw [decode_gWord _ _ _ _ (by decide) (by decide) (by decide)]
  simp (disch := omega) only [decodeOps, decodeClass5, GOps.zero, gops_split_join, extract_lo, extract_hi, extract_all,
    extract_set_lo, set_set, fits_setWidth, fits_bit, fits_pair, half_lt, bit_lt_two, BitVec.reduceToNat]
  simp [hw, ordOf, ord_eta]

theorem fredmin (h : Hdr) (t : FTy) (d : XReg) (a : VReg) : Statement (.fredmin h t d a) := by
  intro x hw he
  simp only [encode, Option.some.injEq] at he
  subst he
  simp only [wellFormed, Bool.and_eq_true] at hw
  rw [decode_gWord _ _ _ _ (by decide) (by decide) (by decide)]
  simp (disch := omega) only [decodeOps, decodeClass5, GOps.zero, gops_split_join, extract_lo, extract_hi, extract_all,
    extract_set_lo, set_set, fits_setWidth, fits_bit, fits_pair, half_lt, bit_lt_two, BitVec.reduceToNat]
  simp [hw, ordOf, ord_eta]

theorem fdot (h : Hdr) (t : FTy) (rm : Rnd) (d : XReg) (a b : VReg) : Statement (.fdot h t rm d a b) := by
  intro x hw he
  simp only [encode, Option.some.injEq] at he
  subst he
  simp only [wellFormed, Bool.and_eq_true] at hw
  rw [decode_gWord _ _ _ _ (by decide) (by decide) (by decide)]
  simp (disch := omega) only [decodeOps, decodeClass5, GOps.zero, gops_split_join, extract_lo, extract_hi, extract_all,
    extract_set_lo, set_set, fits_setWidth, fits_bit, fits_pair, half_lt, bit_lt_two, BitVec.reduceToNat]
  simp [hw, ordOf, ord_eta]

theorem vadd (h : Hdr) (t : ITy) (sat : Bool) (d a b : VReg) : Statement (.vadd h t sat d a b) := by
  intro x hw he
  simp only [encode, Option.some.injEq] at he
  subst he
  simp only [wellFormed, Bool.and_eq_true] at hw
  rw [decode_gWord _ _ _ _ (by decide) (by decide) (by decide)]
  simp (disch := omega) only [decodeOps, decodeClass6, GOps.zero, gops_split_join, extract_lo, extract_hi, extract_all,
    extract_set_lo, set_set, fits_setWidth, fits_bit, fits_pair, half_lt, bit_lt_two, BitVec.reduceToNat]
  simp [hw, ordOf, ord_eta]

theorem vsub (h : Hdr) (t : ITy) (sat : Bool) (d a b : VReg) : Statement (.vsub h t sat d a b) := by
  intro x hw he
  simp only [encode, Option.some.injEq] at he
  subst he
  simp only [wellFormed, Bool.and_eq_true] at hw
  rw [decode_gWord _ _ _ _ (by decide) (by decide) (by decide)]
  simp (disch := omega) only [decodeOps, decodeClass6, GOps.zero, gops_split_join, extract_lo, extract_hi, extract_all,
    extract_set_lo, set_set, fits_setWidth, fits_bit, fits_pair, half_lt, bit_lt_two, BitVec.reduceToNat]
  simp [hw, ordOf, ord_eta]

theorem vmul (h : Hdr) (t : ITy) (sat : Bool) (d a b : VReg) : Statement (.vmul h t sat d a b) := by
  intro x hw he
  simp only [encode, Option.some.injEq] at he
  subst he
  simp only [wellFormed, Bool.and_eq_true] at hw
  rw [decode_gWord _ _ _ _ (by decide) (by decide) (by decide)]
  simp (disch := omega) only [decodeOps, decodeClass6, GOps.zero, gops_split_join, extract_lo, extract_hi, extract_all,
    extract_set_lo, set_set, fits_setWidth, fits_bit, fits_pair, half_lt, bit_lt_two, BitVec.reduceToNat]
  simp [hw, ordOf, ord_eta]

theorem vmad (h : Hdr) (t : ITy) (sat : Bool) (d a b c : VReg) : Statement (.vmad h t sat d a b c) := by
  intro x hw he
  simp only [encode, Option.some.injEq] at he
  subst he
  simp only [wellFormed, Bool.and_eq_true] at hw
  rw [decode_gWord _ _ _ _ (by decide) (by decide) (by decide)]
  simp (disch := omega) only [decodeOps, decodeClass6, GOps.zero, gops_split_join, extract_lo, extract_hi, extract_all,
    extract_set_lo, set_set, fits_setWidth, fits_bit, fits_pair, half_lt, bit_lt_two, BitVec.reduceToNat]
  simp [hw, ordOf, ord_eta]

theorem vand (h : Hdr) (t : LTy) (d a b : VReg) : Statement (.vand h t d a b) := by
  intro x hw he
  simp only [encode, Option.some.injEq] at he
  subst he
  simp only [wellFormed, Bool.and_eq_true] at hw
  rw [decode_gWord _ _ _ _ (by decide) (by decide) (by decide)]
  simp (disch := omega) only [decodeOps, decodeClass6, GOps.zero, gops_split_join, extract_lo, extract_hi, extract_all,
    extract_set_lo, set_set, fits_setWidth, fits_bit, fits_pair, half_lt, bit_lt_two, BitVec.reduceToNat]
  simp [hw, ordOf, ord_eta]

theorem vor (h : Hdr) (t : LTy) (d a b : VReg) : Statement (.vor h t d a b) := by
  intro x hw he
  simp only [encode, Option.some.injEq] at he
  subst he
  simp only [wellFormed, Bool.and_eq_true] at hw
  rw [decode_gWord _ _ _ _ (by decide) (by decide) (by decide)]
  simp (disch := omega) only [decodeOps, decodeClass6, GOps.zero, gops_split_join, extract_lo, extract_hi, extract_all,
    extract_set_lo, set_set, fits_setWidth, fits_bit, fits_pair, half_lt, bit_lt_two, BitVec.reduceToNat]
  simp [hw, ordOf, ord_eta]

theorem vxor (h : Hdr) (t : LTy) (d a b : VReg) : Statement (.vxor h t d a b) := by
  intro x hw he
  simp only [encode, Option.some.injEq] at he
  subst he
  simp only [wellFormed, Bool.and_eq_true] at hw
  rw [decode_gWord _ _ _ _ (by decide) (by decide) (by decide)]
  simp (disch := omega) only [decodeOps, decodeClass6, GOps.zero, gops_split_join, extract_lo, extract_hi, extract_all,
    extract_set_lo, set_set, fits_setWidth, fits_bit, fits_pair, half_lt, bit_lt_two, BitVec.reduceToNat]
  simp [hw, ordOf, ord_eta]

theorem vshl (h : Hdr) (t : ITy) (imm : Option (BitVec 5)) (d a b : VReg) : Statement (.vshl h t imm d a b) := by
  rcases imm with _ | k
  · intro x hw he
    simp only [encode, Option.some.injEq] at he
    subst he
    rw [decode_gWord _ _ _ _ (by decide) (by decide) (by decide)]
    simp (disch := omega) only [decodeOps, decodeClass6, GOps.zero, gops_split_join, extract_lo, extract_hi, extract_all, extract_set_lo, set_set, fits_setWidth, fits_bit, fits_pair, half_lt, bit_lt_two, BitVec.reduceToNat]
    simp [hw, ordOf, ord_eta]
  · intro x hw he
    simp only [encode, Option.some.injEq] at he
    subst he
    simp only [wellFormed, vshiftOk, Bool.and_eq_true, beq_iff_eq] at hw
    obtain ⟨hz, hd⟩ := hw
    subst hz
    rw [decode_gWord _ _ _ _ (by decide) (by decide) (by decide)]
    simp (disch := omega) only [decodeOps, decodeClass6, GOps.zero, gops_split_join, extract_lo, extract_hi, extract_all, extract_set_lo, set_set, fits_setWidth, fits_bit, fits_pair, half_lt, bit_lt_two, BitVec.reduceToNat]
    simp [ordOf, ord_eta, vshiftOk, hd]

theorem vshr (h : Hdr) (t : ITy) (imm : Option (BitVec 5)) (d a b : VReg) : Statement (.vshr h t imm d a b) := by
  rcases imm with _ | k
  · intro x hw he
    simp only [encode, Option.some.injEq] at he
    subst he
    rw [decode_gWord _ _ _ _ (by decide) (by decide) (by decide)]
    simp (disch := omega) only [decodeOps, decodeClass6, GOps.zero, gops_split_join, extract_lo, extract_hi, extract_all, extract_set_lo, set_set, fits_setWidth, fits_bit, fits_pair, half_lt, bit_lt_two, BitVec.reduceToNat]
    simp [hw, ordOf, ord_eta]
  · intro x hw he
    simp only [encode, Option.some.injEq] at he
    subst he
    simp only [wellFormed, vshiftOk, Bool.and_eq_true, beq_iff_eq] at hw
    obtain ⟨hz, hd⟩ := hw
    subst hz
    rw [decode_gWord _ _ _ _ (by decide) (by decide) (by decide)]
    simp (disch := omega) only [decodeOps, decodeClass6, GOps.zero, gops_split_join, extract_lo, extract_hi, extract_all, extract_set_lo, set_set, fits_setWidth, fits_bit, fits_pair, half_lt, bit_lt_two, BitVec.reduceToNat]
    simp [ordOf, ord_eta, vshiftOk, hd]

theorem vsar (h : Hdr) (t : ITy) (imm : Option (BitVec 5)) (d a b : VReg) : Statement (.vsar h t imm d a b) := by
  rcases imm with _ | k
  · intro x hw he
    simp only [encode, Option.some.injEq] at he
    subst he
    rw [decode_gWord _ _ _ _ (by decide) (by decide) (by decide)]
    simp (disch := omega) only [decodeOps, decodeClass6, GOps.zero, gops_split_join, extract_lo, extract_hi, extract_all, extract_set_lo, set_set, fits_setWidth, fits_bit, fits_pair, half_lt, bit_lt_two, BitVec.reduceToNat]
    simp [hw, ordOf, ord_eta]
  · intro x hw he
    simp only [encode, Option.some.injEq] at he
    subst he
    simp only [wellFormed, vshiftOk, Bool.and_eq_true, beq_iff_eq] at hw
    obtain ⟨hz, hd⟩ := hw
    subst hz
    rw [decode_gWord _ _ _ _ (by decide) (by decide) (by decide)]
    simp (disch := omega) only [decodeOps, decodeClass6, GOps.zero, gops_split_join, extract_lo, extract_hi, extract_all, extract_set_lo, set_set, fits_setWidth, fits_bit, fits_pair, half_lt, bit_lt_two, BitVec.reduceToNat]
    simp [ordOf, ord_eta, vshiftOk, hd]

theorem vmin (h : Hdr) (t : ITy) (d a b : VReg) : Statement (.vmin h t d a b) := by
  intro x hw he
  simp only [encode, Option.some.injEq] at he
  subst he
  simp only [wellFormed, Bool.and_eq_true] at hw
  rw [decode_gWord _ _ _ _ (by decide) (by decide) (by decide)]
  simp (disch := omega) only [decodeOps, decodeClass6, GOps.zero, gops_split_join, extract_lo, extract_hi, extract_all,
    extract_set_lo, set_set, fits_setWidth, fits_bit, fits_pair, half_lt, bit_lt_two, BitVec.reduceToNat]
  simp [hw, ordOf, ord_eta]

theorem vmax (h : Hdr) (t : ITy) (d a b : VReg) : Statement (.vmax h t d a b) := by
  intro x hw he
  simp only [encode, Option.some.injEq] at he
  subst he
  simp only [wellFormed, Bool.and_eq_true] at hw
  rw [decode_gWord _ _ _ _ (by decide) (by decide) (by decide)]
  simp (disch := omega) only [decodeOps, decodeClass6, GOps.zero, gops_split_join, extract_lo, extract_hi, extract_all,
    extract_set_lo, set_set, fits_setWidth, fits_bit, fits_pair, half_lt, bit_lt_two, BitVec.reduceToNat]
  simp [hw, ordOf, ord_eta]

theorem vcmp (h : Hdr) (cc : Cc) (t : ITy) (odd : Bool) (d : PReg) (a b : VReg) : Statement (.vcmp h cc t odd d a b) := by
  intro x hw he
  simp only [encode, Option.some.injEq] at he
  subst he
  simp only [wellFormed, Bool.and_eq_true] at hw
  rw [decode_gWord _ _ _ _ (by decide) (by decide) (by decide)]
  simp (disch := omega) only [decodeOps, decodeClass6, GOps.zero, gops_split_join, extract_lo, extract_hi, extract_all,
    extract_set_lo, set_set, fits_setWidth, fits_bit, fits_pair, half_lt, bit_lt_two, BitVec.reduceToNat]
  simp [hw, ordOf, ord_eta]

theorem vred (h : Hdr) (t : ITy) (d : XReg) (a : VReg) : Statement (.vred h t d a) := by
  intro x hw he
  simp only [encode, Option.some.injEq] at he
  subst he
  simp only [wellFormed, Bool.and_eq_true] at hw
  rw [decode_gWord _ _ _ _ (by decide) (by decide) (by decide)]
  simp (disch := omega) only [decodeOps, decodeClass6, GOps.zero, gops_split_join, extract_lo, extract_hi, extract_all,
    extract_set_lo, set_set, fits_setWidth, fits_bit, fits_pair, half_lt, bit_lt_two, BitVec.reduceToNat]
  simp [hw, ordOf, ord_eta]

theorem vbcast (h : Hdr) (t : LTy) (imm : Option (BitVec 32)) (d : VReg) (a : XReg) : Statement (.vbcast h t imm d a) := by
  rcases imm with _ | k
  · intro x hw he
    simp only [encode, Option.some.injEq] at he
    subst he
    rw [decode_gWord _ _ _ _ (by decide) (by decide) (by decide)]
    simp (disch := omega) only [decodeOps, decodeClass6, GOps.zero, gops_split_join, extract_lo, extract_hi, extract_all, extract_set_lo, set_set, fits_setWidth, fits_bit, fits_pair, half_lt, bit_lt_two, BitVec.reduceToNat]
    simp [hw, ordOf, ord_eta]
  · intro x hw he
    simp only [encode, Option.some.injEq] at he
    subst he
    simp only [wellFormed, bcastOk, Bool.and_eq_true, beq_iff_eq] at hw
    obtain ⟨hz, hd⟩ := hw
    subst hz
    rw [decode_gWord _ _ _ _ (by decide) (by decide) (by decide)]
    simp (disch := omega) only [decodeOps, decodeClass6, GOps.zero, gops_split_join, extract_lo, extract_hi, extract_all, extract_set_lo, set_set, fits_setWidth, fits_bit, fits_pair, half_lt, bit_lt_two, BitVec.reduceToNat]
    simp [ordOf, ord_eta, bcastOk, hd]

theorem vperm (h : Hdr) (t : LTy) (d a b c : VReg) : Statement (.vperm h t d a b c) := by
  intro x hw he
  simp only [encode, Option.some.injEq] at he
  subst he
  simp only [wellFormed, Bool.and_eq_true] at hw
  rw [decode_gWord _ _ _ _ (by decide) (by decide) (by decide)]
  simp (disch := omega) only [decodeOps, decodeClass6, GOps.zero, gops_split_join, extract_lo, extract_hi, extract_all,
    extract_set_lo, set_set, fits_setWidth, fits_bit, fits_pair, half_lt, bit_lt_two, BitVec.reduceToNat]
  simp [hw, ordOf, ord_eta]

theorem vsel (h : Hdr) (t : LTy) (d a b : VReg) (c : PReg) : Statement (.vsel h t d a b c) := by
  intro x hw he
  simp only [encode, Option.some.injEq] at he
  subst he
  simp only [wellFormed, Bool.and_eq_true] at hw
  rw [decode_gWord _ _ _ _ (by decide) (by decide) (by decide)]
  simp (disch := omega) only [decodeOps, decodeClass6, GOps.zero, gops_split_join, extract_lo, extract_hi, extract_all,
    extract_set_lo, set_set, fits_setWidth, fits_bit, fits_pair, half_lt, bit_lt_two, BitVec.reduceToNat]
  simp [hw, ordOf, ord_eta]

theorem vins (h : Hdr) (t : LTy) (d : VReg) (a : XReg) (lane : BitVec 4) : Statement (.vins h t d a lane) := by
  intro x hw he
  simp only [encode, Option.some.injEq] at he
  subst he
  simp only [wellFormed, Bool.and_eq_true] at hw
  rw [decode_gWord _ _ _ _ (by decide) (by decide) (by decide)]
  simp (disch := omega) only [decodeOps, decodeClass6, GOps.zero, gops_split_join, extract_lo, extract_hi, extract_all,
    extract_set_lo, set_set, fits_setWidth, fits_bit, fits_pair, half_lt, bit_lt_two, BitVec.reduceToNat]
  simp [hw, ordOf, ord_eta]

theorem vext (h : Hdr) (t : LTy) (d : XReg) (a : VReg) (lane : BitVec 4) : Statement (.vext h t d a lane) := by
  intro x hw he
  simp only [encode, Option.some.injEq] at he
  subst he
  simp only [wellFormed, Bool.and_eq_true] at hw
  rw [decode_gWord _ _ _ _ (by decide) (by decide) (by decide)]
  simp (disch := omega) only [decodeOps, decodeClass6, GOps.zero, gops_split_join, extract_lo, extract_hi, extract_all,
    extract_set_lo, set_set, fits_setWidth, fits_bit, fits_pair, half_lt, bit_lt_two, BitVec.reduceToNat]
  simp [hw, ordOf, ord_eta]

theorem vmovx (h : Hdr) (toX : Bool) (v : VReg) (x : XReg) : Statement (.vmovx h toX v x) := by
  cases toX
  all_goals
    intro x hw he
    simp only [encode, Option.some.injEq] at he
    subst he
    simp only [wellFormed, Bool.and_eq_true] at hw
    rw [decode_gWord _ _ _ _ (by decide) (by decide) (by decide)]
    simp (disch := omega) only [decodeOps, decodeClass6, GOps.zero, gops_split_join, extract_lo, extract_hi, extract_all, extract_set_lo, set_set, fits_setWidth, fits_bit, fits_pair, half_lt, bit_lt_two, BitVec.reduceToNat]
    simp [hw, ordOf, ord_eta, num_mod_four]

theorem cvt (h : Hdr) (dst src : CTy) (rm : Rnd) (half : Bool) (d a : VReg) : Statement (.cvt h dst src rm half d a) := by
  intro x hw he
  simp only [encode, Option.some.injEq] at he
  subst he
  simp only [wellFormed, Bool.and_eq_true] at hw
  rw [decode_gWord _ _ _ _ (by decide) (by decide) (by decide)]
  simp (disch := omega) only [decodeOps, decodeClass7, GOps.zero, gops_split_join, extract_lo, extract_hi, extract_all,
    extract_set_lo, set_set, fits_setWidth, fits_bit, fits_pair, half_lt, bit_lt_two, BitVec.reduceToNat]
  simp [hw, ordOf, ord_eta]

theorem cvti (h : Hdr) (dst : ITy) (src : CTy) (rm : Rnd) (half : Bool) (d a : VReg) : Statement (.cvti h dst src rm half d a) := by
  intro x hw he
  simp only [encode, Option.some.injEq] at he
  subst he
  simp only [wellFormed, Bool.and_eq_true] at hw
  rw [decode_gWord _ _ _ _ (by decide) (by decide) (by decide)]
  simp (disch := omega) only [decodeOps, decodeClass7, GOps.zero, gops_split_join, extract_lo, extract_hi, extract_all,
    extract_set_lo, set_set, fits_setWidth, fits_bit, fits_pair, half_lt, bit_lt_two, BitVec.reduceToNat]
  simp [hw, ordOf, ord_eta]

theorem cvtf (h : Hdr) (dst : CTy) (src : ITy) (rm : Rnd) (half : Bool) (d a : VReg) : Statement (.cvtf h dst src rm half d a) := by
  intro x hw he
  simp only [encode, Option.some.injEq] at he
  subst he
  simp only [wellFormed, Bool.and_eq_true] at hw
  rw [decode_gWord _ _ _ _ (by decide) (by decide) (by decide)]
  simp (disch := omega) only [decodeOps, decodeClass7, GOps.zero, gops_split_join, extract_lo, extract_hi, extract_all,
    extract_set_lo, set_set, fits_setWidth, fits_bit, fits_pair, half_lt, bit_lt_two, BitVec.reduceToNat]
  simp [hw, ordOf, ord_eta]

theorem dec8 (h : Hdr) (dst : CTy) (rm : Rnd) (grp : BitVec 2) (d a : VReg) (tblB : Bool) : Statement (.dec8 h dst rm grp d a tblB) := by
  intro x hw he
  simp only [encode, Option.some.injEq] at he
  subst he
  simp only [wellFormed, Bool.and_eq_true] at hw
  rw [decode_gWord _ _ _ _ (by decide) (by decide) (by decide)]
  simp (disch := omega) only [decodeOps, decodeClass7, GOps.zero, gops_split_join, extract_lo, extract_hi, extract_all,
    extract_set_lo, set_set, fits_setWidth, fits_bit, fits_pair, half_lt, bit_lt_two, BitVec.reduceToNat]
  simp [hw, ordOf, ord_eta]

theorem enc8 (h : Hdr) (src : CTy) (grp : BitVec 2) (d a : VReg) (tblB : Bool) : Statement (.enc8 h src grp d a tblB) := by
  intro x hw he
  simp only [encode, Option.some.injEq] at he
  subst he
  simp only [wellFormed, Bool.and_eq_true] at hw
  rw [decode_gWord _ _ _ _ (by decide) (by decide) (by decide)]
  simp (disch := omega) only [decodeOps, decodeClass7, GOps.zero, gops_split_join, extract_lo, extract_hi, extract_all,
    extract_set_lo, set_set, fits_setWidth, fits_bit, fits_pair, half_lt, bit_lt_two, BitVec.reduceToNat]
  simp [hw, ordOf, ord_eta]

theorem pack (h : Hdr) (byte hi : Bool) (d a b : VReg) : Statement (.pack h byte hi d a b) := by
  intro x hw he
  simp only [encode, Option.some.injEq] at he
  subst he
  simp only [wellFormed, Bool.and_eq_true] at hw
  rw [decode_gWord _ _ _ _ (by decide) (by decide) (by decide)]
  simp (disch := omega) only [decodeOps, decodeClass7, GOps.zero, gops_split_join, extract_lo, extract_hi, extract_all,
    extract_set_lo, set_set, fits_setWidth, fits_bit, fits_pair, half_lt, bit_lt_two, BitVec.reduceToNat]
  simp [hw, ordOf, ord_eta]

theorem unpack (h : Hdr) (byte hi x half : Bool) (d a : VReg) : Statement (.unpack h byte hi x half d a) := by
  intro x hw he
  simp only [encode, Option.some.injEq] at he
  subst he
  simp only [wellFormed, Bool.and_eq_true] at hw
  rw [decode_gWord _ _ _ _ (by decide) (by decide) (by decide)]
  simp (disch := omega) only [decodeOps, decodeClass7, GOps.zero, gops_split_join, extract_lo, extract_hi, extract_all,
    extract_set_lo, set_set, fits_setWidth, fits_bit, fits_pair, half_lt, bit_lt_two, BitVec.reduceToNat]
  simp [hw, ordOf, ord_eta]

theorem tblld (h : Hdr) (o : Ord) (src : TblSrc) (tblB : Bool) (a : XReg) (off : BitVec 32) : Statement (.tblld h o src tblB a off) := by
  intro x hw he
  simp only [encode, Option.some.injEq] at he
  subst he
  simp only [wellFormed, Bool.and_eq_true] at hw
  rw [decode_mWord _ _ _ _ (by decide) (by decide) (by decide)]
  simp (disch := omega) only [decodeOps, decodeClass7, MOps.ofOrd, mops_split_join, extract_lo, extract_hi, extract_all, extract_set_lo, set_set, fits_setWidth, fits_bit, fits_pair, half_lt, bit_lt_two, BitVec.reduceToNat]
  have hd : (src == .mem || (o == Ord.zero && a == 0 && off == 0#32)) = true := hw.2
  simp [hw, ordOf, ord_eta, hd]

theorem ld (h : Hdr) (o : Ord) (sz : Size) (ext : Bool) (d a : XReg) (off : BitVec 32) : Statement (.ld h o sz ext d a off) := by
  intro x hw he
  simp only [encode, Option.some.injEq] at he
  subst he
  simp only [wellFormed, Bool.and_eq_true] at hw
  rw [decode_mWord _ _ _ _ (by decide) (by decide) (by decide)]
  simp (disch := omega) only [decodeOps, decodeClass8, MOps.ofOrd, mops_split_join, extract_lo, extract_hi, extract_all, extract_set_lo, set_set, fits_setWidth, fits_bit, fits_pair, half_lt, bit_lt_two, BitVec.reduceToNat]
  simp [hw, ordOf, ord_eta]

theorem st (h : Hdr) (o : Ord) (sz : Size) (a b : XReg) (off : BitVec 32) : Statement (.st h o sz a b off) := by
  intro x hw he
  simp only [encode, Option.some.injEq] at he
  subst he
  simp only [wellFormed, Bool.and_eq_true] at hw
  rw [decode_mWord _ _ _ _ (by decide) (by decide) (by decide)]
  simp (disch := omega) only [decodeOps, decodeClass8, MOps.ofOrd, mops_split_join, extract_lo, extract_hi, extract_all, extract_set_lo, set_set, fits_setWidth, fits_bit, fits_pair, half_lt, bit_lt_two, BitVec.reduceToNat]
  simp [hw, ordOf, ord_eta]

theorem ldv (h : Hdr) (o : Ord) (d : VReg) (a : XReg) (off : BitVec 32) : Statement (.ldv h o d a off) := by
  intro x hw he
  simp only [encode, Option.some.injEq] at he
  subst he
  simp only [wellFormed, Bool.and_eq_true] at hw
  rw [decode_mWord _ _ _ _ (by decide) (by decide) (by decide)]
  simp (disch := omega) only [decodeOps, decodeClass8, MOps.ofOrd, mops_split_join, extract_lo, extract_hi, extract_all, extract_set_lo, set_set, fits_setWidth, fits_bit, fits_pair, half_lt, bit_lt_two, BitVec.reduceToNat]
  simp [hw, ordOf, ord_eta]

theorem stv (h : Hdr) (o : Ord) (a : XReg) (b : VReg) (off : BitVec 32) : Statement (.stv h o a b off) := by
  intro x hw he
  simp only [encode, Option.some.injEq] at he
  subst he
  simp only [wellFormed, Bool.and_eq_true] at hw
  rw [decode_mWord _ _ _ _ (by decide) (by decide) (by decide)]
  simp (disch := omega) only [decodeOps, decodeClass8, MOps.ofOrd, mops_split_join, extract_lo, extract_hi, extract_all, extract_set_lo, set_set, fits_setWidth, fits_bit, fits_pair, half_lt, bit_lt_two, BitVec.reduceToNat]
  simp [hw, ordOf, ord_eta]

theorem ldro (h : Hdr) (o : Ord) (sz : Size) (ext : Bool) (d a : XReg) (off : BitVec 32) : Statement (.ldro h o sz ext d a off) := by
  intro x hw he
  simp only [encode, Option.some.injEq] at he
  subst he
  simp only [wellFormed, Bool.and_eq_true] at hw
  rw [decode_mWord _ _ _ _ (by decide) (by decide) (by decide)]
  obtain ⟨⟨h1, h2⟩, h3⟩ := hw
  have hd : (num d).toNat = d.val := num_toNat d (by omega)
  have ha : (num a).toNat = a.val := num_toNat a (by omega)
  cases sz <;> simp_all [decodeOps, decodeClass8, MOps.ofOrd, ordOf, ord_eta, reg, Size.code, Size.ofCode]

theorem ldg (h : Hdr) (o : Ord) (word sc : Bool) (d : VReg) (a : XReg) (b : VReg) (off : BitVec 32) : Statement (.ldg h o word sc d a b off) := by
  cases word
  all_goals
    intro x hw he
    simp only [encode, Option.some.injEq] at he
    subst he
    simp only [wellFormed, Bool.and_eq_true] at hw
    rw [decode_mWord _ _ _ _ (by decide) (by decide) (by decide)]
    simp (disch := omega) only [decodeOps, decodeClass8, MOps.ofOrd, mops_split_join, extract_lo, extract_hi, extract_all, extract_set_lo, set_set, fits_setWidth, fits_bit, fits_pair, half_lt, bit_lt_two, BitVec.reduceToNat]
    simp [hw, ordOf, ord_eta]

theorem sts (h : Hdr) (o : Ord) (word sc : Bool) (d : VReg) (a : XReg) (b : VReg) (off : BitVec 32) : Statement (.sts h o word sc d a b off) := by
  cases word
  all_goals
    intro x hw he
    simp only [encode, Option.some.injEq] at he
    subst he
    simp only [wellFormed, Bool.and_eq_true] at hw
    rw [decode_mWord _ _ _ _ (by decide) (by decide) (by decide)]
    simp (disch := omega) only [decodeOps, decodeClass8, MOps.ofOrd, mops_split_join, extract_lo, extract_hi, extract_all, extract_set_lo, set_set, fits_setWidth, fits_bit, fits_pair, half_lt, bit_lt_two, BitVec.reduceToNat]
    simp [hw, ordOf, ord_eta]

theorem pfx (h : Hdr) (t : PfxTarget) (n : BitVec 4) (a : XReg) (off : BitVec 32) : Statement (.pfx h t n a off) := by
  intro x hw he
  simp only [encode, Option.some.injEq] at he
  subst he
  simp only [wellFormed, Bool.and_eq_true] at hw
  rw [decode_mWord _ _ _ _ (by decide) (by decide) (by decide)]
  simp (disch := omega) only [decodeOps, decodeClass8, MOps.ofOrd, mops_split_join, extract_lo, extract_hi, extract_all, extract_set_lo, set_set, fits_setWidth, fits_bit, fits_pair, half_lt, bit_lt_two, BitVec.reduceToNat]
  simp [hw, ordOf, ord_eta, Ord.zero, Sync.code, Scope.code]

theorem amo (h : Hdr) (o : Ord) (op : AmoOp) (dword ext : Bool) (d a b : XReg) (off : BitVec 32) : Statement (.amo h o op dword ext d a b off) := by
  cases dword
  all_goals
    intro x hw he
    simp only [encode, Option.some.injEq] at he
    subst he
    simp only [wellFormed, Bool.and_eq_true] at hw
    rw [decode_mWord _ _ _ _ (by decide) (by decide) (by decide)]
    simp (disch := omega) only [decodeOps, decodeClass9, MOps.ofOrd, mops_split_join, extract_lo, extract_hi, extract_all, extract_set_lo, set_set, fits_setWidth, fits_bit, fits_pair, half_lt, bit_lt_two, BitVec.reduceToNat]
    simp only [Bool.false_and, Bool.true_and, Bool.not_false] at hw
    simp [hw, ordOf, ord_eta, hw.2]

theorem cas (h : Hdr) (o : Ord) (dword ext : Bool) (d a b : XReg) (off : BitVec 32) : Statement (.cas h o dword ext d a b off) := by
  cases dword
  all_goals
    intro x hw he
    simp only [encode, Option.some.injEq] at he
    subst he
    simp only [wellFormed, Bool.and_eq_true] at hw
    rw [decode_mWord _ _ _ _ (by decide) (by decide) (by decide)]
    simp (disch := omega) only [decodeOps, decodeClass9, MOps.ofOrd, mops_split_join, extract_lo, extract_hi, extract_all, extract_set_lo, set_set, fits_setWidth, fits_bit, fits_pair, half_lt, bit_lt_two, BitVec.reduceToNat]
    simp only [Bool.false_and, Bool.true_and, Bool.not_false] at hw
    simp [hw, ordOf, ord_eta, hw.2]

theorem wbr (h : Hdr) (o : Ord) (d a b : XReg) (off : BitVec 32) : Statement (.wbr h o d a b off) := by
  intro x hw he
  simp only [encode, Option.some.injEq] at he
  subst he
  simp only [wellFormed, Bool.and_eq_true] at hw
  rw [decode_mWord _ _ _ _ (by decide) (by decide) (by decide)]
  simp (disch := omega) only [decodeOps, decodeClass9, MOps.ofOrd, mops_split_join, extract_lo, extract_hi, extract_all, extract_set_lo, set_set, fits_setWidth, fits_bit, fits_pair, half_lt, bit_lt_two, BitVec.reduceToNat]
  simp [hw, ordOf, ord_eta]

theorem invr (h : Hdr) (o : Ord) (d a b : XReg) (off : BitVec 32) : Statement (.invr h o d a b off) := by
  intro x hw he
  simp only [encode, Option.some.injEq] at he
  subst he
  simp only [wellFormed, Bool.and_eq_true] at hw
  rw [decode_mWord _ _ _ _ (by decide) (by decide) (by decide)]
  simp (disch := omega) only [decodeOps, decodeClass9, MOps.ofOrd, mops_split_join, extract_lo, extract_hi, extract_all, extract_set_lo, set_set, fits_setWidth, fits_bit, fits_pair, half_lt, bit_lt_two, BitVec.reduceToNat]
  simp [hw, ordOf, ord_eta]

theorem invrRo (h : Hdr) (o : Ord) (d a b : XReg) (off : BitVec 32) : Statement (.invrRo h o d a b off) := by
  intro x hw he
  simp only [encode, Option.some.injEq] at he
  subst he
  simp only [wellFormed, Bool.and_eq_true] at hw
  rw [decode_mWord _ _ _ _ (by decide) (by decide) (by decide)]
  simp (disch := omega) only [decodeOps, decodeClass9, MOps.ofOrd, mops_split_join, extract_lo, extract_hi, extract_all, extract_set_lo, set_set, fits_setWidth, fits_bit, fits_pair, half_lt, bit_lt_two, BitVec.reduceToNat]
  simp [hw, ordOf, ord_eta]

theorem wbinvr (h : Hdr) (o : Ord) (d a b : XReg) (off : BitVec 32) : Statement (.wbinvr h o d a b off) := by
  intro x hw he
  simp only [encode, Option.some.injEq] at he
  subst he
  simp only [wellFormed, Bool.and_eq_true] at hw
  rw [decode_mWord _ _ _ _ (by decide) (by decide) (by decide)]
  simp (disch := omega) only [decodeOps, decodeClass9, MOps.ofOrd, mops_split_join, extract_lo, extract_hi, extract_all, extract_set_lo, set_set, fits_setWidth, fits_bit, fits_pair, half_lt, bit_lt_two, BitVec.reduceToNat]
  simp [hw, ordOf, ord_eta]

theorem zeror (h : Hdr) (o : Ord) (d a b : XReg) (off : BitVec 32) : Statement (.zeror h o d a b off) := by
  intro x hw he
  simp only [encode, Option.some.injEq] at he
  subst he
  simp only [wellFormed, Bool.and_eq_true] at hw
  rw [decode_mWord _ _ _ _ (by decide) (by decide) (by decide)]
  simp (disch := omega) only [decodeOps, decodeClass9, MOps.ofOrd, mops_split_join, extract_lo, extract_hi, extract_all, extract_set_lo, set_set, fits_setWidth, fits_bit, fits_pair, half_lt, bit_lt_two, BitVec.reduceToNat]
  simp [hw, ordOf, ord_eta]

theorem lockl (h : Hdr) (o : Ord) (n : BitVec 6) (d a : XReg) (off : BitVec 32) : Statement (.lockl h o n d a off) := by
  intro x hw he
  simp only [encode, Option.some.injEq] at he
  subst he
  simp only [wellFormed, Bool.and_eq_true] at hw
  rw [decode_mWord _ _ _ _ (by decide) (by decide) (by decide)]
  simp (disch := omega) only [decodeOps, decodeClass9, MOps.ofOrd, mops_split_join, extract_lo, extract_hi, extract_all, extract_set_lo, set_set, fits_setWidth, fits_bit, fits_pair, half_lt, bit_lt_two, BitVec.reduceToNat]
  simp [hw, ordOf, ord_eta]

theorem unlockl (h : Hdr) (o : Ord) (n : BitVec 6) (d a : XReg) (off : BitVec 32) : Statement (.unlockl h o n d a off) := by
  intro x hw he
  simp only [encode, Option.some.injEq] at he
  subst he
  simp only [wellFormed, Bool.and_eq_true] at hw
  rw [decode_mWord _ _ _ _ (by decide) (by decide) (by decide)]
  simp (disch := omega) only [decodeOps, decodeClass9, MOps.ofOrd, mops_split_join, extract_lo, extract_hi, extract_all, extract_set_lo, set_set, fits_setWidth, fits_bit, fits_pair, half_lt, bit_lt_two, BitVec.reduceToNat]
  simp [hw, ordOf, ord_eta]

theorem cpy (h : Hdr) (o : Ord) (rtn : BitVec 4) (d a b : XReg) (off : BitVec 32) : Statement (.cpy h o rtn d a b off) := by
  intro x hw he
  simp only [encode, Option.some.injEq] at he
  subst he
  simp only [wellFormed, Bool.and_eq_true] at hw
  rw [decode_mWord _ _ _ _ (by decide) (by decide) (by decide)]
  simp (disch := omega) only [decodeOps, decodeClassA, MOps.ofOrd, mops_split_join, extract_lo, extract_hi, extract_all, extract_set_lo, set_set, fits_setWidth, fits_bit, fits_pair, half_lt, bit_lt_two, BitVec.reduceToNat]
  simp [hw, ordOf, ord_eta]

theorem cpyi (h : Hdr) (o : Ord) (rtn : BitVec 4) (d a b : XReg) (off : BitVec 32) : Statement (.cpyi h o rtn d a b off) := by
  intro x hw he
  simp only [encode, Option.some.injEq] at he
  subst he
  simp only [wellFormed, Bool.and_eq_true] at hw
  rw [decode_mWord _ _ _ _ (by decide) (by decide) (by decide)]
  simp (disch := omega) only [decodeOps, decodeClassA, MOps.ofOrd, mops_split_join, extract_lo, extract_hi, extract_all, extract_set_lo, set_set, fits_setWidth, fits_bit, fits_pair, half_lt, bit_lt_two, BitVec.reduceToNat]
  simp [hw, ordOf, ord_eta]

theorem gather (h : Hdr) (o : Ord) (sz : Size) (ix sc : Bool) (d a : XReg) (b : VReg) (off : BitVec 32) : Statement (.gather h o sz ix sc d a b off) := by
  intro x hw he
  simp only [encode, Option.some.injEq] at he
  subst he
  simp only [wellFormed, Bool.and_eq_true] at hw
  rw [decode_mWord _ _ _ _ (by decide) (by decide) (by decide)]
  simp (disch := omega) only [decodeOps, decodeClassA, MOps.ofOrd, mops_split_join, extract_lo, extract_hi, extract_all, extract_set_lo, set_set, fits_setWidth, fits_bit, fits_pair, half_lt, bit_lt_two, BitVec.reduceToNat]
  simp [hw, ordOf, ord_eta]

theorem scatter (h : Hdr) (o : Ord) (sz : Size) (ix sc : Bool) (d a : XReg) (b : VReg) (off : BitVec 32) : Statement (.scatter h o sz ix sc d a b off) := by
  intro x hw he
  simp only [encode, Option.some.injEq] at he
  subst he
  simp only [wellFormed, Bool.and_eq_true] at hw
  rw [decode_mWord _ _ _ _ (by decide) (by decide) (by decide)]
  simp (disch := omega) only [decodeOps, decodeClassA, MOps.ofOrd, mops_split_join, extract_lo, extract_hi, extract_all, extract_set_lo, set_set, fits_setWidth, fits_bit, fits_pair, half_lt, bit_lt_two, BitVec.reduceToNat]
  simp [hw, ordOf, ord_eta]

theorem halo (h : Hdr) (o : Ord) (dirs : BitVec 4) (a b : XReg) (off : BitVec 32) : Statement (.halo h o dirs a b off) := by
  intro x hw he
  simp only [encode, Option.some.injEq] at he
  subst he
  simp only [wellFormed, Bool.and_eq_true] at hw
  rw [decode_mWord _ _ _ _ (by decide) (by decide) (by decide)]
  simp (disch := omega) only [decodeOps, decodeClassA, MOps.ofOrd, mops_split_join, extract_lo, extract_hi, extract_all, extract_set_lo, set_set, fits_setWidth, fits_bit, fits_pair, half_lt, bit_lt_two, BitVec.reduceToNat]
  have hd : (dirs != 0#4) = true := hw.2
  simp [hw, ordOf, ord_eta, hd]

theorem cpyq (h : Hdr) (o : Ord) (d b : XReg) : Statement (.cpyq h o d b) := by
  intro x hw he
  simp only [encode, Option.some.injEq] at he
  subst he
  simp only [wellFormed, Bool.and_eq_true] at hw
  rw [decode_mWord _ _ _ _ (by decide) (by decide) (by decide)]
  simp (disch := omega) only [decodeOps, decodeClassA, MOps.ofOrd, mops_split_join, extract_lo, extract_hi, extract_all, extract_set_lo, set_set, fits_setWidth, fits_bit, fits_pair, half_lt, bit_lt_two, BitVec.reduceToNat]
  simp [hw, ordOf, ord_eta]

theorem send (h : Hdr) (o : Ord) (d a b : XReg) (c : CtrReg) (toff : BitVec 16) : Statement (.send h o d a b c toff) := by
  intro x hw he
  simp only [encode, Option.some.injEq] at he
  subst he
  simp only [wellFormed, Bool.and_eq_true] at hw
  rw [decode_mWord _ _ _ _ (by decide) (by decide) (by decide)]
  simp (disch := omega) only [decodeOps, decodeClassB, MOps.ofOrd, mops_split_join, extract_lo, extract_hi, extract_all, extract_set_lo, set_set, fits_setWidth, fits_bit, fits_pair, half_lt, bit_lt_two, BitVec.reduceToNat]
  simp [hw, ordOf, ord_eta]

theorem sendi (h : Hdr) (o : Ord) (sz : Size) (a b : XReg) (c : CtrReg) (toff : BitVec 16) : Statement (.sendi h o sz a b c toff) := by
  intro x hw he
  simp only [encode, Option.some.injEq] at he
  subst he
  simp only [wellFormed, Bool.and_eq_true] at hw
  rw [decode_mWord _ _ _ _ (by decide) (by decide) (by decide)]
  simp (disch := omega) only [decodeOps, decodeClassB, MOps.ofOrd, mops_split_join, extract_lo, extract_hi, extract_all, extract_set_lo, set_set, fits_setWidth, fits_bit, fits_pair, half_lt, bit_lt_two, BitVec.reduceToNat]
  simp [hw, ordOf, ord_eta]

theorem cntrd (h : Hdr) (o : Ord) (d : XReg) (c : CtrReg) : Statement (.cntrd h o d c) := by
  intro x hw he
  simp only [encode, Option.some.injEq] at he
  subst he
  simp only [wellFormed, Bool.and_eq_true] at hw
  rw [decode_mWord _ _ _ _ (by decide) (by decide) (by decide)]
  simp (disch := omega) only [decodeOps, decodeClassB, MOps.ofOrd, mops_split_join, extract_lo, extract_hi, extract_all, extract_set_lo, set_set, fits_setWidth, fits_bit, fits_pair, half_lt, bit_lt_two, BitVec.reduceToNat]
  simp [hw, ordOf, ord_eta]

theorem cntadd (h : Hdr) (o : Ord) (self : Bool) (a b : XReg) (c : CtrReg) (k : BitVec 32) : Statement (.cntadd h o self a b c k) := by
  intro x hw he
  simp only [encode, Option.some.injEq] at he
  subst he
  simp only [wellFormed, Bool.and_eq_true] at hw
  rw [decode_mWord _ _ _ _ (by decide) (by decide) (by decide)]
  simp (disch := omega) only [decodeOps, decodeClassB, MOps.ofOrd, mops_split_join, extract_lo, extract_hi, extract_all, extract_set_lo, set_set, fits_setWidth, fits_bit, fits_pair, half_lt, bit_lt_two, BitVec.reduceToNat]
  simp [hw, ordOf, ord_eta]

theorem cntset (h : Hdr) (o : Ord) (b : XReg) (c : CtrReg) : Statement (.cntset h o b c) := by
  intro x hw he
  simp only [encode, Option.some.injEq] at he
  subst he
  simp only [wellFormed, Bool.and_eq_true] at hw
  rw [decode_mWord _ _ _ _ (by decide) (by decide) (by decide)]
  simp (disch := omega) only [decodeOps, decodeClassB, MOps.ofOrd, mops_split_join, extract_lo, extract_hi, extract_all, extract_set_lo, set_set, fits_setWidth, fits_bit, fits_pair, half_lt, bit_lt_two, BitVec.reduceToNat]
  simp [hw, ordOf, ord_eta]

theorem wtset (h : Hdr) (d : XReg) (e : BitVec 4) (c : CtrReg) (a b : XReg) : Statement (.wtset h d e c a b) := by
  intro x hw he
  simp only [encode, Option.some.injEq] at he
  subst he
  simp only [wellFormed, Bool.and_eq_true] at hw
  rw [decode_gWord _ _ _ _ (by decide) (by decide) (by decide)]
  simp (disch := omega) only [decodeOps, decodeClassB, GOps.zero, gops_split_join, extract_lo, extract_hi, extract_all,
    extract_set_lo, set_set, fits_setWidth, fits_bit, fits_pair, half_lt, bit_lt_two, BitVec.reduceToNat]
  simp [hw, ordOf, ord_eta]

theorem wtsetS (h : Hdr) (d : XReg) (e : BitVec 4) (c : CtrReg) (a b : XReg) : Statement (.wtsetS h d e c a b) := by
  intro x hw he
  simp only [encode, Option.some.injEq] at he
  subst he
  simp only [wellFormed, Bool.and_eq_true] at hw
  rw [decode_gWord _ _ _ _ (by decide) (by decide) (by decide)]
  simp (disch := omega) only [decodeOps, decodeClassB, GOps.zero, gops_split_join, extract_lo, extract_hi, extract_all,
    extract_set_lo, set_set, fits_setWidth, fits_bit, fits_pair, half_lt, bit_lt_two, BitVec.reduceToNat]
  simp [hw, ordOf, ord_eta]

theorem wtsetL (h : Hdr) (d : XReg) (e : BitVec 4) (c : CtrReg) (a b : XReg) : Statement (.wtsetL h d e c a b) := by
  intro x hw he
  simp only [encode, Option.some.injEq] at he
  subst he
  simp only [wellFormed, Bool.and_eq_true] at hw
  rw [decode_gWord _ _ _ _ (by decide) (by decide) (by decide)]
  simp (disch := omega) only [decodeOps, decodeClassB, GOps.zero, gops_split_join, extract_lo, extract_hi, extract_all,
    extract_set_lo, set_set, fits_setWidth, fits_bit, fits_pair, half_lt, bit_lt_two, BitVec.reduceToNat]
  simp [hw, ordOf, ord_eta]

theorem wtclr (h : Hdr) (d : XReg) (e : BitVec 4) : Statement (.wtclr h d e) := by
  intro x hw he
  simp only [encode, Option.some.injEq] at he
  subst he
  simp only [wellFormed, Bool.and_eq_true] at hw
  rw [decode_gWord _ _ _ _ (by decide) (by decide) (by decide)]
  simp (disch := omega) only [decodeOps, decodeClassB, GOps.zero, gops_split_join, extract_lo, extract_hi, extract_all,
    extract_set_lo, set_set, fits_setWidth, fits_bit, fits_pair, half_lt, bit_lt_two, BitVec.reduceToNat]
  simp [hw, ordOf, ord_eta]

theorem arm (h : Hdr) (o : Ord) (d a : XReg) (off : BitVec 32) : Statement (.arm h o d a off) := by
  intro x hw he
  simp only [encode, Option.some.injEq] at he
  subst he
  simp only [wellFormed, Bool.and_eq_true] at hw
  rw [decode_mWord _ _ _ _ (by decide) (by decide) (by decide)]
  simp (disch := omega) only [decodeOps, decodeClassB, MOps.ofOrd, mops_split_join, extract_lo, extract_hi, extract_all, extract_set_lo, set_set, fits_setWidth, fits_bit, fits_pair, half_lt, bit_lt_two, BitVec.reduceToNat]
  simp [hw, ordOf, ord_eta]

theorem disarm (h : Hdr) (d : XReg) (i : BitVec 5) : Statement (.disarm h d i) := by
  intro x hw he
  simp only [encode, Option.some.injEq] at he
  subst he
  simp only [wellFormed, Bool.and_eq_true] at hw
  rw [decode_gWord _ _ _ _ (by decide) (by decide) (by decide)]
  simp (disch := omega) only [decodeOps, decodeClassB, GOps.zero, gops_split_join, extract_lo, extract_hi, extract_all,
    extract_set_lo, set_set, fits_setWidth, fits_bit, fits_pair, half_lt, bit_lt_two, BitVec.reduceToNat]
  simp [hw, ordOf, ord_eta]

theorem launch (h : Hdr) (o : Ord) (d a : XReg) (off : BitVec 32) : Statement (.launch h o d a off) := by
  intro x hw he
  simp only [encode, Option.some.injEq] at he
  subst he
  simp only [wellFormed, Bool.and_eq_true] at hw
  rw [decode_mWord _ _ _ _ (by decide) (by decide) (by decide)]
  simp (disch := omega) only [decodeOps, decodeClassB, MOps.ofOrd, mops_split_join, extract_lo, extract_hi, extract_all, extract_set_lo, set_set, fits_setWidth, fits_bit, fits_pair, half_lt, bit_lt_two, BitVec.reduceToNat]
  simp [hw, ordOf, ord_eta]

theorem exch (h : Hdr) (o : Ord) (d a : XReg) (off : BitVec 32) : Statement (.exch h o d a off) := by
  intro x hw he
  simp only [encode, Option.some.injEq] at he
  subst he
  simp only [wellFormed, Bool.and_eq_true] at hw
  rw [decode_mWord _ _ _ _ (by decide) (by decide) (by decide)]
  simp (disch := omega) only [decodeOps, decodeClassB, MOps.ofOrd, mops_split_join, extract_lo, extract_hi, extract_all, extract_set_lo, set_set, fits_setWidth, fits_bit, fits_pair, half_lt, bit_lt_two, BitVec.reduceToNat]
  simp [hw, ordOf, ord_eta]

theorem vote (h : Hdr) (a : XReg) : Statement (.vote h a) := by
  intro x hw he
  simp only [encode, Option.some.injEq] at he
  subst he
  simp only [wellFormed, Bool.and_eq_true] at hw
  rw [decode_gWord _ _ _ _ (by decide) (by decide) (by decide)]
  simp (disch := omega) only [decodeOps, decodeClassB, GOps.zero, gops_split_join, extract_lo, extract_hi, extract_all,
    extract_set_lo, set_set, fits_setWidth, fits_bit, fits_pair, half_lt, bit_lt_two, BitVec.reduceToNat]
  simp [hw, ordOf, ord_eta]

theorem ttsel (h : Hdr) (a : XReg) : Statement (.ttsel h a) := by
  intro x hw he
  simp only [encode, Option.some.injEq] at he
  subst he
  simp only [wellFormed, Bool.and_eq_true] at hw
  rw [decode_gWord _ _ _ _ (by decide) (by decide) (by decide)]
  simp (disch := omega) only [decodeOps, decodeClassB, GOps.zero, gops_split_join, extract_lo, extract_hi, extract_all,
    extract_set_lo, set_set, fits_setWidth, fits_bit, fits_pair, half_lt, bit_lt_two, BitVec.reduceToNat]
  simp [hw, ordOf, ord_eta]

theorem nsend (h : Hdr) (o : Ord) (a : XReg) (off : BitVec 32) : Statement (.nsend h o a off) := by
  intro x hw he
  simp only [encode, Option.some.injEq] at he
  subst he
  simp only [wellFormed, Bool.and_eq_true] at hw
  rw [decode_mWord _ _ _ _ (by decide) (by decide) (by decide)]
  simp (disch := omega) only [decodeOps, decodeClassB, MOps.ofOrd, mops_split_join, extract_lo, extract_hi, extract_all, extract_set_lo, set_set, fits_setWidth, fits_bit, fits_pair, half_lt, bit_lt_two, BitVec.reduceToNat]
  simp [hw, ordOf, ord_eta]

theorem mfmt (h : Hdr) (ta tb : MTy) : Statement (.mfmt h ta tb) := by
  intro x hw he
  simp only [encode, Option.some.injEq] at he
  subst he
  simp only [wellFormed, Bool.and_eq_true] at hw
  rw [decode_gWord _ _ _ _ (by decide) (by decide) (by decide)]
  simp (disch := omega) only [decodeOps, decodeClassC, GOps.zero, gops_split_join, extract_lo, extract_hi, extract_all,
    extract_set_lo, set_set, fits_setWidth, fits_bit, fits_pair, half_lt, bit_lt_two, BitVec.reduceToNat]
  simp [hw, ordOf, ord_eta]

theorem mtbl (h : Hdr) (o : Ord) (src : MtblSrc) (tblB : Bool) (a : XReg) (off : BitVec 32) : Statement (.mtbl h o src tblB a off) := by
  intro x hw he
  simp only [encode, Option.some.injEq] at he
  subst he
  simp only [wellFormed, Bool.and_eq_true] at hw
  rw [decode_mWord _ _ _ _ (by decide) (by decide) (by decide)]
  simp (disch := omega) only [decodeOps, decodeClassC, MOps.ofOrd, mops_split_join, extract_lo, extract_hi, extract_all, extract_set_lo, set_set, fits_setWidth, fits_bit, fits_pair, half_lt, bit_lt_two, BitVec.reduceToNat]
  have hd : (src == .mem || (o == Ord.zero && a == 0 && off == 0#32)) = true := hw.2
  simp [hw, ordOf, ord_eta, hd]

theorem mring (h : Hdr) (a b : XReg) : Statement (.mring h a b) := by
  intro x hw he
  simp only [encode, Option.some.injEq] at he
  subst he
  simp only [wellFormed, Bool.and_eq_true] at hw
  rw [decode_gWord _ _ _ _ (by decide) (by decide) (by decide)]
  simp (disch := omega) only [decodeOps, decodeClassC, GOps.zero, gops_split_join, extract_lo, extract_hi, extract_all,
    extract_set_lo, set_set, fits_setWidth, fits_bit, fits_pair, half_lt, bit_lt_two, BitVec.reduceToNat]
  simp [hw, ordOf, ord_eta]

theorem mlda (h : Hdr) (o : Ord) (a b : XReg) (off : BitVec 32) : Statement (.mlda h o a b off) := by
  intro x hw he
  simp only [encode, Option.some.injEq] at he
  subst he
  simp only [wellFormed, Bool.and_eq_true] at hw
  rw [decode_mWord _ _ _ _ (by decide) (by decide) (by decide)]
  simp (disch := omega) only [decodeOps, decodeClassC, MOps.ofOrd, mops_split_join, extract_lo, extract_hi, extract_all, extract_set_lo, set_set, fits_setWidth, fits_bit, fits_pair, half_lt, bit_lt_two, BitVec.reduceToNat]
  simp [hw, ordOf, ord_eta]

theorem mldb (h : Hdr) (o : Ord) (a b : XReg) (off : BitVec 32) : Statement (.mldb h o a b off) := by
  intro x hw he
  simp only [encode, Option.some.injEq] at he
  subst he
  simp only [wellFormed, Bool.and_eq_true] at hw
  rw [decode_mWord _ _ _ _ (by decide) (by decide) (by decide)]
  simp (disch := omega) only [decodeOps, decodeClassC, MOps.ofOrd, mops_split_join, extract_lo, extract_hi, extract_all, extract_set_lo, set_set, fits_setWidth, fits_bit, fits_pair, half_lt, bit_lt_two, BitVec.reduceToNat]
  simp [hw, ordOf, ord_eta]

theorem mma (h : Hdr) (t : AccReg) : Statement (.mma h t) := by
  intro x hw he
  simp only [encode, Option.some.injEq] at he
  subst he
  simp only [wellFormed, Bool.and_eq_true] at hw
  rw [decode_gWord _ _ _ _ (by decide) (by decide) (by decide)]
  simp (disch := omega) only [decodeOps, decodeClassC, GOps.zero, gops_split_join, extract_lo, extract_hi, extract_all,
    extract_set_lo, set_set, fits_setWidth, fits_bit, fits_pair, half_lt, bit_lt_two, BitVec.reduceToNat]
  simp [hw, ordOf, ord_eta]

theorem mmas (h : Hdr) (t : AccReg) : Statement (.mmas h t) := by
  intro x hw he
  simp only [encode, Option.some.injEq] at he
  subst he
  simp only [wellFormed, Bool.and_eq_true] at hw
  rw [decode_gWord _ _ _ _ (by decide) (by decide) (by decide)]
  simp (disch := omega) only [decodeOps, decodeClassC, GOps.zero, gops_split_join, extract_lo, extract_hi, extract_all,
    extract_set_lo, set_set, fits_setWidth, fits_bit, fits_pair, half_lt, bit_lt_two, BitVec.reduceToNat]
  simp [hw, ordOf, ord_eta]

theorem mskip (h : Hdr) (a : XReg) : Statement (.mskip h a) := by
  intro x hw he
  simp only [encode, Option.some.injEq] at he
  subst he
  simp only [wellFormed, Bool.and_eq_true] at hw
  rw [decode_gWord _ _ _ _ (by decide) (by decide) (by decide)]
  simp (disch := omega) only [decodeOps, decodeClassC, GOps.zero, gops_split_join, extract_lo, extract_hi, extract_all,
    extract_set_lo, set_set, fits_setWidth, fits_bit, fits_pair, half_lt, bit_lt_two, BitVec.reduceToNat]
  simp [hw, ordOf, ord_eta]

theorem mskipOff (h : Hdr) : Statement (.mskipOff h) := by
  intro x hw he
  simp only [encode, Option.some.injEq] at he
  subst he
  simp only [wellFormed, Bool.and_eq_true] at hw
  rw [decode_gWord _ _ _ _ (by decide) (by decide) (by decide)]
  simp (disch := omega) only [decodeOps, decodeClassC, GOps.zero, gops_split_join, extract_lo, extract_hi, extract_all,
    extract_set_lo, set_set, fits_setWidth, fits_bit, fits_pair, half_lt, bit_lt_two, BitVec.reduceToNat]
  simp [hw, ordOf, ord_eta]

theorem mrot (h : Hdr) : Statement (.mrot h) := by
  intro x hw he
  simp only [encode, Option.some.injEq] at he
  subst he
  simp only [wellFormed, Bool.and_eq_true] at hw
  rw [decode_gWord _ _ _ _ (by decide) (by decide) (by decide)]
  simp (disch := omega) only [decodeOps, decodeClassC, GOps.zero, gops_split_join, extract_lo, extract_hi, extract_all,
    extract_set_lo, set_set, fits_setWidth, fits_bit, fits_pair, half_lt, bit_lt_two, BitVec.reduceToNat]
  simp [hw, ordOf, ord_eta]

theorem mzero (h : Hdr) (t : AccReg) : Statement (.mzero h t) := by
  intro x hw he
  simp only [encode, Option.some.injEq] at he
  subst he
  simp only [wellFormed, Bool.and_eq_true] at hw
  rw [decode_gWord _ _ _ _ (by decide) (by decide) (by decide)]
  simp (disch := omega) only [decodeOps, decodeClassC, GOps.zero, gops_split_join, extract_lo, extract_hi, extract_all,
    extract_set_lo, set_set, fits_setWidth, fits_bit, fits_pair, half_lt, bit_lt_two, BitVec.reduceToNat]
  simp [hw, ordOf, ord_eta]

theorem mdrain (h : Hdr) (o : Ord) (f : DFmt) (rm : Rnd) (z : Bool) (t : AccReg) (a b : XReg) (off : BitVec 32) : Statement (.mdrain h o f rm z t a b off) := by
  intro x hw he
  simp only [encode, Option.some.injEq] at he
  subst he
  simp only [wellFormed, Bool.and_eq_true] at hw
  rw [decode_mWord _ _ _ _ (by decide) (by decide) (by decide)]
  simp (disch := omega) only [decodeOps, decodeClassC, MOps.ofOrd, mops_split_join, extract_lo, extract_hi, extract_all, extract_set_lo, set_set, fits_setWidth, fits_bit, fits_pair, half_lt, bit_lt_two, BitVec.reduceToNat]
  simp [hw, ordOf, ord_eta]

theorem mcmd (h : Hdr) (o : Ord) (a : XReg) (off : BitVec 32) : Statement (.mcmd h o a off) := by
  intro x hw he
  simp only [encode, Option.some.injEq] at he
  subst he
  simp only [wellFormed, Bool.and_eq_true] at hw
  rw [decode_mWord _ _ _ _ (by decide) (by decide) (by decide)]
  simp (disch := omega) only [decodeOps, decodeClassC, MOps.ofOrd, mops_split_join, extract_lo, extract_hi, extract_all, extract_set_lo, set_set, fits_setWidth, fits_bit, fits_pair, half_lt, bit_lt_two, BitVec.reduceToNat]
  simp [hw, ordOf, ord_eta]

theorem mcap (h : Hdr) (d : XReg) (rights : BitVec 2) : Statement (.mcap h d rights) := by
  intro x hw he
  simp only [encode, Option.some.injEq] at he
  subst he
  simp only [wellFormed, Bool.and_eq_true] at hw
  rw [decode_gWord _ _ _ _ (by decide) (by decide) (by decide)]
  simp (disch := omega) only [decodeOps, decodeClassC, GOps.zero, gops_split_join, extract_lo, extract_hi, extract_all,
    extract_set_lo, set_set, fits_setWidth, fits_bit, fits_pair, half_lt, bit_lt_two, BitVec.reduceToNat]
  have hd : (rights != 0#2) = true := hw
  simp [hw, ordOf, ord_eta, hd]

theorem mcapRev (h : Hdr) (d : XReg) : Statement (.mcapRev h d) := by
  intro x hw he
  simp only [encode, Option.some.injEq] at he
  subst he
  simp only [wellFormed, Bool.and_eq_true] at hw
  rw [decode_gWord _ _ _ _ (by decide) (by decide) (by decide)]
  simp (disch := omega) only [decodeOps, decodeClassC, GOps.zero, gops_split_join, extract_lo, extract_hi, extract_all,
    extract_set_lo, set_set, fits_setWidth, fits_bit, fits_pair, half_lt, bit_lt_two, BitVec.reduceToNat]
  simp [hw, ordOf, ord_eta]

theorem mstat (h : Hdr) (d : XReg) (t : AccReg) : Statement (.mstat h d t) := by
  intro x hw he
  simp only [encode, Option.some.injEq] at he
  subst he
  simp only [wellFormed, Bool.and_eq_true] at hw
  rw [decode_gWord _ _ _ _ (by decide) (by decide) (by decide)]
  simp (disch := omega) only [decodeOps, decodeClassC, GOps.zero, gops_split_join, extract_lo, extract_hi, extract_all,
    extract_set_lo, set_set, fits_setWidth, fits_bit, fits_pair, half_lt, bit_lt_two, BitVec.reduceToNat]
  simp [hw, ordOf, ord_eta]

theorem mstatU (h : Hdr) (d : XReg) : Statement (.mstatU h d) := by
  intro x hw he
  simp only [encode, Option.some.injEq] at he
  subst he
  simp only [wellFormed, Bool.and_eq_true] at hw
  rw [decode_gWord _ _ _ _ (by decide) (by decide) (by decide)]
  simp (disch := omega) only [decodeOps, decodeClassC, GOps.zero, gops_split_join, extract_lo, extract_hi, extract_all,
    extract_set_lo, set_set, fits_setWidth, fits_bit, fits_pair, half_lt, bit_lt_two, BitVec.reduceToNat]
  simp [hw, ordOf, ord_eta]

theorem kstage (h : Hdr) (o : Ord) (d a : XReg) (off : BitVec 32) : Statement (.kstage h o d a off) := by
  intro x hw he
  simp only [encode, Option.some.injEq] at he
  subst he
  simp only [wellFormed, Bool.and_eq_true] at hw
  rw [decode_mWord _ _ _ _ (by decide) (by decide) (by decide)]
  simp (disch := omega) only [decodeOps, decodeClassD, MOps.ofOrd, mops_split_join, extract_lo, extract_hi, extract_all, extract_set_lo, set_set, fits_setWidth, fits_bit, fits_pair, half_lt, bit_lt_two, BitVec.reduceToNat]
  simp [hw, ordOf, ord_eta]

theorem kstageU (h : Hdr) (o : Ord) (d b : XReg) : Statement (.kstageU h o d b) := by
  intro x hw he
  simp only [encode, Option.some.injEq] at he
  subst he
  simp only [wellFormed, Bool.and_eq_true] at hw
  rw [decode_mWord _ _ _ _ (by decide) (by decide) (by decide)]
  simp (disch := omega) only [decodeOps, decodeClassD, MOps.ofOrd, mops_split_join, extract_lo, extract_hi, extract_all, extract_set_lo, set_set, fits_setWidth, fits_bit, fits_pair, half_lt, bit_lt_two, BitVec.reduceToNat]
  simp [hw, ordOf, ord_eta]

theorem ksend (h : Hdr) (o : Ord) (a b : XReg) (off : BitVec 32) : Statement (.ksend h o a b off) := by
  intro x hw he
  simp only [encode, Option.some.injEq] at he
  subst he
  simp only [wellFormed, Bool.and_eq_true] at hw
  rw [decode_mWord _ _ _ _ (by decide) (by decide) (by decide)]
  simp (disch := omega) only [decodeOps, decodeClassD, MOps.ofOrd, mops_split_join, extract_lo, extract_hi, extract_all, extract_set_lo, set_set, fits_setWidth, fits_bit, fits_pair, half_lt, bit_lt_two, BitVec.reduceToNat]
  simp [hw, ordOf, ord_eta]

theorem ksendt (h : Hdr) (o : Ord) (d : PReg) (a b : XReg) (off : BitVec 32) : Statement (.ksendt h o d a b off) := by
  intro x hw he
  simp only [encode, Option.some.injEq] at he
  subst he
  simp only [wellFormed, Bool.and_eq_true] at hw
  rw [decode_mWord _ _ _ _ (by decide) (by decide) (by decide)]
  simp (disch := omega) only [decodeOps, decodeClassD, MOps.ofOrd, mops_split_join, extract_lo, extract_hi, extract_all, extract_set_lo, set_set, fits_setWidth, fits_bit, fits_pair, half_lt, bit_lt_two, BitVec.reduceToNat]
  simp [hw, ordOf, ord_eta]

theorem kyield (h : Hdr) : Statement (.kyield h) := by
  intro x hw he
  simp only [encode, Option.some.injEq] at he
  subst he
  simp only [wellFormed, Bool.and_eq_true] at hw
  rw [decode_gWord _ _ _ _ (by decide) (by decide) (by decide)]
  simp (disch := omega) only [decodeOps, decodeClassD, GOps.zero, gops_split_join, extract_lo, extract_hi, extract_all,
    extract_set_lo, set_set, fits_setWidth, fits_bit, fits_pair, half_lt, bit_lt_two, BitVec.reduceToNat]
  simp [hw, ordOf, ord_eta]

theorem kend (h : Hdr) : Statement (.kend h) := by
  intro x hw he
  simp only [encode, Option.some.injEq] at he
  subst he
  simp only [wellFormed, Bool.and_eq_true] at hw
  rw [decode_gWord _ _ _ _ (by decide) (by decide) (by decide)]
  simp (disch := omega) only [decodeOps, decodeClassD, GOps.zero, gops_split_join, extract_lo, extract_hi, extract_all,
    extract_set_lo, set_set, fits_setWidth, fits_bit, fits_pair, half_lt, bit_lt_two, BitVec.reduceToNat]
  simp [hw, ordOf, ord_eta]

theorem kstatOcc (h : Hdr) (d a : XReg) : Statement (.kstatOcc h d a) := by
  intro x hw he
  simp only [encode, Option.some.injEq] at he
  subst he
  simp only [wellFormed, Bool.and_eq_true] at hw
  rw [decode_gWord _ _ _ _ (by decide) (by decide) (by decide)]
  simp (disch := omega) only [decodeOps, decodeClassD, GOps.zero, gops_split_join, extract_lo, extract_hi, extract_all,
    extract_set_lo, set_set, fits_setWidth, fits_bit, fits_pair, half_lt, bit_lt_two, BitVec.reduceToNat]
  simp [hw, ordOf, ord_eta]

theorem kstatCnt (h : Hdr) (d a : XReg) : Statement (.kstatCnt h d a) := by
  intro x hw he
  simp only [encode, Option.some.injEq] at he
  subst he
  simp only [wellFormed, Bool.and_eq_true] at hw
  rw [decode_gWord _ _ _ _ (by decide) (by decide) (by decide)]
  simp (disch := omega) only [decodeOps, decodeClassD, GOps.zero, gops_split_join, extract_lo, extract_hi, extract_all,
    extract_set_lo, set_set, fits_setWidth, fits_bit, fits_pair, half_lt, bit_lt_two, BitVec.reduceToNat]
  simp [hw, ordOf, ord_eta]

theorem kflush (h : Hdr) (d a : XReg) : Statement (.kflush h d a) := by
  intro x hw he
  simp only [encode, Option.some.injEq] at he
  subst he
  simp only [wellFormed, Bool.and_eq_true] at hw
  rw [decode_gWord _ _ _ _ (by decide) (by decide) (by decide)]
  simp (disch := omega) only [decodeOps, decodeClassD, GOps.zero, gops_split_join, extract_lo, extract_hi, extract_all,
    extract_set_lo, set_set, fits_setWidth, fits_bit, fits_pair, half_lt, bit_lt_two, BitVec.reduceToNat]
  simp [hw, ordOf, ord_eta]

theorem gnew (h : Hdr) (d a : XReg) : Statement (.gnew h d a) := by
  intro x hw he
  simp only [encode, Option.some.injEq] at he
  subst he
  simp only [wellFormed, Bool.and_eq_true] at hw
  rw [decode_gWord _ _ _ _ (by decide) (by decide) (by decide)]
  simp (disch := omega) only [decodeOps, decodeClassE, GOps.zero, gops_split_join, extract_lo, extract_hi, extract_all,
    extract_set_lo, set_set, fits_setWidth, fits_bit, fits_pair, half_lt, bit_lt_two, BitVec.reduceToNat]
  simp [hw, ordOf, ord_eta]

theorem gfree (h : Hdr) (d a : XReg) : Statement (.gfree h d a) := by
  intro x hw he
  simp only [encode, Option.some.injEq] at he
  subst he
  simp only [wellFormed, Bool.and_eq_true] at hw
  rw [decode_gWord _ _ _ _ (by decide) (by decide) (by decide)]
  simp (disch := omega) only [decodeOps, decodeClassE, GOps.zero, gops_split_join, extract_lo, extract_hi, extract_all,
    extract_set_lo, set_set, fits_setWidth, fits_bit, fits_pair, half_lt, bit_lt_two, BitVec.reduceToNat]
  simp [hw, ordOf, ord_eta]

theorem join (h : Hdr) (d a : XReg) : Statement (.join h d a) := by
  intro x hw he
  simp only [encode, Option.some.injEq] at he
  subst he
  simp only [wellFormed, Bool.and_eq_true] at hw
  rw [decode_gWord _ _ _ _ (by decide) (by decide) (by decide)]
  simp (disch := omega) only [decodeOps, decodeClassE, GOps.zero, gops_split_join, extract_lo, extract_hi, extract_all,
    extract_set_lo, set_set, fits_setWidth, fits_bit, fits_pair, half_lt, bit_lt_two, BitVec.reduceToNat]
  simp [hw, ordOf, ord_eta]

theorem leave (h : Hdr) (d a : XReg) : Statement (.leave h d a) := by
  intro x hw he
  simp only [encode, Option.some.injEq] at he
  subst he
  simp only [wellFormed, Bool.and_eq_true] at hw
  rw [decode_gWord _ _ _ _ (by decide) (by decide) (by decide)]
  simp (disch := omega) only [decodeOps, decodeClassE, GOps.zero, gops_split_join, extract_lo, extract_hi, extract_all,
    extract_set_lo, set_set, fits_setWidth, fits_bit, fits_pair, half_lt, bit_lt_two, BitVec.reduceToNat]
  simp [hw, ordOf, ord_eta]

theorem trylk (h : Hdr) (o : Ord) (d : PReg) (a : XReg) (off : BitVec 32) : Statement (.trylk h o d a off) := by
  intro x hw he
  simp only [encode, Option.some.injEq] at he
  subst he
  simp only [wellFormed, Bool.and_eq_true] at hw
  rw [decode_mWord _ _ _ _ (by decide) (by decide) (by decide)]
  simp (disch := omega) only [decodeOps, decodeClassE, MOps.ofOrd, mops_split_join, extract_lo, extract_hi, extract_all, extract_set_lo, set_set, fits_setWidth, fits_bit, fits_pair, half_lt, bit_lt_two, BitVec.reduceToNat]
  simp [hw, ordOf, ord_eta]

theorem unlk (h : Hdr) (o : Ord) (d : PReg) (a : XReg) (off : BitVec 32) : Statement (.unlk h o d a off) := by
  intro x hw he
  simp only [encode, Option.some.injEq] at he
  subst he
  simp only [wellFormed, Bool.and_eq_true] at hw
  rw [decode_mWord _ _ _ _ (by decide) (by decide) (by decide)]
  simp (disch := omega) only [decodeOps, decodeClassE, MOps.ofOrd, mops_split_join, extract_lo, extract_hi, extract_all, extract_set_lo, set_set, fits_setWidth, fits_bit, fits_pair, half_lt, bit_lt_two, BitVec.reduceToNat]
  simp [hw, ordOf, ord_eta]

theorem qpusht (h : Hdr) (o : Ord) (d : PReg) (a b : XReg) (off : BitVec 32) : Statement (.qpusht h o d a b off) := by
  intro x hw he
  simp only [encode, Option.some.injEq] at he
  subst he
  simp only [wellFormed, Bool.and_eq_true] at hw
  rw [decode_mWord _ _ _ _ (by decide) (by decide) (by decide)]
  simp (disch := omega) only [decodeOps, decodeClassE, MOps.ofOrd, mops_split_join, extract_lo, extract_hi, extract_all, extract_set_lo, set_set, fits_setWidth, fits_bit, fits_pair, half_lt, bit_lt_two, BitVec.reduceToNat]
  simp [hw, ordOf, ord_eta]

theorem qpopt (h : Hdr) (o : Ord) (n : PReg) (d a : XReg) (off : BitVec 32) : Statement (.qpopt h o n d a off) := by
  intro x hw he
  simp only [encode, Option.some.injEq] at he
  subst he
  simp only [wellFormed, Bool.and_eq_true] at hw
  rw [decode_mWord _ _ _ _ (by decide) (by decide) (by decide)]
  simp (disch := omega) only [decodeOps, decodeClassE, MOps.ofOrd, mops_split_join, extract_lo, extract_hi, extract_all, extract_set_lo, set_set, fits_setWidth, fits_bit, fits_pair, half_lt, bit_lt_two, BitVec.reduceToNat]
  simp [hw, ordOf, ord_eta]

theorem bararr (h : Hdr) (o : Ord) (d a b : XReg) (off : BitVec 32) : Statement (.bararr h o d a b off) := by
  intro x hw he
  simp only [encode, Option.some.injEq] at he
  subst he
  simp only [wellFormed, Bool.and_eq_true] at hw
  rw [decode_mWord _ _ _ _ (by decide) (by decide) (by decide)]
  simp (disch := omega) only [decodeOps, decodeClassE, MOps.ofOrd, mops_split_join, extract_lo, extract_hi, extract_all, extract_set_lo, set_set, fits_setWidth, fits_bit, fits_pair, half_lt, bit_lt_two, BitVec.reduceToNat]
  simp [hw, ordOf, ord_eta]

theorem bartry (h : Hdr) (o : Ord) (d : PReg) (a b : XReg) (off : BitVec 32) : Statement (.bartry h o d a b off) := by
  intro x hw he
  simp only [encode, Option.some.injEq] at he
  subst he
  simp only [wellFormed, Bool.and_eq_true] at hw
  rw [decode_mWord _ _ _ _ (by decide) (by decide) (by decide)]
  simp (disch := omega) only [decodeOps, decodeClassE, MOps.ofOrd, mops_split_join, extract_lo, extract_hi, extract_all, extract_set_lo, set_set, fits_setWidth, fits_bit, fits_pair, half_lt, bit_lt_two, BitVec.reduceToNat]
  simp [hw, ordOf, ord_eta]

theorem parkLk (h : Hdr) (o : Ord) (a : XReg) (off : BitVec 32) : Statement (.parkLk h o a off) := by
  intro x hw he
  simp only [encode, Option.some.injEq] at he
  subst he
  simp only [wellFormed, Bool.and_eq_true] at hw
  rw [decode_mWord _ _ _ _ (by decide) (by decide) (by decide)]
  simp (disch := omega) only [decodeOps, decodeClassE, MOps.ofOrd, mops_split_join, extract_lo, extract_hi, extract_all, extract_set_lo, set_set, fits_setWidth, fits_bit, fits_pair, half_lt, bit_lt_two, BitVec.reduceToNat]
  simp [hw, ordOf, ord_eta, decodePark]

theorem parkQn (h : Hdr) (o : Ord) (a : XReg) (off : BitVec 32) : Statement (.parkQn h o a off) := by
  intro x hw he
  simp only [encode, Option.some.injEq] at he
  subst he
  simp only [wellFormed, Bool.and_eq_true] at hw
  rw [decode_mWord _ _ _ _ (by decide) (by decide) (by decide)]
  simp (disch := omega) only [decodeOps, decodeClassE, MOps.ofOrd, mops_split_join, extract_lo, extract_hi, extract_all, extract_set_lo, set_set, fits_setWidth, fits_bit, fits_pair, half_lt, bit_lt_two, BitVec.reduceToNat]
  simp [hw, ordOf, ord_eta, decodePark]

theorem parkQs (h : Hdr) (o : Ord) (a : XReg) (off : BitVec 32) : Statement (.parkQs h o a off) := by
  intro x hw he
  simp only [encode, Option.some.injEq] at he
  subst he
  simp only [wellFormed, Bool.and_eq_true] at hw
  rw [decode_mWord _ _ _ _ (by decide) (by decide) (by decide)]
  simp (disch := omega) only [decodeOps, decodeClassE, MOps.ofOrd, mops_split_join, extract_lo, extract_hi, extract_all, extract_set_lo, set_set, fits_setWidth, fits_bit, fits_pair, half_lt, bit_lt_two, BitVec.reduceToNat]
  simp [hw, ordOf, ord_eta, decodePark]

theorem parkBar (h : Hdr) (o : Ord) (a b : XReg) (off : BitVec 32) : Statement (.parkBar h o a b off) := by
  intro x hw he
  simp only [encode, Option.some.injEq] at he
  subst he
  simp only [wellFormed, Bool.and_eq_true] at hw
  rw [decode_mWord _ _ _ _ (by decide) (by decide) (by decide)]
  simp (disch := omega) only [decodeOps, decodeClassE, MOps.ofOrd, mops_split_join, extract_lo, extract_hi, extract_all, extract_set_lo, set_set, fits_setWidth, fits_bit, fits_pair, half_lt, bit_lt_two, BitVec.reduceToNat]
  simp [hw, ordOf, ord_eta, decodePark]

theorem parkRp (h : Hdr) (o : Ord) (a : XReg) (off : BitVec 32) : Statement (.parkRp h o a off) := by
  intro x hw he
  simp only [encode, Option.some.injEq] at he
  subst he
  simp only [wellFormed, Bool.and_eq_true] at hw
  rw [decode_mWord _ _ _ _ (by decide) (by decide) (by decide)]
  simp (disch := omega) only [decodeOps, decodeClassE, MOps.ofOrd, mops_split_join, extract_lo, extract_hi, extract_all, extract_set_lo, set_set, fits_setWidth, fits_bit, fits_pair, half_lt, bit_lt_two, BitVec.reduceToNat]
  simp [hw, ordOf, ord_eta, decodePark]

theorem shgive (h : Hdr) (d a b : XReg) : Statement (.shgive h d a b) := by
  intro x hw he
  simp only [encode, Option.some.injEq] at he
  subst he
  simp only [wellFormed, Bool.and_eq_true] at hw
  rw [decode_gWord _ _ _ _ (by decide) (by decide) (by decide)]
  simp (disch := omega) only [decodeOps, decodeClassE, GOps.zero, gops_split_join, extract_lo, extract_hi, extract_all,
    extract_set_lo, set_set, fits_setWidth, fits_bit, fits_pair, half_lt, bit_lt_two, BitVec.reduceToNat]
  simp [hw, ordOf, ord_eta]

theorem shresv (h : Hdr) (d a : XReg) : Statement (.shresv h d a) := by
  intro x hw he
  simp only [encode, Option.some.injEq] at he
  subst he
  simp only [wellFormed, Bool.and_eq_true] at hw
  rw [decode_gWord _ _ _ _ (by decide) (by decide) (by decide)]
  simp (disch := omega) only [decodeOps, decodeClassE, GOps.zero, gops_split_join, extract_lo, extract_hi, extract_all,
    extract_set_lo, set_set, fits_setWidth, fits_bit, fits_pair, half_lt, bit_lt_two, BitVec.reduceToNat]
  simp [hw, ordOf, ord_eta]

theorem shrd (h : Hdr) (d a : XReg) : Statement (.shrd h d a) := by
  intro x hw he
  simp only [encode, Option.some.injEq] at he
  subst he
  simp only [wellFormed, Bool.and_eq_true] at hw
  rw [decode_gWord _ _ _ _ (by decide) (by decide) (by decide)]
  simp (disch := omega) only [decodeOps, decodeClassE, GOps.zero, gops_split_join, extract_lo, extract_hi, extract_all,
    extract_set_lo, set_set, fits_setWidth, fits_bit, fits_pair, half_lt, bit_lt_two, BitVec.reduceToNat]
  simp [hw, ordOf, ord_eta]

theorem shrdL (h : Hdr) (d a : XReg) : Statement (.shrdL h d a) := by
  intro x hw he
  simp only [encode, Option.some.injEq] at he
  subst he
  simp only [wellFormed, Bool.and_eq_true] at hw
  rw [decode_gWord _ _ _ _ (by decide) (by decide) (by decide)]
  simp (disch := omega) only [decodeOps, decodeClassE, GOps.zero, gops_split_join, extract_lo, extract_hi, extract_all,
    extract_set_lo, set_set, fits_setWidth, fits_bit, fits_pair, half_lt, bit_lt_two, BitVec.reduceToNat]
  simp [hw, ordOf, ord_eta]

theorem oprd (h : Hdr) (d a : XReg) : Statement (.oprd h d a) := by
  intro x hw he
  simp only [encode, Option.some.injEq] at he
  subst he
  simp only [wellFormed, Bool.and_eq_true] at hw
  rw [decode_gWord _ _ _ _ (by decide) (by decide) (by decide)]
  simp (disch := omega) only [decodeOps, decodeClassE, GOps.zero, gops_split_join, extract_lo, extract_hi, extract_all,
    extract_set_lo, set_set, fits_setWidth, fits_bit, fits_pair, half_lt, bit_lt_two, BitVec.reduceToNat]
  simp [hw, ordOf, ord_eta]

theorem sleepTimeout (core slot : Nat) : Statement (.sleepTimeout core slot) := by
  intro _ hw
  simp [wellFormed] at hw

theorem claimRelease (core slot id : Nat) : Statement (.claimRelease core slot id) := by
  intro _ hw
  simp [wellFormed] at hw

theorem icacheFill (core slot : Nat) : Statement (.icacheFill core slot) := by
  intro _ hw
  simp [wellFormed] at hw

theorem userInterruptTake (core slot : Nat) : Statement (.userInterruptTake core slot) := by
  intro _ hw
  simp [wellFormed] at hw

theorem detachedAccessPerformed (task op : Nat) : Statement (.detachedAccessPerformed task op) := by
  intro _ hw
  simp [wellFormed] at hw

theorem placement (core : Nat) : Statement (.placement core) := by
  intro _ hw
  simp [wellFormed] at hw

theorem continuationResume (core : Nat) : Statement (.continuationResume core) := by
  intro _ hw
  simp [wellFormed] at hw

theorem doneIncrement (launch : Nat) : Statement (.doneIncrement launch) := by
  intro _ hw
  simp [wellFormed] at hw

theorem memoryOpPerform (task op : Nat) : Statement (.memoryOpPerform task op) := by
  intro _ hw
  simp [wellFormed] at hw

theorem streamerKick (id : Nat) : Statement (.streamerKick id) := by
  intro _ hw
  simp [wellFormed] at hw

theorem streamerChunk (engine : Nat) : Statement (.streamerChunk engine) := by
  intro _ hw
  simp [wellFormed] at hw

theorem completionRelease (id : Nat) : Statement (.completionRelease id) := by
  intro _ hw
  simp [wellFormed] at hw

theorem counterUpdate (id : Nat) : Statement (.counterUpdate id) := by
  intro _ hw
  simp [wellFormed] at hw

theorem wtEntryFire (core e : Nat) : Statement (.wtEntryFire core e) := by
  intro _ hw
  simp [wellFormed] at hw

theorem triggerStart (core i : Nat) : Statement (.triggerStart core i) := by
  intro _ hw
  simp [wellFormed] at hw

theorem triggerComplete (core i : Nat) : Statement (.triggerComplete core i) := by
  intro _ hw
  simp [wellFormed] at hw

theorem exchPhaseRelease (launch : Nat) : Statement (.exchPhaseRelease launch) := by
  intro _ hw
  simp [wellFormed] at hw

theorem timetableStart (launch : Nat) : Statement (.timetableStart launch) := by
  intro _ hw
  simp [wellFormed] at hw

theorem timetableEnd (core : Nat) : Statement (.timetableEnd core) := by
  intro _ hw
  simp [wellFormed] at hw

theorem nsendAck (id : Nat) : Statement (.nsendAck id) := by
  intro _ hw
  simp [wellFormed] at hw

theorem matrixEntryService (cluster : Nat) : Statement (.matrixEntryService cluster) := by
  intro _ hw
  simp [wellFormed] at hw

theorem ringTileArrive (id : Nat) : Statement (.ringTileArrive id) := by
  intro _ hw
  simp [wellFormed] at hw

theorem ringCreditReturn (id : Nat) : Statement (.ringCreditReturn id) := by
  intro _ hw
  simp [wellFormed] at hw

theorem mcmdKickArrive (id : Nat) : Statement (.mcmdKickArrive id) := by
  intro _ hw
  simp [wellFormed] at hw

theorem ksendAnswer (id : Nat) : Statement (.ksendAnswer id) := by
  intro _ hw
  simp [wellFormed] at hw

theorem keyedRecordArrive (id : Nat) : Statement (.keyedRecordArrive id) := by
  intro _ hw
  simp [wellFormed] at hw

theorem dispatch (core : Nat) : Statement (.dispatch core) := by
  intro _ hw
  simp [wellFormed] at hw

theorem huskLookupDone (core stage : Nat) : Statement (.huskLookupDone core stage) := by
  intro _ hw
  simp [wellFormed] at hw

theorem huskSpillDone (core stage : Nat) : Statement (.huskSpillDone core stage) := by
  intro _ hw
  simp [wellFormed] at hw

theorem huskReloadDone (core stage : Nat) : Statement (.huskReloadDone core stage) := by
  intro _ hw
  simp [wellFormed] at hw

theorem shareMessage (group : GroupId) : Statement (.shareMessage group) := by
  intro _ hw
  simp [wellFormed] at hw

theorem probeMessage (id : Nat) : Statement (.probeMessage id) := by
  intro _ hw
  simp [wellFormed] at hw

theorem cycleWakeMessage (id : Nat) : Statement (.cycleWakeMessage id) := by
  intro _ hw
  simp [wellFormed] at hw

theorem opChange (core : Nat) : Statement (.opChange core) := by
  intro _ hw
  simp [wellFormed] at hw

theorem clockSwitch (core : Nat) : Statement (.clockSwitch core) := by
  intro _ hw
  simp [wellFormed] at hw

theorem preemptionRequest (core slot : Nat) : Statement (.preemptionRequest core slot) := by
  intro _ hw
  simp [wellFormed] at hw

theorem detachTimeout (core slot : Nat) : Statement (.detachTimeout core slot) := by
  intro _ hw
  simp [wellFormed] at hw

theorem handlerCut (core slot : Nat) : Statement (.handlerCut core slot) := by
  intro _ hw
  simp [wellFormed] at hw

theorem handlerAbandon (core slot : Nat) : Statement (.handlerAbandon core slot) := by
  intro _ hw
  simp [wellFormed] at hw

theorem prefetchFill (id : Nat) : Statement (.prefetchFill id) := by
  intro _ hw
  simp [wellFormed] at hw

theorem nearCacheEvict (cluster asid line : Nat) : Statement (.nearCacheEvict cluster asid line) := by
  intro _ hw
  simp [wellFormed] at hw

theorem tbinv1Write (core : Nat) (v : Word) : Statement (.tbinv1Write core v) := by
  intro _ hw
  simp [wellFormed] at hw

theorem tbInvalidationDone (id : Nat) : Statement (.tbInvalidationDone id) := by
  intro _ hw
  simp [wellFormed] at hw

theorem registerWrite (r : GReg) (v : Word) : Statement (.registerWrite r v) := by
  intro _ hw
  simp [wellFormed] at hw

theorem fqnoteWrite (v : Word) : Statement (.fqnoteWrite v) := by
  intro _ hw
  simp [wellFormed] at hw

theorem fqringWrite (v : Word) : Statement (.fqringWrite v) := by
  intro _ hw
  simp [wellFormed] at hw

theorem pageRequestRetry (id : Nat) : Statement (.pageRequestRetry id) := by
  intro _ hw
  simp [wellFormed] at hw

theorem prrespWrite (vf : Nat) (v : Word) : Statement (.prrespWrite vf v) := by
  intro _ hw
  simp [wellFormed] at hw

theorem descriptorFreeTimeout (task handle : Nat) : Statement (.descriptorFreeTimeout task handle) := by
  intro _ hw
  simp [wellFormed] at hw

theorem nsendArrival (m : NetMsg) : Statement (.nsendArrival m) := by
  intro _ hw
  simp [wellFormed] at hw

theorem mrotTimeout (cluster : Nat) : Statement (.mrotTimeout cluster) := by
  intro _ hw
  simp [wellFormed] at hw

theorem leaseExpire (cluster : Nat) : Statement (.leaseExpire cluster) := by
  intro _ hw
  simp [wellFormed] at hw

theorem matrixUnitFail (cluster : Nat) : Statement (.matrixUnitFail cluster) := by
  intro _ hw
  simp [wellFormed] at hw

theorem ksendResend (core slot : Nat) : Statement (.ksendResend core slot) := by
  intro _ hw
  simp [wellFormed] at hw

theorem reservationLapse (core : Nat) : Statement (.reservationLapse core) := by
  intro _ hw
  simp [wellFormed] at hw

theorem retireDue (core ctx : Nat) : Statement (.retireDue core ctx) := by
  intro _ hw
  simp [wellFormed] at hw

theorem stageAutoUnbind (core stage : Nat) : Statement (.stageAutoUnbind core stage) := by
  intro _ hw
  simp [wellFormed] at hw

theorem gnewGroupSettle (index : Nat) : Statement (.gnewGroupSettle index) := by
  intro _ hw
  simp [wellFormed] at hw

theorem probeRecordExpire (id : Nat) : Statement (.probeRecordExpire id) := by
  intro _ hw
  simp [wellFormed] at hw

theorem slewHoldEnd (die : Nat) : Statement (.slewHoldEnd die) := by
  intro _ hw
  simp [wellFormed] at hw

theorem slewUnassisted (die : Nat) : Statement (.slewUnassisted die) := by
  intro _ hw
  simp [wellFormed] at hw

theorem errcfgWrite (v : Word) : Statement (.errcfgWrite v) := by
  intro _ hw
  simp [wellFormed] at hw

theorem hostCounterWrite (window k : Nat) (n : BitVec 32) : Statement (.hostCounterWrite window k n) := by
  intro _ hw
  simp [wellFormed] at hw

theorem hostBar2Access (x : Bar2Access) : Statement (.hostBar2Access x) := by
  intro _ hw
  simp [wellFormed] at hw

theorem linkFlitResend (die port : Nat) : Statement (.linkFlitResend die port) := by
  intro _ hw
  simp [wellFormed] at hw

theorem linkDown (die port : Nat) : Statement (.linkDown die port) := by
  intro _ hw
  simp [wellFormed] at hw

theorem linkLossComplete (task op : Nat) : Statement (.linkLossComplete task op) := by
  intro _ hw
  simp [wellFormed] at hw

theorem eccError (loc : EccLoc) (double : Bool) : Statement (.eccError loc double) := by
  intro _ hw
  simp [wellFormed] at hw

theorem coreFreeze (core : Nat) : Statement (.coreFreeze core) := by
  intro _ hw
  simp [wellFormed] at hw

theorem deviceReset : Statement .deviceReset := by
  intro _ hw
  simp [wellFormed] at hw

theorem boot (b : BootInfo) : Statement (.boot b) := by
  intro _ hw
  simp [wellFormed] at hw

end Sys2Proof.Laws.RoundTrip
end

