-- ==== Sys2Proof/Tests/Slice0.lean ====
section
/-!
SUPPORT. Tests of the model: words written out from the spec's encodings decode to the instructions they stand for; each
check of WellFormed.lean refuses an ill-formed term; single steps give the results of the spec's worked cases; and, for
every obligation, its premises are met by a state and operands written out here (`wit_<obligation>`).
-/
set_option Elab.async false
open Sys2Proof Sys2Proof.Machine Sys2Proof.Laws
namespace Sys2Proof.Tests

/-- A header without hints, waits or a guard, and an access without ordering. -/
def h : Hdr := { pace := 0, yld := false, reuse := 0, claim := .none, wait := 0, neg := false, guard := 0 }
def o : Ord := { stream := 0, after := 0, sync := .none, scope := .core }

/-! ### Words, written out from the encodings (R57 to R61 and the tables of the classes) -/

def reads (l : List (BitVec 128 × Instr)) : Bool := l.all fun p => match decode p.1 with
  | .ok i => decide (i = p.2)
  | .error _ => false

/-- Class 0x0. -/
theorem word_class0 : reads [
    (0x0000_0000_0000_0000_0000_0007, .illegal 7),
    (0x0010_0000_0000_0000_0000_0000, .nop h),
    (0x0020_0000_0000_0000_0000_1234, .brk h 0x1234),
    (0x0030_0000_0000_0000_0000_FFFF, .trap h 0xFFFF),
    (0x0040_0000_0000_0000_0000_0000, .trapret h),
    (0x0050_0000_0000_0000_0000_0000, .upret h),
    (0x0062_4000_0009_0000_0000_0000, .crrd h 9 .time),
    (0x0070_0A00_0010_0000_0000_0000, .crwr h 10 .tvec),
    (0x0082_CC00_0003_0000_0000_0000, .crset h 11 12 .hintctl),
    (0x0093_4E00_001B_0000_0000_0000, .crclr h 13 14 .uplimit),
    (0x00A3_C000_0000_0000_0000_0000, .ident h 15),
    (0x00B4_0000_0000_0000_0000_0000, .feat h 16),
    (0x00C0_0000_0000_0000_0000_0000, .halt h),
    (0x00D4_4C48_0000_0000_FFFF_FFFF, .sleep h 17 12 18 0xFFFFFFFF)] = true := by decide +kernel

/-- Class 0x1. -/
theorem word_class1 : reads [
    (0x1000_0100_0002_FFFF_FFFF_FFFB, .br h 1 .all false 0xFFFFFFFFFFFB),
    (0x1000_0700_0009_0000_0000_0003, .br h 7 .any true 3),
    (0x1010_0500_0000_FFFF_FFFF_FFF0, .bri h 5 0xFFFFFFFFFFF0),
    (0x1020_0000_0000_0000_0000_0009, .call h 9),
    (0x1030_1F00_0000_0000_0000_0020, .calli h 31 32),
    (0x1040_1F00_0000_0000_0000_0000, .ret h 31),
    (0x1050_0600_0000_FFFF_FFFF_FFFE, .loop h 6 0xFFFFFFFFFFFE),
    (0x1060_0000_0000_0000_0000_0000, .endTask h),
    (0x1070_0000_0000_0000_0000_0000, .yieldSlot h),
    (0x1080_0000_000F_0000_0000_0004, .ipf h 15 4)] = true := by decide +kernel

/-- Class 0x2. -/
theorem word_class2 : reads [
    (0x2002_051C_0000_0000_0000_0000, .add h false 8 5 7),
    (0x2012_051C_0001_0000_0000_0000, .sub h true 8 5 7),
    (0x2032_051C_0001_0000_0000_0000, .mul h true 8 5 7),
    (0x2042_051C_0000_0000_0000_0000, .mulh h false 8 5 7),
    (0x2052_051C_0001_0000_0000_0000, .mulhn h true 8 5 7),
    (0x2072_051C_0001_0000_0000_0000, .div h true 8 5 7),
    (0x2082_051C_0000_0000_0000_0000, .divn h false 8 5 7),
    (0x2092_051C_0001_0000_0000_0000, .rem h true 8 5 7),
    (0x20A2_051C_0000_0000_0000_0000, .remn h false 8 5 7),
    (0x2020_4200_0001_FFFF_FFFF_FFFF, .addi h true 1 2 0xFFFFFFFFFFFF),
    (0x2060_420C_4000_0000_0000_0000, .mad h false 1 2 3 4),
    (0x20B7_DE74_0000_0000_0000_0000, .and h 31 30 29),
    (0x20C7_DE74_0000_0000_0000_0000, .or h 31 30 29),
    (0x20D7_DE74_0000_0000_0000_0000, .xor h 31 30 29),
    (0x20E7_DE74_0000_0000_0000_0000, .andn h 31 30 29),
    (0x20F7_DE74_0000_0000_0000_0000, .orn h 31 30 29),
    (0x2100_C414_0001_0000_0000_0000, .shl h true 3 4 5),
    (0x2110_C414_0000_0000_0000_0000, .shr h false 3 4 5),
    (0x2120_C414_0001_0000_0000_0000, .sar h true 3 4 5),
    (0x2130_C414_0000_0000_0000_0000, .rol h false 3 4 5),
    (0x2140_C400_0000_0000_0000_003F, .shli h false 3 4 63),
    (0x2150_C400_0000_0000_0000_003E, .shri h false 3 4 62),
    (0x2160_C400_0000_0000_0000_003D, .sari h false 3 4 61)] = true := by decide +kernel

/-- Class 0x3. -/
theorem word_class3 : reads [
    (0x3000_420C_0000_0000_0000_0000, .min h 1 2 3),
    (0x3010_420C_0000_0000_0000_0000, .max h 1 2 3),
    (0x3020_420C_0000_0000_0000_0000, .minn h 1 2 3),
    (0x3030_420C_0000_0000_0000_0000, .maxn h 1 2 3),
    (0x3045_1500_0000_0000_0000_0000, .clz h 20 21),
    (0x3055_1500_0000_0000_0000_0000, .ctz h 20 21),
    (0x3065_1500_0000_0000_0000_0000, .popc h 20 21),
    (0x3075_1500_0000_0000_0000_0000, .brev h 20 21),
    (0x3080_4200_0000_0000_0000_00CC, .bfx h 1 2 12 3),
    (0x3090_4200_0000_0000_0000_003F, .bfxz h 1 2 63 0),
    (0x30A0_420C_0000_0000_0000_0FC0, .bfi h 1 2 3 0 63),
    (0x30B0_400C_000B_FFFF_FFFF_FFF0, .lea h 1 0 3 true 5 0xFFFFFFFFFFF0),
    (0x30C0_4000_0000_8000_0000_0000, .li h 1 0x800000000000),
    (0x30D0_4100_0000_0000_0000_ABCD, .lih h 1 1 0xABCD),
    (0x30E0_4200_0000_0000_0000_0000, .mov h 1 2),
    (0x30F0_420C_7000_0000_0000_0000, .sel h 1 2 3 7)] = true := by decide +kernel

/-- Class 0x4. -/
theorem word_class4 : reads [
    (0x4001_DE7C_0019_0000_0000_0000, .cmp h .gen true 7 30 31),
    (0x4010_5E00_0008_FFFF_FFFF_FFFF, .cmpi h .gtn false 1 30 0xFFFFFFFFFFFF),
    (0x4020_420C_0000_0000_0000_0000, .pand h 1 2 3),
    (0x4030_420C_0000_0000_0000_0000, .por h 1 2 3),
    (0x4040_420C_0000_0000_0000_0000, .pxor h 1 2 3),
    (0x4050_4200_0000_0000_0000_0000, .pnot h 1 2),
    (0x4060_4000_0000_0000_0000_00A5, .pset h 1 0xA5),
    (0x4060_5F00_0001_0000_0000_0000, .psetX h 1 31),
    (0x4077_C700_0000_0000_0000_0000, .pget h 31 7)] = true := by decide +kernel

/-- Class 0x5. -/
theorem word_class5 : reads [
    (0x5000_420C_0018_0000_0000_0000, .fadd h .f32 .rtz 1 2 3),
    (0x5010_420C_0028_0000_0000_0000, .fsub h .f32 .rdn 1 2 3),
    (0x5020_420C_0038_0000_0000_0000, .fmul h .f32 .rup 1 2 3),
    (0x5030_420C_4008_0000_0000_0000, .fma h .f32 .rne 1 2 3 4),
    (0x5040_420C_4009_0000_0000_0000, .fms h .f16 .rne 1 2 3 4),
    (0x5050_420C_400A_0000_0000_0000, .fnma h .bf16 .rne 1 2 3 4),
    (0x5060_420C_0009_0000_0000_0000, .fmin h .f16 1 2 3),
    (0x5070_420C_000A_0000_0000_0000, .fmax h .bf16 1 2 3),
    (0x5080_4200_0008_0000_0000_0000, .fabs h .f32 1 2),
    (0x5090_4200_0009_0000_0000_0000, .fneg h .f16 1 2),
    (0x50A0_420C_0038_0000_0000_0000, .fdiv h .f32 .rup 1 2 3),
    (0x50B3_CE00_0018_0000_0000_0000, .fsqrt h .f32 .rtz 15 14),
    (0x50C3_CE00_0018_0000_0000_0000, .frcp h .f32 .rtz 15 14),
    (0x50D3_CE00_0018_0000_0000_0000, .frsq h .f32 .rtz 15 14),
    (0x50E3_CE00_0018_0000_0000_0000, .fexp2 h .f32 .rtz 15 14),
    (0x50F3_CE00_0018_0000_0000_0000, .flog2 h .f32 .rtz 15 14),
    (0x5101_C20C_0349_0000_0000_0000, .fcmp h .ge .f16 true 7 2 3),
    (0x5110_4200_000A_0000_0000_0000, .fclass h .bf16 1 2),
    (0x5120_420C_0028_0000_0000_0000, .fscale h .f32 .rdn 1 2 3),
    (0x5137_C200_0008_0000_0000_0000, .fred h .f32 .rne 31 2),
    (0x5147_C200_0009_0000_0000_0000, .fredmax h .f16 31 2),
    (0x5157_C200_000A_0000_0000_0000, .fredmin h .bf16 31 2),
    (0x5167_C20C_0039_0000_0000_0000, .fdot h .f16 .rup 31 2 3)] = true := by decide +kernel

/-- Class 0x6. -/
theorem word_class6 : reads [
    (0x6000_420C_0011_0000_0000_0000, .vadd h .i16 true 1 2 3),
    (0x6010_420C_0012_0000_0000_0000, .vsub h .i32 true 1 2 3),
    (0x6020_420C_0015_0000_0000_0000, .vmul h .n16 true 1 2 3),
    (0x6030_420C_4006_0000_0000_0000, .vmad h .n32 false 1 2 3 4),
    (0x6040_420C_0008_0000_0000_0000, .vand h (.flt .f32) 1 2 3),
    (0x6050_420C_0009_0000_0000_0000, .vor h (.flt .f16) 1 2 3),
    (0x6060_420C_000A_0000_0000_0000, .vxor h (.flt .bf16) 1 2 3),
    (0x6070_4200_0022_0000_0000_001F, .vshl h .i32 (some 31) 1 2 0),
    (0x6080_4200_0022_0000_0000_001E, .vshr h .i32 (some 30) 1 2 0),
    (0x6090_4200_0022_0000_0000_001D, .vsar h .i32 (some 29) 1 2 0),
    (0x60A0_420C_0001_0000_0000_0000, .vmin h .i16 1 2 3),
    (0x60B0_420C_0006_0000_0000_0000, .vmax h .n32 1 2 3),
    (0x60C1_C20C_05C5_0000_0000_0000, .vcmp h .len .n16 true 7 2 3),
    (0x60D7_C200_0001_0000_0000_0000, .vred h .i16 31 2),
    (0x60E0_4000_0028_0000_3F80_0000, .vbcast h (.flt .f32) (some 0x3F800000) 1 0),
    (0x60F0_420C_4002_0000_0000_0000, .vperm h (.int .i32) 1 2 3 4),
    (0x6100_420C_7005_0000_0000_0000, .vsel h (.int .n16) 1 2 3 7),
    (0x6110_5F00_0001_0000_0000_000F, .vins h (.int .i16) 1 31 15),
    (0x6127_C200_0008_0000_0000_0007, .vext h (.flt .f32) 31 2 7),
    (0x6130_5C00_0000_0000_0000_0000, .vmovx h false 1 28),
    (0x6137_0100_0040_0000_0000_0000, .vmovx h true 1 28)] = true := by decide +kernel

/-- Class 0x7. -/
theorem word_class7 : reads [
    (0x7000_4200_0798_0000_0000_0000, .cvt h .f16 .f32 .rup true 1 2),
    (0x7010_4200_0068_0000_0000_0000, .cvti h .n32 .f32 .rne false 1 2),
    (0x7020_4200_01B1_0000_0000_0000, .cvtf h .e8m12 .i16 .rtz false 1 2),
    (0x7031_4600_048D_0000_0000_0000, .dec8 h .f32 .rne 1 5 6 false),
    (0x7041_C500_0CD8_0000_0000_0001, .enc8 h .f32 3 7 5 true),
    (0x7050_420C_0003_0000_0000_0000, .pack h true true 1 2 3),
    (0x7060_4200_000C_0000_0000_0000, .unpack h false false true true 1 2),
    (0x7070_4201_C12D_0000_0000_0040, .tblld h ⟨3, 0x82, .acq, .device⟩ .mem true 2 64),
    (0x7070_0000_0001_0002_0000_0000, .tblld h o .q52 false 0 0)] = true := by decide +kernel

/-- Class 0x8. -/
theorem word_class8 : reads [
    (0x8003_4A01_8101_8000_0000_0040, .ld h ⟨3, 2, .none, .core⟩ .d false 13 10 64),
    (0x8003_4A00_0030_4000_FFFF_FFFF, .ld h ⟨0, 0, .acq, .system⟩ .b true 13 10 0xFFFFFFFF),
    (0x8010_0A2F_FFC4_8000_0000_0002, .st h ⟨7, 0xFF, .rel, .cluster⟩ .h 10 11 2),
    (0x8023_CA00_8002_0000_0000_0020, .ldv h ⟨1, 0, .none, .core⟩ 15 10 32),
    (0x8030_0A3C_8002_0000_0000_0020, .stv h ⟨1, 0, .none, .core⟩ 10 15 32),
    (0x8047_CA00_0001_4000_0000_0000, .ldro h o .w true 31 10 0),
    (0x8050_4A08_0001_0001_0000_0004, .ldg h o true true 1 10 2 4),
    (0x8060_4A08_0000_8000_0000_0000, .sts h o false false 1 10 2 0),
    (0x8070_0A00_0000_0027_0000_0080, .pfx h .sl 7 10 128)] = true := by decide +kernel

/-- Class 0x9. -/
theorem word_class9 : reads [
    (0x9000_420C_0069_4008_0000_0004, .amo h ⟨0, 0, .acqrel, .die⟩ .swap false true 1 2 3 4),
    (0x9010_420C_0001_8000_0000_0000, .cas h o true false 1 2 3 0),
    (0x9020_420D_0000_0000_0000_0004, .wbr h ⟨2, 0, .none, .core⟩ 1 2 3 4),
    (0x9030_420D_8000_0000_0000_0004, .invr h ⟨3, 0, .none, .core⟩ 1 2 3 4),
    (0x9030_420D_8000_0001_0000_0004, .invrRo h ⟨3, 0, .none, .core⟩ 1 2 3 4),
    (0x9040_420E_0000_0000_0000_0004, .wbinvr h ⟨4, 0, .none, .core⟩ 1 2 3 4),
    (0x9050_420E_8000_0000_0000_0004, .zeror h ⟨5, 0, .none, .core⟩ 1 2 3 4),
    (0x9060_4200_0000_003F_0000_0080, .lockl h o 63 1 2 128),
    (0x9070_4200_0000_0000_FFFF_FF80, .unlockl h o 0 1 2 0xFFFFFF80)] = true := by decide +kernel

/-- Class 0xA. -/
theorem word_classA : reads [
    (0xA005_1559_0000_0000_0000_0000, .cpy h ⟨2, 0, .none, .core⟩ 0 20 21 22 0),
    (0xA015_1558_0000_000F_0000_0008, .cpyi h o 15 20 21 22 8),
    (0xA025_150C_0001_8003_0000_0000, .gather h o .d true true 20 21 3 0),
    (0xA035_150C_0002_0002_0000_0000, .scatter h o .v false true 20 21 3 0),
    (0xA040_1558_0000_0009_0000_0000, .halo h o 9 21 22 0),
    (0xA050_4008_0080_0000_0000_0000, .cpyq h ⟨0, 1, .none, .core⟩ 1 2)] = true := by decide +kernel

/-- Class 0xB. -/
theorem word_classB : reads [
    (0xB000_420C_004C_000F_0000_FFFF, .send h ⟨0, 0, .rel, .device⟩ 1 2 3 15 0xFFFF),
    (0xB010_020C_0001_8004_0000_0008, .sendi h o .d 2 3 4 8),
    (0xB020_4000_0000_0005_0000_0000, .cntrd h o 1 5),
    (0xB030_000C_0000_0015_FFFF_FFFF, .cntadd h o true 0 3 5 0xFFFFFFFF),
    (0xB040_000C_0000_0006_0000_0000, .cntset h o 3 6),
    (0xB050_420C_F000_0000_0000_0009, .wtset h 1 9 15 2 3),
    (0xB050_420C_F001_0000_0000_0009, .wtsetL h 1 9 15 2 3),
    (0xB050_420C_F002_0000_0000_0009, .wtsetS h 1 9 15 2 3),
    (0xB060_4000_0000_0000_0000_000F, .wtclr h 1 15),
    (0xB070_4200_0000_0000_0000_0040, .arm h o 1 2 64),
    (0xB080_4000_0000_0000_0000_001F, .disarm h 1 31),
    (0xB090_4200_0000_0000_0000_0080, .launch h o 1 2 128),
    (0xB0A0_4200_0000_0000_0000_0020, .exch h o 1 2 32),
    (0xB0B0_0200_0000_0000_0000_0000, .vote h 2),
    (0xB0C0_0200_0000_0000_0000_0000, .ttsel h 2),
    (0xB0D0_0200_0050_0000_0000_0040, .nsend h ⟨0, 0, .rel, .system⟩ 2 64)] = true := by decide +kernel

/-- Class 0xC. -/
theorem word_classC : reads [
    (0xC000_0000_00DB_0000_0000_0000, .mfmt h .e8m12 .q8),
    (0xC010_4200_0001_0000_0000_0040, .mtbl h o .mem true 2 64),
    (0xC010_0000_0001_0002_0000_0000, .mtbl h o .tb false 0 0),
    (0xC020_020C_0000_0000_0000_0000, .mring h 2 3),
    (0xC030_020C_0000_0000_0000_0010, .mlda h o 2 3 16),
    (0xC040_020C_0000_0000_0000_0010, .mldb h o 2 3 16),
    (0xC050_C000_0000_0000_0000_0000, .mma h 3),
    (0xC060_0000_0000_0000_0000_0000, .mmas h 0),
    (0xC070_0200_0000_0000_0000_0000, .mskip h 2),
    (0xC070_0000_0001_0000_0000_0000, .mskipOff h),
    (0xC080_0000_0000_0000_0000_0000, .mrot h),
    (0xC090_8000_0000_0000_0000_0000, .mzero h 2),
    (0xC0A0_420C_0000_001B_0000_0008, .mdrain h o .f40 .rdn true 1 2 3 8),
    (0xC0B0_0200_0000_0000_0000_0040, .mcmd h o 2 64),
    (0xC0C0_4000_0003_0000_0000_0000, .mcap h 1 3),
    (0xC0C0_4000_0004_0000_0000_0000, .mcapRev h 1),
    (0xC0D0_4300_0000_0000_0000_0000, .mstat h 1 3),
    (0xC0D0_4000_0001_0000_0000_0000, .mstatU h 1)] = true := by decide +kernel

/-- Class 0xD. -/
theorem word_classD : reads [
    (0xD000_4200_0000_0000_0000_0040, .kstage h o 1 2 64),
    (0xD000_400C_0000_0001_0000_0000, .kstageU h o 1 3),
    (0xD010_020C_0002_0000_0000_0020, .ksend h o 2 3 32),
    (0xD021_C20C_004E_0000_0000_0020, .ksendt h ⟨0, 0, .rel, .device⟩ 7 2 3 32),
    (0xD030_0000_0000_0000_0000_0000, .kyield h),
    (0xD040_0000_0000_0000_0000_0000, .kend h),
    (0xD050_4200_0000_0000_0000_0000, .kstatOcc h 1 2),
    (0xD050_4200_0001_0000_0000_0000, .kstatCnt h 1 2),
    (0xD060_4200_0000_0000_0000_0000, .kflush h 1 2)] = true := by decide +kernel

/-- Class 0xE. -/
theorem word_classE : reads [
    (0xE000_4200_0000_0000_0000_0000, .gnew h 1 2),
    (0xE010_4200_0000_0000_0000_0000, .gfree h 1 2),
    (0xE020_4200_0000_0000_0000_0000, .join h 1 2),
    (0xE030_4200_0000_0000_0000_0000, .leave h 1 2),
    (0xE041_C200_002C_0000_0000_0010, .trylk h ⟨0, 0, .acq, .device⟩ 7 2 16),
    (0xE050_0200_0040_0000_0000_0010, .unlk h ⟨0, 0, .rel, .core⟩ 0 2 16),
    (0xE061_C20C_0001_8000_0000_0040, .qpusht h o 7 2 3 64),
    (0xE070_4200_0001_8007_0000_0040, .qpopt h o 7 1 2 64),
    (0xE080_420C_006C_0000_0000_0080, .bararr h ⟨0, 0, .acqrel, .device⟩ 1 2 3 128),
    (0xE091_C20C_0000_0000_0000_0080, .bartry h o 7 2 3 128),
    (0xE0A0_0200_0000_0000_0000_0010, .parkLk h o 2 16),
    (0xE0A0_0200_0000_0001_0000_0010, .parkQn h o 2 16),
    (0xE0A0_0200_0000_0002_0000_0010, .parkQs h o 2 16),
    (0xE0A0_0200_0000_0004_0000_0010, .parkRp h o 2 16),
    (0xE0A0_020C_0000_0003_0000_0080, .parkBar h o 2 3 128),
    (0xE0B0_420C_0000_0000_0000_0000, .shgive h 1 2 3),
    (0xE0C0_4200_0000_0000_0000_0000, .shresv h 1 2),
    (0xE0D0_4200_0000_0000_0000_0000, .shrd h 1 2),
    (0xE0D0_4200_0001_0000_0000_0000, .shrdL h 1 2),
    (0xE0E0_4200_0000_0000_0000_0000, .oprd h 1 2)] = true := by decide +kernel

/-! ### Ill-formed terms -/

/-- One ill-formed term for each check of WellFormed.lean. -/
def illFormed : List Instr :=
  let rel : Ord := { o with sync := .rel }
  let acq : Ord := { o with sync := .acq }
  let wide : Ord := { o with scope := .system }
  [.illegal (1 <<< 84), .trapretMove h, .trapretEnd h, .dispatch 0,
   .shli h true 1 2 32, .shri h true 1 2 63, .sari h true 1 2 32, .lea h 1 2 3 false 6 0, .lea h 1 2 3 true 0 0,
   .fcmp h .lt .f32 true 1 2 3, .vcmp h .lt .i32 true 1 2 3, .vshl h .i16 (some 16) 1 2 0, .vshr h .n32 (some 1) 1 2 3, .vsar h .n16 (some 31) 1 2 0,
   .vbcast h (.int .i16) (some 65536) 1 0, .vbcast h (.flt .f32) (some 1) 1 2, .vins h (.int .i32) 1 2 8, .vext h (.int .n32) 1 2 15,
   .vmovx h true 1 2, .cvt h .f32 .f32 .rne true 1 2, .cvti h .i32 .f32 .rne true 1 2, .cvtf h .f16 .i16 .rne true 1 2,
   .dec8 h .f16 .rne 2 1 2 false, .enc8 h .bf16 3 1 2 true, .unpack h true true true false 1 2,
   .tblld h rel .mem true 1 0, .tblld h o .q43 true 1 0, .tblld h acq .q43 true 0 0, .ld h rel .w false 1 2 0, .ld h wide .w false 1 2 0,
   .ld h o .v false 1 2 0, .ld h o .d true 1 2 0, .st h acq .w 1 2 0, .st h o .v 1 2 0, .ldv h acq 1 2 0, .stv h rel 1 2 0,
   .ldro h acq .w false 1 2 0, .ldro h o .v false 16 2 0, .ldro h o .v true 1 2 0, .ldg h wide true true 1 2 3 0, .sts h rel true true 1 2 3 0,
   .amo h wide .add false false 1 2 3 0, .amo h o .add true true 1 2 3 0, .cas h wide false false 1 2 3 0, .cas h o true true 1 2 3 0,
   .wbr h acq 1 2 3 0, .invr h rel 1 2 3 0, .lockl h acq 1 2 3 0, .cpy h acq 1 2 3 4 0, .gather h rel .w true true 1 2 3 0, .halo h o 0 1 2 0, .halo h acq 15 1 2 0,
   .cpyq h acq 1 2, .send h acq 1 2 3 0 0, .sendi h o .v 1 2 3 0, .cntrd h acq 1 2, .cntadd h o true 1 2 3 0, .cntadd h acq false 1 2 3 0, .arm h acq 1 2 0,
   .nsend h { o with sync := .rel, scope := .cluster } 1 0, .mfmt h .i8 .f16, .mtbl h o .ta true 0 8, .mlda h acq 1 2 0, .mdrain h acq .f32 .rne false 0 1 2 0,
   .mcmd h acq 1 0, .mcap h 1 0, .kstage h acq 1 2 0, .kstageU h acq 1 2, .ksend h { o with sync := .rel } 1 2 0, .ksendt h acq 1 2 3 0, .trylk h rel 1 2 0,
   .unlk h acq 1 2 0, .qpusht h acq 1 2 3 0, .qpopt h rel 1 2 3 0, .bararr h acq 1 2 3 0, .bartry h rel 1 2 3 0, .parkLk h acq 1 0, .parkBar h acq 1 2 0]

theorem test_illFormed : illFormed.all (fun i => !wellFormed i) = true := by decide +kernel

/-! ### States for the tests -/

/-- The state in which the next step fetches the word 0. -/
def home : State := State.reset.withFetchWord 128 0

def slotOf (s : State) : SlotSt := (curSlot s).getD { task := 0 }
def taskOf (s : State) : TaskSt := (getTask s (slotOf s).task).getD { launch := 0, asid := 0 }

/-- Registers of the current slot set. -/
def regs (xs : List (Nat × Nat)) (s : State) : State :=
  modCur s fun q => xs.foldl (fun q e => q.setX e.1 (BitVec.ofNat 64 e.2)) q

/-- Page tables for ASID 0: 0x10000 coherent and writable, 0x20000 software-managed and writable, 0x30000 to read. -/
def mapped (s : State) : State := { s with
  mem := [(0x2000000, 0x2002001), (0x2002000, 0x2004001), (0x2004000, 0x2006001), (0x2006008, 0x3010009),
    (0x2006010, 0x3020089), (0x2006018, 0x3030001)].foldl (fun m e => wrNat m e.1 8 e.2) s.mem
  gw := { s.gw with root := [(0, ⟨0x2000000, 0⟩)] } }

/-- The checks of R75 let an instruction with a plain header have its effect. -/
def clear (s : State) (i : Instr) : Bool :=
  match curSlot s with
  | none => false
  | some sl => (getTask s sl.task).isSome && sl.poison.isEmpty && sl.hist.isEmpty && sl.mark.isNone &&
      (profile i).feats.all fun b => (getCore s s.core).feat.getLsbD b

/-- The premises of a statement about an instruction: it has its effect, and p holds of its slot, its task and the state
in which it has issued. -/
def meets (s : State) (i : Instr) (p : SlotSt → TaskSt → State → Bool := fun _ _ _ => true) : Bool :=
  clear s i && p (slotOf s) (taskOf s) (s.begun h i (slotOf s))

theorem runs_of_clear {s : State} {i : Instr} (hc : clear s i = true) : s.Runs h i (slotOf s) (taskOf s) := by
  unfold clear at hc
  split at hc
  · simp at hc
  · rename_i sl hs
    simp only [Bool.and_eq_true, List.isEmpty_iff, Option.isNone_iff_eq_none, List.all_eq_true] at hc
    obtain ⟨⟨⟨⟨ht, hp⟩, hh⟩, hm⟩, hf⟩ := hc
    obtain ⟨k, hk⟩ := Option.isSome_iff_exists.mp ht
    have e1 : slotOf s = sl := by simp [slotOf, hs]
    have e2 : taskOf s = k := by simp [taskOf, e1, hk]
    rw [e1, e2]
    exact runs_of hs hk hp hh rfl rfl rfl hm hf

/-- What `meets` says is what the statements assume. -/
theorem runs_of_meets {s : State} {i : Instr} {p : SlotSt → TaskSt → State → Bool} (hm : meets s i p = true) :
    s.Runs h i (slotOf s) (taskOf s) ∧ p (slotOf s) (taskOf s) (s.begun h i (slotOf s)) = true := by
  simp only [meets, Bool.and_eq_true] at hm
  exact ⟨runs_of_clear hm.1, hm.2⟩

/-- Every instruction that a word can hold has its effect at `home`, whose core has all the features of a worker. -/
theorem runs_home (i : Instr) : home.Runs h i (slotOf home) (taskOf home) := by
  apply runs_of_clear
  have hs : ∃ sl, curSlot home = some sl := Option.isSome_iff_exists.mp (by decide +kernel)
  obtain ⟨sl, hs⟩ := hs
  have h1 : ((getTask home (slotOf home).task).isSome && (slotOf home).poison.isEmpty && (slotOf home).hist.isEmpty &&
      (slotOf home).mark.isNone) = true := by
    decide +kernel
  have h2 : ∀ b, b < 6 → (getCore home home.core).feat.getLsbD b = true := by decide +kernel
  have e : slotOf home = sl := by simp [slotOf, hs]
  rw [e] at h1
  simp only [clear, hs, Bool.and_eq_true] at h1 ⊢
  exact ⟨h1, List.all_eq_true.mpr fun b hb => h2 b (feats_lt i b hb)⟩

/-! ### Witnesses: the premises of each statement are met, clause by clause

`runs_home` meets every premise that an instruction has its effect; what a clause asks beyond that stands below, by the
name of its statement. -/

def W : Nat := 0x00FFFFFFFFFF0000

/-- The current slot changed. -/
def slotWith (f : SlotSt → SlotSt) : State := modCur home f

/-- The state whose next step fetches ADD x8, x5, x7. -/
def adding : State := State.reset.withFetchWord 128 0x2002051C0000000000000000

/-- Home with a second resident of the same task in slot 2. -/
def twice (yielded : Bool) (last : Nat) : State := modCore home 0 fun k => { k with
  slots := [(0, slotOf home), (2, slotOf home)], yielded, last }

theorem wit_StepRunsDecoded_events :
    isEvent (.dispatch 0) = true ∧ isEvent (.nop h) = false ∧
    (home.late.isEmpty && !exchanging home && (home.groups.all fun e => !e.2.settled) && home.cores.all fun e => !e.2.freezing) = true ∧
    (home.cores.all fun e => e.2.slots.all fun x => match x.2.hold with | .sleep _ _ _ _ _ => false | _ => true) = true ∧ ∃ s : State, s.agenda = [.tick 5] :=
  ⟨rfl, rfl, by decide +kernel, by decide +kernel, { home with agenda := [.tick 5] }, rfl⟩

/-- The premises of a core's turn (R73 to R75) at a state. -/
def turns (s : State) (e : Instr) (word : BitVec 128) : Bool :=
  let sl := slotOf s
  let k := taskOf s
  let q := ageSlot sl
  decide ((getCore s 0).slots = [(0, sl)]) && !isHart 0 && decide (getTask s sl.task = some k) && decide (sl.hold = .none) &&
  sl.frozen.isNone && decide (sl.gap ≤ 1) && sl.preReq.isNone && !userIntReady s sl && clockRuns s 0 &&
  (boundsTrap s 0 q k).isNone &&
  (match blockFind s (clusterOf s 0) (fetchTag s 0 q k) (sl.pc.toNat / 64) with
   | some b => !b.bad && decide (b.word sl.pc.toNat = word) && decide (instrOf word = e)
   | none => false) &&
  (match hdrOf e with
   | some x => trapsEarly s 0 e || (!mustWait s 0 q e x && (strictMiss q k e x || shadowReady q x (profile e) (guardOff q x (profile e))))
   | none => true)

theorem wit_StepRunsDecoded_core :
    turns adding (.add h false 8 5 7) 0x2002051C0000000000000000 = true ∧ turns home (instrOf 0) 0 = true := by decide +kernel

theorem wit_StepRunsDecoded_choice :
    choose State.reset 0 = .idle ∧ (eligible home 0).map Prod.fst = [0] ∧ choose home 0 ≠ .idle ∧
    (eligible (twice true 0) 0).map Prod.fst = [0, 2] ∧ (eligible (twice false 2) 0).map Prod.fst = [0, 2] ∧
    (match choose (twice true 0) 0 with | .pick i _ => decide (i = 2) | .idle => false) = true ∧
    (getCore (twice false 2) 0).rr < 4 := by decide +kernel

theorem wit_EncodeDecode : wellFormed (.add h false 8 5 7) = true ∧ decode 0x2002051C0000000000000000 = .ok (.add h false 8 5 7) := by
  decide +kernel

theorem wit_StepKeepsMemOk : home.memOk = true ∧ (match step home with | .next _ => true | _ => false) = true := by decide +kernel

/-- A poisoned x5 in the current slot; strict hints with a latch that no operand of ADD names. -/
def poisoned : State := slotWith fun q => q.setPoison (.x 5) 0x1234
def noFeature : State := modCore home 0 fun k => { k with feat := 0x003E }
def offGuard : Hdr := { h with guard := 1 }
def strict : State := slotWith fun q => { q with strict := true, level := (taskOf home).level0, latC := some ⟨.x 9, 0, true⟩ }
def stale : Hdr := { h with reuse := 1 }

theorem wit_IssueChecks :
    (profile (.fadd h .f32 .rne 1 2 3)).feats = [0] ∧ (getCore noFeature 0).feat.getLsbD 0 = false ∧
    (slotOf poisoned).poisoned (physRegs false (profile (.add h false 8 5 7)).sources) = some 0x1234 ∧
    (slotOf (slotWith fun q => q.setPoison (.p 1) 0x1234)).poisoned (physRegs false [.p 1]) = some 0x1234 ∧
    guardOff (slotOf home) offGuard (profile (.add offGuard false 8 5 7)) = true ∧
    hintKind (slotOf strict) stale (profile (.add stale false 8 5 7)) false ≠ 0 ∧
    (slotOf strict).strict = true ∧ (slotOf strict).level = (taskOf strict).level0 := by decide +kernel

/-- A power of two stands for itself, in the range that t names; as a rounded value it lies above, at, and below the ends
of a format's range according to t. -/
theorem wit_FloatArithmetic_rounding (t : Int) : let r : ℝ := (2 : ℝ) ^ t
    ((1 : ℕ) : ℝ) * (2 : ℝ) ^ t ≤ r ∧ r < ((1 + 1 : ℕ) : ℝ) * (2 : ℝ) ^ t ∧ (2 : ℝ) ^ t ≤ r ∧ r < (2 : ℝ) ^ (t + 1) ∧
    ((2 : ℝ) ^ (fmtF32.bias + 1) ≤ r ↔ fmtF32.bias + 1 ≤ t) ∧ (r < (2 : ℝ) ^ (1 - fmtF32.bias) ↔ t < 1 - fmtF32.bias) := by
  have h1 : (1 : ℝ) < 2 := by norm_num
  have h0 : (0 : ℝ) < (2 : ℝ) ^ t := by positivity
  refine ⟨by simp, by push_cast; linarith, le_refl _, ?_, zpow_le_zpow_iff_right₀ h1, zpow_lt_zpow_iff_right₀ h1⟩
  exact zpow_lt_zpow_right₀ h1 (by omega)

theorem wit_FloatArithmetic_values :
    fmtF40 ∈ [fmtF32, fmtF16, fmtBF16, fmtE8M12, fmtF40] ∧ fmtF16.sub ≠ fmtE8M12.sub ∧ 0x7FFFFF < 2 ^ fmtF32.fb ∧
    255 < 2 ^ fmtF32.eb ∧ (FVal.nan true).isNan = true ∧ (-2 ^ 31 : Int) ≤ 0 ∧ (2 ^ 32 - 1 : Int) < 2 ^ 32 := by decide +kernel

theorem wit_LaneMoves : (15 : BitVec 4).toNat < 256 / LTy.bits (.int .i16) ∧ (7 : BitVec 4).toNat < 256 / LTy.bits (.int .n32) ∧
    (28 : XReg).val % 4 = 0 ∧ (31 : XReg).val % 4 ≠ 0 := by decide +kernel

theorem wit_Conversions : halfOk 32 16 true = true ∧ halfOk 16 32 true = true ∧ halfOk 32 32 false = true ∧
    grpOk 32 3 = true ∧ grpOk 16 1 = true := by decide +kernel

/-- Entries of every kind; a table without a finite value; and places of a value among those of Q43. -/
theorem wit_Conversions_tables :
    ((List.range 4).map fun n => (BitVec.ofNat 32 (n * 2 ^ 30 + 5)).extractLsb' 30 2) = [0, 1, 2, 3] ∧
    ((DecTable.img []).order.all fun c => (DecTable.img (List.replicate 256 0x40000000)).value c = qNaN) = true ∧
    (DecTable.q43.order.filter fun c => match DecTable.q43.value c with
      | .fin _ _ _ => true
      | .nan _ => false
      | .inf _ => false).length = 254 + 1 ∧
    DecTable.q43.value 0x7F = .fin false 7680 (-4) ∧ DecTable.q43.value 0xFF = .fin true 7680 (-4) ∧
    ((25 * (2 : ℝ) ^ (0 : Int) : ℝ) < 7680 * (2 : ℝ) ^ (-4 : Int)) ∧ (-1 * (7680 * (2 : ℝ) ^ (-4 : Int)) < (25 * (2 : ℝ) ^ (0 : Int) : ℝ)) ∧
    ((7680 * (2 : ℝ) ^ (-4 : Int) : ℝ) < 500 * (2 : ℝ) ^ (0 : Int)) ∧ (-1 * (500 * (2 : ℝ) ^ (0 : Int)) < -1 * (7680 * (2 : ℝ) ^ (-4 : Int) : ℝ)) := by
  refine ⟨by decide +kernel, by decide +kernel, by decide +kernel, by decide +kernel, by decide +kernel, ?_, ?_, ?_, ?_⟩ <;> norm_num

/-- A slot at a level. -/
def levelled (n : BitVec 2) : State := slotWith fun q => { q with level := n }

theorem wit_ControlRegisterReads :
    meets (levelled 2) (.crrd h 5 .fwvec) (fun sl k _ => (levelled 2).slot < 4 && k.layer < 4 && 2 ≤ sl.level.toNat) = true ∧
    meets (levelled 1) (.crrd h 5 .tvec) (fun sl _ _ => sl.level ≠ 0) = true ∧
    meets home (.crrd h 5 .shares) (fun _ k _ => (getGroup home k.group).any fun g => inSum g < 2 ^ 21 && g.resv < 2 ^ 21 && g.own < 2 ^ 21) = true ∧
    meets home (.crrd h 5 .opnow) (fun _ _ _ => !isControl home.core && !isHart home.core && (getCore home home.core).op < 8 &&
      (getCore home home.core).target < 8) = true ∧ isControl (4096 * 63) = true := by decide +kernel

theorem wit_ControlRegisterWrites :
    ([CReg.hintctl, .fpstat, .uepc, .uvec, .tstat, .slhash, .upcode, .uplimit].all fun r => meets (levelled 0) (.crset h 5 6 r)) = true ∧
    ([CReg.tvec, .uvec, .tframe, .waymask, .rtcode, .rtlimit].all fun r => meets (levelled 1) (.crwr h 6 r)) = true ∧
    ([CReg.slhash, .fwvec, .fwframe].all fun r => meets (levelled 2) (.crclr h 5 6 r)) = true := by decide +kernel

theorem wit_PrivilegedInstructionsTrap :
    ([Instr.crrd h 5 .tvec, .crwr h 6 .tframe, .crset h 5 6 .waymask, .crclr h 5 6 .rtcode, .crrd h 5 .rtlimit, .trapret h,
      .trapretMove h, .trapretEnd h].all fun i => meets (levelled 0) i fun sl _ _ => sl.level = 0) = true ∧
    ([Instr.crrd h 5 .fwvec, .crwr h 6 .fwframe, .halt h].all fun i => meets (levelled 1) i fun sl _ _ => sl.level.toNat < 2) = true ∧
    meets home (.upret h) (fun sl _ _ => !sl.inh) = true := by decide +kernel

theorem wit_FirmwareTrapEntry :
    meets (levelled 1) (.brk h 5) (fun sl _ _ => (levelled 1).memOk && sl.ops.isEmpty && sl.level ≠ 0) = true ∧
    meets home (.trap h 5) (fun sl _ _ => sl.level = 0 && (getCore home 0).tvec.extractLsb' 4 52 = 0) = true ∧
    (match decode (1#128 <<< 127 ||| 0xF#128 <<< 92) with | .error _ => true | .ok _ => false) = true ∧
    decode 7 = .ok (.illegal 7) := by decide +kernel

/-- A core whose runtime handler and frames are set, the frames at the start of its local window. -/
def handled : State := modCore home 0 fun k => { k with tvec := 0x9000, tframe := BitVec.ofNat 64 W }

theorem wit_RuntimeTrapEntry :
    meets handled (.brk h 5) (fun sl _ _ => handled.memOk && sl.ops.isEmpty && sl.level = 0 &&
      (getCore handled 0).tvec.extractLsb' 4 52 ≠ 0 && W ≤ 2048 * ((getCore handled 0).tframe.extractLsb' 11 45).toNat + 512 * handled.slot &&
      handled.slot < 4) = true ∧
    (∃ sl : SlotSt, slotAt handled 0 0 = some sl) ∧
    (match decode (1#128 <<< 127 ||| 0xF#128 <<< 92) with | .error _ => true | .ok _ => false) = true := by
  refine ⟨by decide +kernel, Option.isSome_iff_exists.mp (by decide +kernel), by decide +kernel⟩

theorem wit_TrapReturn :
    (let ret (s : State) : Nat := rdNat s.mem (2048 * ((getCore s 0).fwframe.extractLsb' 11 45).toNat + 512 * s.slot + 56) 8
     let asks (n : Nat) : State := { levelled 2 with mem := wrNat (levelled 2).mem 56 8 n }
     let ok (s : State) : Bool := meets s (.trapret h) fun sl _ _ => sl.ops.isEmpty && sl.saveWait.isNone && sl.level = 2 && !memBad s 128 64
     ok (levelled 2) = true ∧ ret (levelled 2) = 0 ∧ ok (asks (1 + 2 ^ 25)) = true ∧ ret (asks (1 + 2 ^ 25)) % 4 = 1 ∧
     ok (asks 2) = true ∧ ret (asks 2) % 4 = 2 ∧ rdNat (asks 3).mem 24 8 / 16 % 2 = 0 ∧
     -- a user-level handler that is cut, by each disposition, with an interrupt and an upcall
     ([(1, false), (2 + 2 ^ 25, false), (3, true)].all fun x =>
       let s : State := modCur { asks x.1 with mem := wrNat (asks x.1).mem 24 8 16 } fun q => { q with upcall := x.2, handlers := if x.2 then [] else [(0x40, 3)] }
       meets s (.trapret h) (fun sl _ _ => sl.ops.isEmpty && sl.saveWait.isNone && sl.level = 2) && ret s % 4 ≠ 0 && rdNat s.mem 24 8 / 16 % 2 = 1) = true) := by
  decide +kernel

/-- A runtime handler whose frame lies at an address, entered from a user-level handler that runs on its shadow bank. -/
def inRuntime (frame : Nat) : State :=
  modCore (modCur (mapped home) fun q => { q with level := 1, bank := true }) 0 fun k => { k with tvec := 0x9000, tframe := BitVec.ofNat 64 frame }

theorem wit_TrapReturn_runtime :
    ([Instr.trapret h, .trapretMove h, .trapretEnd h].all fun i =>
      let rt (s : State) : Nat := 2048 * ((getCore s 0).tframe.extractLsb' 11 45).toNat + 512 * s.slot
      let ok (s : State) : Bool := meets s i fun sl _ _ => sl.ops.isEmpty && sl.saveWait.isNone && sl.level = 1 && s.slot < 4
      -- in the local window, and in memory, every part of the frame there and not poisoned
      ok (inRuntime W) && W ≤ rt (inRuntime W) && (getCore (inRuntime W) 0).lpoison.isEmpty && rdNat (getCore (inRuntime W) 0).lmem 56 8 % 4 = 0 &&
      (let s := inRuntime 0x20000
       let mask := some (getCore s 0).waymask
       ok s && rt s = 0x20000 && match locate (setHold (s.begun h i (slotOf s)) 0 0 (.returning (wordOf i))) 0 0 0x20000 128 .read with
        | .error _ => false
        | .ok (u1, l1) => match readLocs u1 0 false mask l1 with
          | (u2, b1, p1) => p1.all (fun b => !b) && match locate u2 0 0 0x20080 64 .read with
            | .error _ => false
            | .ok (u3, l2) => match readLocs u3 0 false mask l2 with
              | (u4, b2, _) => wordAt (b1 ++ b2) 7 % 4 = 0 && (List.range 8).all fun j => match locate u4 0 0 (0x20080 + 8 * j) 8 .read with
                | .ok (v, ls) => (readLocs v 0 false mask ls).2.2.all fun b => !b
                | .error _ => false)) = true := by
  decide +kernel

/-- A slot that sleeps on counter 3. -/
def asleep : State := slotWith fun q => { q with hold := .sleep 3 0 0 0xFFFFFFFF 5 }

theorem wit_SleepAndUserReturn :
    meets (slotWith fun q => { q with inh := true }) (.upret h) (fun sl _ _ => sl.inh) = true ∧
    meets home (.sleep h 5 3 6 0xFFFFFFFF) (fun sl _ g => ((getCore g 0).ctrs[3]?).getD 0 = (sl.x 6).setWidth 32) = true ∧
    meets (regs [(6, 1)] home) (.sleep h 5 3 6 0) (fun sl _ g => ((getCore g 0).ctrs[3]?).getD 0 ≠ (sl.x 6).setWidth 32) = true ∧
    (slotAt asleep 0 0).map (fun sl => sl.hold) = some (.sleep 3 0 0 0xFFFFFFFF 5) := by decide +kernel

/-- An operation of the current slot on local memory. -/
def opOf (kind : OpKind) : MemOp := { id := 7, stream := 0, spans := [], deps := [], pc := 0, sync := .none, scope := .core, kind }
def busy (kind : OpKind) : State := slotWith fun q => { q with ops := [opOf kind] }

theorem wit_TaskEnd :
    (getTask home 0).map (fun k => (k.place, k.coro)) = some (.resident 0 0, none) ∧
    (match getGroup home (taskOf home).group with
     | some g => (match g.origin with | .gnew _ => false | _ => true) && !stageNames home (taskOf home).group
     | none => false) = true ∧
    home.tasks.length = 1 ∧ home.edges = [] ∧
    meets home (.endTask h) (fun sl _ _ => sl.ops.isEmpty && sl.saveWait.isNone) = true ∧
    meets (busy (.cntrd 0 5)) (.endTask h) (fun sl _ _ => !sl.ops.isEmpty) = true ∧
    meets (levelled 2) (.halt h) (fun sl k _ => sl.level = 2 && sl.ops.isEmpty && sl.saveWait.isNone && k.coro.isNone &&
      k.place = .resident 0 0 && (levelled 2).slot < 4 && (getCore (levelled 2) 0).queue.isEmpty) = true := by decide +kernel

/-- The launch of home saves at 0x20000, where ASID 0 may write. -/
def saving (f : SlotSt → SlotSt) : State :=
  let s := mapped (slotWith f)
  { s with launches := s.launches.map fun e => (e.1, { e.2 with r := { e.2.r with save := 0x20000 } }) }
def armedState : State := modCore (saving fun q => { q with hold := .wtSave 2 0x20400 }) 0 fun k => { k with
  wt := [(2, { ctr := 3, thresh := 1, recVa := 0x20400, task := some 0 })] }

theorem wit_SavedTasks :
    (let s := saving id
     let sl := slotOf s
     let k := taskOf s
     match writeRecord (saveCmds s 0) 0 { sl, pc := sl.pc, origin := 1, ext := true, group := k.group, prio := k.prio, feat := k.feat, pin := pinNow s 0 k, snap := snap48 s 0, handles := handleWords s 0 } (saveSlot s k) with
     | .ok _ => true
     | .error _ => false) = true ∧
    ((slotAt armedState 0 0).map fun sl => (sl.hold, sl.ops, sl.saveWait.isNone)) = some (.wtSave 2 0x20400, [], true) ∧
    (tget (getCore armedState 0).wt 2).isSome = true ∧ (taskOf armedState).coro = none ∧
    (match savePark (setHold armedState 0 0 .none) 0 0 (slotOf armedState).pc ⟨0, 0x20400⟩ with
     | .done _ => true
     | _ => false) = true ∧
    (handleWords home 0).length = 8 ∧ (2 ^ 56 - 16 : Nat) < 2 ^ 56 := by decide +kernel

theorem wit_PrefetchRequests :
    meets home (.ipf h 15 4) (fun _ k g => (tget g.launches k.launch).isSome) = true := by decide +kernel

/-- The places that an access meets: none of its parts poisoned, or, if bad, the first one. -/
def reaches (x : Nat) (i : Instr) (n : Nat) (acc : Acc4) (refuses : Bool := true) (bad : Bool := false) (s : State := mapped home) : Bool :=
  meets (regs [(6, x)] s) i fun sl _ g => match reachEa g (sl.x 6) n acc refuses with
    | .ok (u, l) => (opDeps u sl.task o [(x, n)]).isEmpty && (if bad then (wordParts x n).take 1 else wordParts x n).all fun p =>
        (coreRead u u.core false (l.plus p.1) p.2 none).2.2 = bad && (pointRead u u.core (l.plus p.1) p.2 none).2.2 = bad
    | .error _ => false
def refused (x : Nat) (i : Instr) (n : Nat) (acc : Acc4) : Bool :=
  meets (regs [(6, x)] (mapped home)) i fun sl _ g => match reachEa g (sl.x 6) n acc with
    | .error (.trap _) => true
    | _ => false

theorem wit_AccessIssue :
    ([W, W + 65528, 0x10000, 0x20008, 0x30008].all fun x => reaches x (.ld h o .d false 5 6 0) 8 .read &&
      reaches x (.ldro h o .d false 5 6 0) 8 .read) = true ∧
    ([W, W + 65504, 0x10000, 0x1FFE0, 0x2FFE0].all fun x => reaches x (.st h o .b 6 5 0) 1 .write && reaches x (.ldv h o 5 6 0) 32 .read &&
      reaches x (.stv h o 6 5 0) 32 .write && reaches x (.ldro h o .v false 5 6 0) 32 .read &&
      reaches x (.amo h o .max false true 5 6 7 0) 4 .rmw && reaches x (.cas h o true false 5 6 7 0) 8 .rmw) = true ∧
    ([W + 1, 2 ^ 56, 2 ^ 64 - 8].all fun x => refused x (.ld h o .d false 5 6 0) 8 .read) = true ∧
    refused 0x30000 (.cas h o true false 5 6 7 0) 8 .rmw = true ∧
    -- poison in local memory and at a slice, with nothing ordered before the access
    reaches W (.ld h o .w false 5 6 0) 4 .read true true (lmPoison (mapped home) 0 0 4) = true ∧
    reaches 0x10004 (.amo h o .add false false 5 6 7 0) 4 .rmw true true (memPoison (mapped home) 0x3010004 4) = true ∧
    -- lanes of a gather in the window, and one past its end
    (let near (x : Nat) (sc : Bool) : Bool := meets (regs [(6, x)] home) (.ldg h o true sc 5 6 7 0) fun sl _ g =>
       (List.range 8).all fun j => let a := sl.x 6 + BitVec.ofNat 64 ((laneOf 32 (sl.v 7) j).toNat)
         a.toNat % 4 = 0 && W ≤ a.toNat && a.toNat < 2 ^ 56 && !(lmRead g 0 (a.toNat - W) 4).2
     near W false = true ∧ near (W + 65532) true = true ∧ near (W + 2) false = false ∧ near (W - 4) false = false) := by decide +kernel

theorem wit_AddressTranslation :
    home.slot < 4 ∧ isHart home.core = false ∧ 128 % 32 = 0 ∧ 128 % 1 = 0 ∧
    (match translate (mapped home) 0 0x30000 with | .ok (_, p) => !p.w && !p.x | .error _ => false) = true ∧
    (match translate (mapped home) 0 0x20000 with
     | .ok (u, p) => p.w && p.swm && u.presence.isEmpty
     | .error _ => false) = true ∧
    -- the line under a second tag, one of the two writable
    (match Machine.translate { mapped home with presence := [⟨0x3010000 / 128, 5, 7, false⟩] } 0 0x10000 with
     | .ok (u, p) => p.w && u.presence.any fun e => e.pline = p.addr 0x10000 / 128 && e.asid ≠ 0
     | .error _ => false) = true ∧
    -- a guest's ASID whose stage two has no tables
    (match Machine.translate { mapped home with gw := { home.gw with root := [(0, ⟨0x2000000, 1⟩)] } } 0 0x10000 with
     | .error (.stage2 _ n) => n
     | _ => 0) = 1 ∧
    ([0x50000, 0x4000000, 2 ^ 36, 2 ^ 46].map fun va => match translate (mapped home) 0 va with
      | .error (.level n) => n
      | _ => 0) = [4, 3, 2, 1] ∧
    tget (mapped home).gw.root 0 = some ⟨0x2000000, 0⟩ := by decide +kernel

/-- The operation of a busy state is ready. -/
def readyOp (kind : OpKind) : Bool :=
  let s := busy kind
  residence s 0 = some (0, 0) && (slotAt s 0 0).isSome && (getTask s 0).isSome && findOp s 0 7 = some (opOf kind) &&
    opReady s 0 (opOf kind) && s.memOk && !(lmRead s 0 64 64).2

/-- The slot of a state able to go back to the operation `id`. -/
def canUndo (s : State) (id : Nat := 7) : State := modCur s fun q => { q with undo := [{
  id, word := 0, pc := q.pc, xs := q.xs, vs := q.vs, ps := q.ps, poison := [], fpstat := 0, misses := 0, lastkind := 0, scopemiss := false, xlast := 0 }] }

/-- An operation that waits on another. -/
def queued : State := slotWith fun q => { q with ops := [{ opOf (.cntrd 0 5) with id := 6 }, { opOf (.cntrd 0 5) with deps := [6] }] }
/-- The operation of a task that is saved, detached from its slot. -/
def detachedOp : State := modTask (delSlot home 0 0) 0 fun k =>
  { k with place := .saved 0 ⟨0, 0x20000⟩, kept := some (0, ⟨0, 0x20000⟩), detached := [opOf (.cntrd 0 5)] }

theorem wit_MemoryPipeline :
    residence home 0 = some (home.core, home.slot) ∧ readyOp (.cntrd 0 5) = true ∧
    (findOp queued 0 7).isSome = true ∧ opReady queued 0 { opOf (.cntrd 0 5) with deps := [6] } = false ∧
    -- a store behind a load that would meet poison, and behind one that would not
    ([true, false].map fun bad =>
      let s := canUndo (slotWith fun q => { q with ops := [{ opOf (.load false (.loc 0 64) 4 false 5) with id := 6, spans := [(W + 64, 4)] }, opOf (.store (.loc 0 0) 4 0)] }) 6
      opReady (if bad then lmPoison s 0 64 4 else s) 0 (opOf (.store (.loc 0 0) 4 0))) = [false, true] ∧
    -- a register that a KSENDT's predicate has reached, read as the guard of an instruction that is queued
    (let s := slotWith fun q => { q with flow := [(.p 1, 300), (.x 5, 300)] }
     (profile (.ld offGuard o .d false 8 5 0)).sources = [.x 5] ∧ (300 : Nat) ∈ ((slotOf s).started offGuard (.ld offGuard o .d false 8 5 0) 7).fed) ∧
    residence detachedOp 0 = none ∧ findOp detachedOp 0 7 = some (opOf (.cntrd 0 5)) ∧
    opReady detachedOp 0 (opOf (.cntrd 0 5)) = true := by decide +kernel

theorem wit_LocalResults : ([1, 2, 4, 8].all fun n => readyOp (.load false (.loc 0 64) n true 5) && readyOp (.store (.loc 0 64) n 0xFF) &&
    readyOp (.amo (.loc 0 64) .swap n false 1 5) && readyOp (.cas (.loc 0 64) n false 0 9 5) && readyOp (.cas (.loc 0 64) n false 1 9 5)) = true ∧
    0 < mailBase := by decide +kernel

theorem wit_LocalLaneResults :
    readyOp (.loadV false (.loc 0 64) 0x81 15) = true ∧ readyOp (.storeV (.loc 0 64) 0xFF 1) = true ∧
    readyOp (.gatherL 0 4 [(0, 64), (7, 96)] 5) = true ∧ readyOp (.gatherL 0 2 [(0, 64), (1, 66), (14, 64), (15, 96)] 5) = true ∧
    ([0, 1, 14, 15].map fun j => j ^^^ 1) = [1, 0, 15, 14] ∧
    readyOp (.scatterL 0 4 [(0, 64, 1), (1, 64, 2)]) = true := by decide +kernel

theorem wit_StoreThenLoad :
    (let s := mapped home
     let g (swm : Bool) : Seg := ⟨0x10078, 0x3010078, 8, swm, 0, true⟩
     s.memOk = true ∧ uncached 0 = false ∧ uncached (4096 * 56) = true ∧ (g true).len = 8 ∧ (g true).va % 128 + 8 = 128 ∧
     (g false).pa % 128 = (g false).va % 128 ∧ (getCluster s (clusterOf s 0)).near = [] ∧
     -- with the line present from an earlier store, under its own tag and at its own address
     (getCluster (coreWrite s 0 (.glob 0 (g true)) [1, 2, 3, 4, 5, 6, 7, 8] none) (clusterOf s 0)).near.map
       (fun l => (l.swm, l.asid, l.line, l.pa)) = [(true, 0, 0x10078 / 128, 0x3010078 / 128 * 128)]) := by decide +kernel

/-- The places that an instruction's range reaches, none of them poisoned, or a byte of them, with nothing ordered before. -/
def ranges (x : Nat) (i : Instr) (len al : Nat) (refuses : Bool) (bad : Bool := false) (s : State := mapped home) : Bool :=
  meets (regs [(6, x)] s) i fun sl _ g => match reachRange g (sl.x 6) len al .read refuses with
    | .ok (u, ls) => !ls.isEmpty && (opDeps u sl.task o [(x, len)]).isEmpty &&
        (rangeBad (fun l n => (coreRead u u.core false l n none).2.2) ls 0).isSome = bad
    | .error _ => false

/-- The blocks of 64 bytes that an instruction reads, none of them poisoned. -/
def blocks (x : Nat) (i : Instr) (n : Nat) : Bool :=
  meets (regs [(6, x)] (mapped home)) i fun sl _ g => match reachBlocks g (sl.x 6) n with
    | .ok (u, ls) => ls.length = n && (opDeps u sl.task o [(x, 64 * n)]).isEmpty &&
        (rangeBad (fun l n => (coreRead u u.core false l n none).2.2) (ls.map fun l => (l, 64)) 0).isNone
    | .error _ => false

theorem wit_DecodeTableLoad :
    meets home (.tblld h o .q43 false 6 0) = true ∧ meets home (.tblld h o .q52 true 6 0) = true ∧
    ranges 0x10000 (.tblld h o .mem false 6 0) 1024 64 true = true ∧ ranges (W + 64512) (.tblld h o .mem true 6 0) 1024 64 true = true ∧
    ranges W (.tblld h o .mem true 6 0) 1024 64 true true (lmPoison (mapped home) 0 1020 4) = true ∧
    readyOp (.tblld [.loc 0 64512] true) = true ∧
    -- poison met before the slot is past the operation, and after
    (let s := lmPoison (busy (.tblld [.loc 0 64512] true)) 0 65532 4
     let m := opOf (.tblld [.loc 0 64512] true)
     (lmRead s 0 64512 1024).2 = true ∧ opReady s 0 m = true ∧ (slotOf s).undo = [] ∧
     opReady (canUndo s) 0 m = true ∧ ((slotOf (canUndo s)).undo.map fun u => u.id) = [7] ∧
     (poisonPerformed (passOlder (canUndo s) 0 m) 0 m .read (W + 65532)).isSome = true) ∧
    (lmRead home 0 64512 1024).2 = false ∧ (lmRead (lmPoison home 0 65532 4) 0 64512 1024).2 = true := by decide +kernel

/-- What a region instruction's range comes to: misaligned, empty, reached, or stopped by dirty poisoned bytes. -/
def region (s : State) (i : Instr) (acc : Acc4) : Nat :=
  let sl := slotOf s
  let g := s.begun h i sl
  if !clear s i then 0
  else if (sl.x 6).toNat % 4 ≠ 0 || (sl.x 7).toNat % 4 ≠ 0 then 1
  else if sl.x 7 = 0 then 2
  else match regionLocs g (sl.x 6) (sl.x 7) acc with
    | .ok (u, ls) => if (dirtyBad u s.core ls).isSome then 3 else 4
    | .error _ => 5

/-- A line of a software-managed page whose bytes are all dirty, and one of a coherent page. -/
def lined (swm : Bool) (poison : BitVec 32) : State :=
  let s := mapped home
  modCluster s (clusterOf s 0) fun u => { u with near := [{
    asid := 0
    line := if swm then 0x400 else 0x200
    pa := if swm then 0x3020000 else 0x3010000
    swm
    cls := 0
    valid := 0xFFFFFFFF
    dirty := BitVec.allOnes 128
    data := 5
    poison }] }

/-- A state whose slices hold the translations of addresses of ASID 0. -/
def resident (vas : List Nat) (s : State) : State :=
  vas.foldl (fun s va => match translate s 0 va with | .ok (u, _) => u | .error _ => s) s

/-- The slices hold the translation of every part of a range, writable. -/
def held (s : State) (ea n : Nat) : Bool := (partsOf ea n).all fun p =>
  match tlbFind s (sliceOf s.gw.slhash (p.1 / 128)) 0 p.1 with
  | some e => e.w && !memBad s (e.addr p.1) 128
  | none => false

theorem wit_RegionIssue :
    ([(W + 2, 8), (0x10000, 0), (0x20000, 256), (W, 65536), (0x2FF80, 128)].map fun x =>
      region (regs [(6, x.1), (7, x.2)] (mapped home)) (.wbr h o 5 6 7 0) .read) = [1, 2, 4, 4, 4] ∧
    region (regs [(6, 0x20000), (7, 128)] (lined true 1)) (.wbinvr h o 5 6 7 0) .read = 3 ∧
    region (regs [(6, W + 65532), (7, 4)] home) (.zeror h o 5 6 7 0) .write = 4 ∧
    (opDeps (mapped home) 0 o [(0x20000, 128)]) = [] ∧
    -- a range of several lines that the slices translate, with dirty bytes none of which is poisoned
    (let s := resident [0x20000, 0x20080] (regs [(6, 0x20004), (7, 132)] (lined true 0))
     held s 0x20004 132 = true ∧ (partsOf 0x20004 132).length = 2 ∧ (taskOf s).asid = 0 ∧
     ((getCluster s (clusterOf s s.core)).near.all fun l => l.dirty ≠ 0 && l.poison = 0) = true ∧ s.mpoison = [] ∧
     ([Instr.wbr h o 5 6 7 0, .invr h o 5 6 7 0, .invrRo h o 5 6 7 0, .wbinvr h o 5 6 7 0, .zeror h o 5 6 7 0].all fun i => clear s i) = true) ∧
    -- their operations, to be performed
    (let g : Loc := .glob 0 ⟨0x20000, 0x3020000, 128, true, 0, true⟩
     ([OpKind.wbr [g] 4 5, .wbinvr [g] 4 5, .invr false [g] 4 5, .invr true [g] 4 5, .zeror [g] 4 5].all readyOp) = true ∧
     dirtyBad home 0 [g] = none ∧ dirtyBad (lined true 0) 0 [g] = none ∧ zeroBad home 0 [g] = none ∧
     -- dirty words poisoned, and zeros beside poisoned words of a line that a slice would fill
     dirtyBad (lined true 1) 0 [g] ≠ none ∧ (slotOf (lined true 1)).undo = [] ∧
     zeroBad (memPoison (mapped home) 0x3010040 4) 0 [.glob 0 ⟨0x10000, 0x3010000, 4, false, 0, true⟩] ≠ none) := by decide +kernel

theorem wit_RegionIssue_locks :
    (let s := regs [(6, 0x10000)] (mapped home)
     let locks (i : Instr) (lock : Bool) : Bool := meets s i fun sl k g =>
       match xlateParts g k.asid .read (partsOf (sl.x 6).toNat 256) with
       | .ok (u, gs) => (lockBad u lock (some (getCore u 0).waymask) (gs.map fun g => .glob k.asid g)).isNone
       | .error _ => false
     locks (.lockl h o 1 5 6 0) true = true ∧ locks (.unlockl h o 1 5 6 0) false = true ∧
     held (resident [0x10000, 0x10080] s) 0x10000 256 = true ∧ clear (resident [0x10000, 0x10080] s) (.lockl h o 1 5 6 0) = true ∧
     clear (resident [0x10000, 0x10080] s) (.unlockl h o 1 5 6 0) = true) ∧
    -- lines in their turn: the last one, and one before it
    (let g (n : Nat) : Loc := .glob 0 ⟨0x10000 + 128 * n, 0x3010000 + 128 * n, 128, false, 0, true⟩
     readyOp (.lockl true [g 0] 0 0 5) = true ∧ readyOp (.lockl false [g 0, g 1] 0 0 5) = true ∧
     lockBad home true none [g 0] = none ∧ lockBad home false none [g 0, g 1] = none) ∧
    -- a line locked, one that no way can take, and one unlocked
    (let s := { mapped home with slices := (below 256).map fun i => (i, { quota := [(0, 1)] }) }
     let g : Seg := ⟨0x10000, 0x3010000, 128, false, 0, true⟩
     (lockLine s true (some (BitVec.allOnes 64)) 0 g).2 = false ∧ (lockLine s true (some 0) 0 g).2 = true ∧
     (lockLine (lockLine s true (some (BitVec.allOnes 64)) 0 g).1 false none 0 g).2 = false) := by decide +kernel

theorem wit_RegionEffects :
    (nearFind (lined true 0) (clusterOf home 0) 0 (0x20000 / 128)).map (fun l => l.swm) = some true ∧
    (nearFind (lined false 0) (clusterOf home 0) 0 (0x10000 / 128)).map (fun l => l.swm) = some false ∧
    (lined true 0).memOk = true ∧ 0x2007C % 128 + 4 = 128 ∧
    -- a fill of the line on its way
    tget { lined true 0 with fetches := [(3, .near 0 0 0x400 none 0x80000000)] }.fetches 3 = some (.near 0 0 0x400 none 0x80000000) ∧
    clusterOf (lined true 0) 0 = clusterOf home 0 ∧ uncached 0 = false ∧ 0x20000 / 128 = 0x400 := by decide +kernel

theorem wit_MessageIssue :
    ([(W, 1, 0), (W + 61440, 4096, 61440)].all fun x => meets (regs [(1, x.1), (2, 65), (3, x.2.1)] home) (.send h o 1 2 3 7 0) fun sl _ _ =>
      0 < (sl.x 3).toNat && (sl.x 3).toNat ≤ 4096 && W ≤ (sl.x 1).toNat && (sl.x 1).toNat + (sl.x 3).toNat ≤ 2 ^ 56 && x.2.2 + x.2.1 ≤ 65536) = true ∧
    meets (regs [(3, 4097)] home) (.send h o 1 2 3 7 0) (fun sl _ _ => 4096 < (sl.x 3).toNat) = true ∧
    meets (regs [(1, W + 65528), (3, 9)] home) (.send h o 1 2 3 7 0) (fun sl _ _ => 2 ^ 56 < (sl.x 1).toNat + (sl.x 3).toNat) = true ∧
    meets (regs [(1, W), (3, 2)] home) (.send h o 1 2 3 7 0xFFFF) (fun sl _ _ => 65536 < 0xFFFF + (sl.x 3).toNat) = true ∧
    meets home (.sendi h o .v 2 3 7 0xFFE0) = true ∧ 0xFFE0 % 32 = 0 ∧ 0xFFE8 % 32 ≠ 0 ∧
    ranges (W + 65472) (.arm h o 5 6 0) 64 64 false = true ∧ ranges 0x10000 (.launch h o 5 6 0) 128 128 false = true ∧
    ranges 0x1FFC0 (.nsend h o 6 0) 64 64 false = true := by decide +kernel

/-- A launch record of one task on core 65 that draws `shares` shares and asks for its done increment; a descriptor of a stage
on that core. -/
def launchNat (shares kbind : Nat) : Nat :=
  let c := 0x4000000000
  let at_ (n v : Nat) : Nat := 2 ^ (64 * n) * v
  at_ 0 c + at_ 1 (c + 64) + at_ 2 c + at_ 4 (2 ^ 6 + 2 ^ 12 + 2 ^ 18 + 2 ^ 24 + 2 ^ 31 + 2 ^ 38) + at_ 5 4 + at_ 6 shares + at_ 8 (2 ^ 36) +
    at_ 11 (2 ^ 22 + 2 ^ 18 * 15 + 66) + at_ 12 kbind
def stageNat : Nat :=
  let at_ (n v : Nat) : Nat := 2 ^ (64 * n) * v
  at_ 0 0x4000000000 + at_ 1 0x20000 + at_ 2 (2 ^ 32 * 4 + 2 ^ 38) + at_ 3 ((taskOf home).group.toNat + 2 ^ 38 + 2 ^ 44 + 2 ^ 50 + 2 ^ 56 + 2 ^ 63)

/-- A LAUNCH of that record at 64 of local memory, which stands at 0x30000 as well; another ASID owns core 65, whose matrix queue
is empty or not. -/
def launching (shares kbind : Nat) (queued : Bool) : State :=
  let s := mapped (busy (.launch (.loc 0 64) 5))
  let s := modCore s 0 fun k => { k with lmem := wrNat [] 64 128 (launchNat shares kbind) }
  { modCore s 65 fun k => { k with
      owner := some 3
      mq := if queued then [{ id := 30, kind := .mzero 0, task := none, asid := 3 }] else [] } with
    mem := wrNat (wrNat s.mem 0x3030000 128 (launchNat shares kbind)) 0x3030100 192 stageNat }

/-- What a launch comes to: a status, or 100 for one that fires, 101 for one that waits. -/
def launched (s : State) (r : LaunchRec) : Nat := match fireLaunch s r 0 0 with
  | .error st => st
  | .ok _ => if launchWaits s r then 101 else 100

theorem wit_CounterOperations_launch :
    ([(10, 0x30100, false), (10, 0x30100, true), (2000000, 0, false), (10, 8, false)].map fun x =>
      let s := launching x.1 x.2.1 x.2.2
      let m := opOf (.launch (.loc 0 64) 5)
      if findOp s 0 7 = some m && opReady s 0 m && !(lmRead s 0 64 128).2 && (slotOf s).level = 0 then
        launched (passOlder s 0 m) (LaunchRec.ofBytes (rdBytes (getCore s 0).lmem 64 128)) else 0) = [100, 101, 3, 2055] := by decide +kernel

theorem wit_CounterOperations :
    readyOp (.cntadd 65 15 9) = true ∧ readyOp (.send 65 64 15 [1, 2] none) = true ∧ readyOp (.send 65 64 15 [] (some (64, 5))) = true ∧
    readyOp (.cntrd 15 5) = true ∧ readyOp (.cntset 15 9) = true ∧ tget (getCore home 0).incAt 15 ≠ some home.now ∧
    -- a CNTSET in the router cycle of an increment
    (let s := modCore (busy (.cntset 15 9)) 0 fun k => { k with incAt := [(15, home.now)] }
     tget (getCore s 0).incAt 15 = some s.now ∧ findOp s 0 7 = some (opOf (.cntset 15 9)) ∧ opReady s 0 (opOf (.cntset 15 9)) = true) ∧
    -- and of a table firing; and in a cycle without either
    (let s := modCore (busy (.cntset 15 9)) 0 fun k => { k with firedAt := some home.now }
     (getCore s 0).firedAt = some s.now ∧ opReady s 0 (opOf (.cntset 15 9)) = true) ∧
    (getCore (modCore home 0 fun k => { k with trigAt := some home.now }) 0).trigAt = some home.now ∧
    (getCore (busy (.cntset 15 9)) 0).firedAt = none ∧ (getCore (busy (.cntset 15 9)) 0).trigAt = none := by decide +kernel

/-- A message on its way to core 0, where the slot sleeps and an entry watches the counter. -/
def messaged (asid : Option Nat) : State :=
  let s := modCore (slotWith fun q => { q with hold := .sleep 15 0 0 0 5 }) 0 fun k => { k with owner := some 0, wt := [(15, { valid := true, ctr := 15, thresh := 1 })] }
  { s with seq := 500, cmsgs := [(400, { coord := 0, ctr := 15, add := 1, asid, toff := 65535, data := [9] })] }

theorem wit_CounterMessages :
    ([none, some 0, some 3].map fun a => (coreOk (messaged a) 0 && (a.isNone || a = (getCore (messaged a) 0).owner))) = [true, true, false] ∧
    (messaged none).memOk = true ∧ ((tget (messaged none).cmsgs 400).any fun m => m.link.isNone && !m.bad && m.op.isNone && m.halo.isNone && m.launch.isNone) = true ∧ 400 < (messaged none).seq ∧
    ((slotAt (messaged none) 0 0).map fun sl => sl.hold) = some (.sleep 15 0 0 0 5) ∧
    ((tget (getCore (messaged none) 0).wt 15).map fun w => (w.valid, w.ctr)) = some (true, 15) ∧ (getCore (messaged none) 0).firedAt = none ∧
    (getCore (messaged none) 0).trigAt = none ∧ (getCore (messaged none) 0).freezing = false ∧
    (let t := modCore (messaged none) 0 fun k => { k with trigAt := some home.now, freezing := true }
     (getCore t 0).trigAt = some t.now ∧ (getCore t 0).freezing = true) ∧
    -- one that waits: it is lost with a link, or its target's table has fired; one that is not judged, at a core without an owner
    (let s (m : CMsg) : State := { messaged none with cmsgs := [(400, m)] }
     ((tget (s { coord := 0, ctr := 15, add := 1, asid := none, link := some (0, 1) }).cmsgs 400).any fun m => m.link.isSome) = true ∧
     (getCore (modCore (messaged none) 0 fun k => { k with firedAt := some home.now }) 0).firedAt = some (messaged none).now ∧
     ((tget (s { coord := 65, ctr := 15, add := 1, asid := some 3, judged := false }).cmsgs 400).any fun m =>
       !m.judged && (getCore (messaged none) m.coord).owner.isNone && m.asid ≠ (getCore (messaged none) m.coord).owner) = true) := by decide +kernel

/-- Two entries that are ready, the one for a launch later than the one of task 0. -/
def entries : State := modCore home 0 fun k => { k with
  wt := [(0, { valid := true, launchRec := true, ctr := 3, ready := some 8 }), (15, { valid := true, ctr := 2, task := some 0, ready := some 7 })] }

theorem wit_WaitingTasks :
    (let s (lvl : BitVec 2) (inh : Bool) (at_ : Nat) : State :=
       modCur (regs [(1, 5), (2, at_)] (modCore home 0 fun k => { k with wt := [(3, { valid := true })] })) fun q => { q with level := lvl, inh }
     let free (s : State) (e : Nat) : Bool := (tget (getCore s 0).wt e).isNone
     let asks (s : State) (i : Instr) (p : SlotSt → Bool) : Bool := meets s i fun sl _ _ => p sl
     asks (s 0 false 0x20) (.wtset h 5 3 2 1 2) (fun _ => !free (s 0 false 0x20) 3) = true ∧
     asks (s 0 false 0x21) (.wtset h 5 15 2 1 2) (fun sl => free (s 0 false 0x21) 15 && (sl.x 2).toNat % 32 ≠ 0) = true ∧
     asks (s 0 false 0x20) (.wtset h 5 15 2 1 2) (fun sl => (sl.x 2).toNat % 32 = 0 && sl.level = 0) = true ∧
     asks (s 1 false 0x20) (.wtset h 5 15 2 1 2) (fun sl => (sl.x 2).toNat % 32 = 0 && sl.level ≠ 0) = true ∧
     asks (s 0 false 0x80) (.wtsetL h 5 15 2 1 2) (fun sl => (sl.x 2).toNat % 128 = 0) = true ∧
     asks (s 0 false 0xA0) (.wtsetL h 5 15 2 1 2) (fun sl => (sl.x 2).toNat % 128 ≠ 0) = true ∧
     asks (s 0 true 0x20) (.wtsetS h 5 15 2 1 2) (fun sl => sl.inh) = true ∧
     asks (s 0 false 0x20) (.wtsetS h 5 15 2 1 2) (fun sl => !sl.inh) = true ∧
     asks (s 0 false 0x20) (.wtclr h 5 3) (fun _ => true) = true) ∧
    (let wt := (getCore entries 0).wt
     (wt.all fun e => e.2.ctr < 16 && e.1 < 16) = true ∧ (wt.map Prod.fst).Pairwise (· < ·) ∧
     (tget wt 15).map (fun w => (w.valid, w.ready, w.task, w.launchRec)) = some (true, some 7, some 0, false) ∧
     (tget wt 0).map (fun w => (w.valid, w.ready, w.launchRec)) = some (true, some 8, true) ∧
     (getCore entries 0).firedAt ≠ some entries.now ∧ (getCore entries 0).trigAt ≠ some entries.now ∧ (getCore entries 0).freezing = false ∧ (getTask entries 0).map (fun k => outOfService entries k.home) = some false ∧
     -- with the earlier one gone, the launch's entry is the first
     tdel wt 15 = [(0, { valid := true, launchRec := true, ctr := 3, ready := some 8 })]) ∧
    -- a launch's record read: one that fires, one that waits, one that is refused, one whose binding is
    ([(10, 0x30100, false), (10, 0x30100, true), (2000000, 0, false), (10, 8, false)].map fun x =>
      match devRead (modCore (launching x.1 x.2.1 x.2.2) 0 fun k => { k with wt := [], firedAt := some home.now }) 0 0x30000 128 with
      | .ok (v, bs, none) => if (LaunchRec.ofBytes bs).doneEn then launched v (LaunchRec.ofBytes bs) else 0
      | _ => 0) = [100, 101, 3, 2055] ∧
    -- an entry of the record of a task that is saved
    (let s := modCore (modTask (delSlot home 0 0) 0 fun k => { k with place := .saved 0 ⟨0, 0x20000⟩, kept := some (0, ⟨0, 0x20000⟩) }) 0 fun k =>
       { k with wt := [(4, { valid := true, ctr := 2, recVa := 0x20000, ready := some 7 })] }
     (taskOfRecord s ⟨0, 0x20000⟩).map (fun e => (e.1, e.2.place)) = some (0, .saved 0 ⟨0, 0x20000⟩) ∧ outOfService s 0 = false ∧
     (taskOfRecord s ⟨0, 0x20000⟩).map (fun e => e.2) = getTask s 0 ∧ (tget (getCore s 0).wt 4).isSome = true) := by decide +kernel

def trigOn (started complete : Bool) : Trigger :=
  { ctr := 15, thresh := 0, doneEn := true, doneCtr := 15, action := .cntadd 65 15 9, asid := 0, ready := some 1, started, complete }
def armed (ts : List (Nat × Trigger)) : State :=
  modCur (modCore home 0 fun k => { k with trig := ts, lmem := wrNat [] 64 64 (2 * 2 ^ 16) }) fun q => { q with ops := [opOf (.arm (.loc 0 64) 5)] }

theorem wit_Triggers :
    meets (armed [(31, trigOn false false)]) (.disarm h 5 31) = true ∧
    firstTrigger (getCore (armed [(30, trigOn true false), (31, trigOn false false)]) 0) = some 31 ∧
    firstTrigger (getCore (armed [(31, trigOn true true)]) 0) = none ∧ (getCore (armed []) 0).trigAt ≠ some (armed []).now ∧
    -- an entry of the table that has still to fire, and a core that freezes
    (let s := modCore (armed [(31, trigOn false false)]) 0 fun k => { k with freezing := true, wt := [(2, { valid := true, ctr := 1, ready := some 3 })] }
     (getCore s 0).wt.any (fun e => e.2.valid && e.2.ready.isSome) = true ∧ (getCore s 0).firedAt ≠ some s.now ∧ (getCore s 0).freezing = true) ∧
    (getCore (armed []) 0).wt = [] ∧ (getCore (armed []) 0).freezing = false ∧
    (getCore (modCore (armed []) 0 fun k => { k with trigAt := some home.now }) 0).trigAt = some (armed []).now ∧
    -- a completion, in a cycle in which the core's table has fired, and in another
    (trigOn true true).doneEn = true ∧ (getCore (armed []) 0).firedAt ≠ some (armed []).now ∧
    (getCore (modCore (armed []) 0 fun k => { k with firedAt := some home.now }) 0).firedAt = some (armed []).now ∧
    (let s (n : Nat) : State := armed ((below n).map fun j => (j, trigOn false false))
     let bytes (s : State) := rdBytes (getCore s 0).lmem 64 64
     (trigOf (bytes (s 31)) 0).isSome = true ∧ (trigOf (bytesOf 64 (7 * 2 ^ 16)) 0).isNone = true ∧
     residence (s 31) 0 = some (0, 0) ∧ (findOp (s 31) 0 7).isSome = true ∧ opReady (s 31) 0 (opOf (.arm (.loc 0 64) 5)) = true ∧
     (lmRead (s 31) 0 64 64).2 = false ∧
     ((below 32).map fun j => (tget (getCore (s 31) 0).trig j).isSome) = List.replicate 31 true ++ [false] ∧
     ((below 32).all fun j => (tget (getCore (s 32) 0).trig j).isSome) = true) := by decide +kernel

theorem wit_VotesAndNetwork :
    meets home (.vote h 6) = true ∧ meets home (.ttsel h 6) = true ∧
    (∃ n, tget ({ home with nets := [(9, { asid := 0, den := true, dcoord := 0, dctr := 15 })] } : State).nets 9 = some n) ∧
    (match devWrite (mapped home) 0 0x20000 [1, 2] with | .ok _ => true | .error _ => false) = true :=
  ⟨by decide +kernel, by decide +kernel, ⟨_, rfl⟩, by decide +kernel⟩

/-- A command of the task in slot 0. -/
def cmdOf (kind : CmdKind) (state : CmdState) : Cmd := { core := 0, task := some 0, asid := 0, handle := 0x40000001, engine := 64, kind, state, arr := 5 }
def withCmd (m : Cmd) (f : CoreSt → CoreSt := id) : State := { modCore home 0 f with cmds := [(300, m)], seq := 400 }
/-- A tile of R211: width, pitch, rows and halos. -/
def tileOf (w p r hh hc : Nat) : Nat := w + p * 2 ^ 16 + r * 2 ^ 32 + hh * 2 ^ 44 + hc * 2 ^ 52

theorem wit_EngineCommands :
    (let at_ (d a b : Nat) (i : Instr) (p : SlotSt → Bool) : Bool := meets (regs [(5, d), (6, a), (7, b)] home) i fun sl _ _ => p sl
     let cpy := Instr.cpy h o 5 5 6 7 0
     at_ 0 0 1 cpy (fun sl => (sl.x 7).toNat % 64 ≠ 0) = true ∧ at_ 0 0 (2 ^ 56) cpy (fun sl => (sl.x 7).toNat % 64 = 0 && 2 ^ 56 ≤ (sl.x 7).toNat) = true ∧
     at_ (2 ^ 56) 0 64 cpy (fun sl => 2 ^ 56 ≤ (sl.x 5).toNat) = true ∧ at_ (2 ^ 56 - 1) (2 ^ 56) 64 cpy (fun sl => 2 ^ 56 ≤ (sl.x 6).toNat) = true ∧
     at_ (2 ^ 56 - 1) (2 ^ 56 - 1) (2 ^ 56 - 64) cpy (fun sl => (sl.x 7).toNat % 64 = 0 && (sl.x 7).toNat < 2 ^ 56 && (sl.x 6).toNat < 2 ^ 56) = true ∧
     at_ (2 ^ 56) 0 0 (.gather h o .w true true 5 6 7 0) (fun sl => 2 ^ 56 ≤ (sl.x 5).toNat) = true ∧
     at_ (2 ^ 56 - 1) (2 ^ 56 - 1) 0 (.scatter h o .v false true 5 6 7 0) (fun sl => (sl.x 5).toNat < 2 ^ 56 && (sl.x 6).toNat < 2 ^ 56) = true ∧
     -- a tile that is no tile, one that does not fit, and one that ends with the window
     at_ 0 W (tileOf 4 7 3 1 2) (.halo h o 15 6 7 0) (fun sl => ((sl.x 7).extractLsb' 16 16).toNat < 4 + 2 * 2) = true ∧
     at_ 0 (2 ^ 56 - 39) (tileOf 4 8 3 1 2) (.halo h o 15 6 7 0) (fun sl => 2 ^ 56 < (sl.x 6).toNat + 5 * 8) = true ∧
     at_ 0 (2 ^ 56 - 40) (tileOf 4 8 3 1 2) (.halo h o 15 6 7 0) (fun sl => (sl.x 6).toNat + 5 * 8 = 2 ^ 56) = true ∧
     at_ 0 0 0 (.cpyq h o 5 7) (fun _ => true) = true ∧
     ([8, 2 ^ 56, 64].all fun a => at_ 0 a 0 (.mcmd h o 6 0) fun sl => (sl.x 6).toNat % 64 ≠ 0 || (sl.x 6).toNat % 64 = 0) = true ∧
     at_ 0 8 0 (.exch h o 5 6 0) (fun sl => (sl.x 6).toNat % 32 ≠ 0) = true ∧ at_ 0 (2 ^ 56) 0 (.exch h o 5 6 0) (fun sl => (sl.x 6).toNat % 32 = 0) = true ∧
     at_ 0 (W - 32) 0 (.exch h o 5 6 0) (fun sl => (sl.x 6).toNat < W) = true ∧ at_ 0 (2 ^ 56 - 32) 0 (.exch h o 5 6 0) (fun sl => W ≤ (sl.x 6).toNat) = true) := by
  decide +kernel

def word (n : Nat) : Word := BitVec.ofNat 64 (W + n)
/-- A pattern record of three elements of 4 bytes each in local memory, at 0x400. -/
def copying : State := withCmd (cmdOf (.cpy (word 0x200) (word 0x100) (word 0x400) 0 false) .queued) fun k => { k with
  lmem := wrNat [] 0x400 64 (2 + 8 * 2 ^ 16 + 4 * 2 ^ 40 + 2 ^ 440 * 2) }

theorem wit_StreamerEvents :
    (let s (st : CmdState) := withCmd (cmdOf (.lanes 4 [(word 65532, word 8)]) st)
     let m (st : CmdState) := cmdOf (.lanes 4 [(word 65532, word 8)]) st
     (s .issued).memOk = true ∧ cmdReady (s .issued) (m .issued) = true ∧ (m .issued).kind.streams = true ∧
     (let t := withCmd { m .issued with arr := 0 }
      (t.cmds.filter fun x => x.2.engine = 64 && x.2.arr ≠ 0) = [] ∧ cmdReady t { m .issued with arr := 0 } = true) ∧
     (nextCmd (s .issued) 64).isNone = true ∧ nextCmd (s .queued) 64 = some (300, m .queued) ∧ (lmRead (s .queued) 0 65532 4).2 = false ∧
     residence (s (.releasing 3)) 0 = some (0, 0) ∧ uncached 0 = false ∧
     (tget (withCmd { cmdOf (.cpy (word 0) (word 64) (word 128) 0 false) (.releasing 3) with task := none, trig := some 31 } fun k => { k with
        trig := [(31, trigOn true false)] }).cmds 300).map (fun m => (m.state, m.task, m.trig)) = some (.releasing 3, none, some 31) ∧
     ((s (.done 3 7)).cmds.find? fun e => e.2.task = some 0 && e.2.handle = 0x40000001) = some (300, m (.done 3 7))) ∧
    (let p := Pat.ofBytes (rdBytes (getCore copying 0).lmem 0x400 64)
     nextCmd copying 64 = some (300, cmdOf (.cpy (word 0x200) (word 0x100) (word 0x400) 0 false) .queued) ∧
     p.ok copying = true ∧ p.ind = false ∧ p.dc = false ∧ p.total * p.esz ≤ 4096 ∧ p.total = 3 ∧ p.esz = 4 ∧
     ((below p.total).all fun q => (0x100 + (patOffs p.dims q).1) % 4 = 0 && (0x200 + (patOffs p.dims q).2) % 4 = 0) = true) ∧
    readyOp (.cpyq 0x40000001 5) = true := by decide +kernel

/-- A HALO about to send in direction dd, with the neighbour there owned by its ASID or not. -/
def haloing (core dd nb asid : Nat) : State :=
  { modCore (modCore home core fun k => { k with owner := some 4 }) nb fun k => { k with owner := some asid } with
    cmds := [(300, { core, task := some 0, asid := 4, handle := 0, engine := 65, sel := dd, state := .running
                     kind := .halo (2 ^ dd) (word 0x100) (BitVec.ofNat 64 (tileOf 5 8 3 2 1)) })] }

theorem wit_HaloDirection :
    ([(0, 4096 + 64 * 2 + 5), (1, 4096 + 64 * 3 + 6), (2, 4096 + 64 * 4 + 5), (3, 4096 + 64 * 3 + 4)].all fun x =>
      let s := haloing (4096 + 64 * 3 + 5) x.1 x.2 4
      s.memOk && (nextCmd s 65).isSome && coreOk s x.2 && (getCore s x.2).owner = some 4) = true ∧
    -- at the edge of the grid, no neighbour
    (nextCmd (haloing 4096 0 4097 4) 65).isSome = true ∧ (nextCmd (haloing (4096 + 63) 1 4097 4) 65).isSome = true ∧
    siteOk (4096 + 63) = true ∧ isHart (4096 + 63) = false ∧ 5 + 2 * 1 ≤ 8 ∧
    -- the last direction, skipped, with an increment outstanding or none
    (nextCmd (haloing 4096 3 4097 4) 65).isSome = true ∧ ((haloing 4096 3 4097 4).cmsgs.all fun x => x.2.halo ≠ some 300) = true ∧
    (∃ s : State, s.cmsgs = [(9, { coord := 0, ctr := 12, add := 1, asid := some 4, halo := some 300 })]) := by
  refine ⟨?_, ?_, ?_, ?_, ?_, ?_, ?_, ?_, { home with cmsgs := [(9, { coord := 0, ctr := 12, add := 1, asid := some 4, halo := some 300 })] }, rfl⟩ <;>
    decide +kernel

/-- An EXCH of task 0 that has arrived, and a release of its phase at a cycle, its timetable to end at another. -/
def exching (arrived : Bool) (trel : Option Nat) (running : Bool) (endAt : Option Nat := none) (fault : Bool := false)
    (lmem : List Host.Cell := []) : State :=
  let s := withCmd { cmdOf (.exch 0x100 5) (if running then .running else if trel.isSome then .queued else .issued) with
    arrived, engine := 112, taken := if arrived then some 0xFAC688 else none
    phase := if running || trel.isSome then some { vote := 3, map := 0xFAC688, endAt, fault } else none } fun k => { k with lmem }
  { s with now := 2000, launches := s.launches.map fun e => (e.1, { e.2 with trel }) }

theorem wit_ExchangePhases :
    (let n := (taskOf home).launch
     (home.tasks.map Prod.fst).Pairwise (· < ·) ∧ (tget (exching true none false).launches n).isSome = true ∧
     ((exching true none false).cmds.map Prod.fst).Pairwise (· < ·) ∧
     -- an arrival to come; full, not full, due, not yet due
     ((exching false none false).cmds.map fun e => (e.2.task, (arrivedAt (exching false none false) n).length)) = [(some 0, 0)] ∧
     ((arrivedAt (exching true none false) n).map fun e => e.2.task) = [some 0] ∧ home.tasks.length = 1 ∧
     ((exchCmds (exching false none false) n).map fun e => cmdReady (exching false none false) e.2) = [true] ∧
     (let s := exching true (some 2000) false
      (tget s.launches n).map (fun l => (l.trel, topoChanged s l 0)) = some (some 2000, false) ∧ s.now = 2000 ∧
      ((releasedIn s n).map fun e => e.1) = [300] ∧ (leader s (releasedIn s n) 0).isSome = true) ∧
     -- a directory whose word 3 names a timetable, and one whose word 3 is faulty
     rdNat (getCore (exching true (some 2000) false) 0).lmem (0x100 + 4 * (0xFAC688 / 2 ^ (3 * 3) % 8)) 4 = 0 ∧
     rdNat (getCore (exching true (some 2000) false none false (wrNat [] 0x10C 4 3)) 0).lmem (0x100 + 4 * (0xFAC688 / 2 ^ (3 * 3) % 8)) 4 = 3 ∧
     -- a die whose map changed since the launch took it
     (let s := let t := exching true (some 2000) false
        { t with launches := t.launches.map fun e => (e.1, { e.2 with topo := [(0, (getDie home 0).topo + 1)] }) }
      (tget s.launches n).map (fun l => topoChanged s l 0) = some true ∧ ((releasedIn s n).map fun e => e.1) = [300])) := by
  decide +kernel

/-- Timetables that have ended, well and with a fault, and two that have not. -/
theorem wit_ExchangePhases_ends :
    ([(some 2000, false), (some 2000, true), (some 2001, false), (none, false)].all fun x =>
      let s := exching true none true x.1 x.2
      s.now = 2000 && s.cmds.length = 1 && s.cmds.all fun e => e.2.kind.isExch && e.2.core = 0 && e.2.state = .running &&
        e.2.phase.any fun p => p.endAt = x.1 && p.fault = x.2) = true := by
  decide +kernel

theorem wit_MatrixIssue :
    (let at_ (a b : Nat) (i : Instr) (p : SlotSt → Bool) : Bool := meets (regs [(6, a), (7, b)] (mapped home)) i fun sl _ _ => p sl
     let load := Instr.mlda h o 6 7 0
     at_ (W + 1) 0 load (fun sl => (sl.x 6).toNat % MTy.esize (fmtAhead (getCore home 0)).1 ≠ 0) = true ∧
     at_ (2 ^ 56) 0 load (fun sl => 2 ^ 56 ≤ (sl.x 6).toNat) = true ∧ at_ (W - 2) 0 load (fun sl => (sl.x 6).toNat < W) = true ∧
     at_ (2 ^ 56 - 512) 0 load (fun sl => (below 16).all fun r => W ≤ (sl.x 6).toNat + r * 32 && (sl.x 6).toNat + r * 32 + 32 ≤ 2 ^ 56) = true ∧
     at_ W 4092 (.mdrain h o .f32 .rne true 1 6 7 0) (fun sl => (sl.x 6).toNat + 15 * 4092 + 64 ≤ 2 ^ 56) = true ∧
     at_ 0 65 (.mring h 6 7) (fun _ => coreOk home 0 && coreOk home 65) = true ∧ coreOk home (4096 * 40) = false ∧
     at_ W 0 (.mskip h 6) (fun sl => W ≤ (sl.x 6).toNat && (sl.x 6).toNat < 2 ^ 56) = true ∧
     at_ (W - 1) 0 (.mskip h 6) (fun sl => (sl.x 6).toNat < W) = true) ∧
    blocks 0x10000 (.mtbl h o .mem true 6 0) 16 = true ∧ blocks (W + 64512) (.mtbl h o .mem false 6 0) 16 = true ∧
    -- blocks on both sides of the local window, and past the address limit
    blocks (W - 512 + 0x10000) (.mtbl h o .mem false 6 0) 8 = true ∧
    (mtblPoison (memPoison (mapped home) 0x3010040 4) 0 none [.glob 0 ⟨0x10040, 0x3010040, 64, false, 0, true⟩]).isSome = true := by
  decide +kernel

theorem wit_MatrixSteps :
    (let t : Acc := {}
     let l : MLatch := {}
     t.int = false ∧ l.int = false ∧ ({ t with int := true } : Acc).int = true ∧ f40Inf (fmtF40.infBits true) = true) ∧
    -- elements to drain: a zero, an infinity of either sign, and the ends of the exponents between
    ([(0, 0), (2 ^ 39 + 255 * 2 ^ 31, 255), (255 * 2 ^ 31, 255), (2 ^ 31, 1), (2 ^ 39 + 254 * 2 ^ 31 + 1, 254)].all fun e =>
      ((BitVec.ofNat 40 e.1).extractLsb' 31 8).toNat = e.2 && (e.2 ≠ 255 || ((BitVec.ofNat 40 e.1).extractLsb' 0 31).toNat = 0)) = true := by
  decide +kernel

/-- An entry at the head of core 0's matrix queue. -/
def entryOf (kind : MKind) : MEntry := { id := 30, kind, task := some 0, asid := 0 }
def serving (kind : MKind) (f : CoreSt → CoreSt) (g : MUnit → MUnit) : State :=
  modCluster (modCore home 0 fun k => { f k with mq := [entryOf kind] }) (clusterOf home 0) fun u => { u with unit := g u.unit }

theorem wit_MatrixService :
    (let ok (s : State) (kind : MKind) (rr : Nat) : Bool :=
       let cl := clusterOf s 0
       !(getUnit s cl).failed && (rotating s cl).isNone && (getUnit s cl).front.isEmpty && requesterCore s cl 0 = some 0 &&
       headReady s 0 = some (entryOf kind) && residence s 0 = some (0, 0) && (slotAt s 0 0).isSome && s.memOk && (getUnit s cl).rr = rr &&
       (rr = 4 || [1, 2, 3, 4].all fun r => (serveRequester (frontLook s cl) cl r).isNone)
     let dense (k : CoreSt) : CoreSt := { k with skOn := false }
     let sparse (left : BitVec 8) (zero : Bool) (k : CoreSt) : CoreSt := { k with skOn := true, skPtr := 64, skLeft := left, skZero := zero, lmem := [(64, 0x85)] }
     ([MKind.mfmt .bf16 .bf16, .mtblCopy .q43 false, .mtblCopy .q52 true, .mring 0 1, .mskip 65535, .mskipOff, .mzero 0, .mzero 1, .mzero 2, .mzero 3, .mma 0, .mma 1,
       .mma 2, .mma 3, .mmas 0, .mmas 3, .mlda 0 65024 32, .mldb 0 0 4092, .mcapRev 5, .mcap 3 5, .mstat 0 5, .mstat 2 5, .mdrain .f32 .rne true 0 0 0 64,
       .mdrain .f40 .rtz false 3 0 0 4092].all
       fun kd => ok (serving kd dense id) kd 0 && ok (serving kd dense fun u => { u with rr := 4 }) kd 4) = true ∧
     ok (serving (.mmas 0) (sparse 1 true) id) (.mmas 0) 0 = true ∧ ok (serving (.mmas 0) (sparse 127 false) id) (.mmas 0) 0 = true ∧
     ok (serving (.mmas 0) (sparse 0 false) id) (.mmas 0) 0 = true ∧ rd (getCore (serving (.mmas 0) (sparse 0 false) id) 0).lmem 64 = 0x85 ∧
     rd (getCore (serving (.mmas 0) dense id) 0).lmem 64 = 0 ∧
     ok (serving (.mstatU 5) dense fun u => { u with ringAsid := some 0 }) (.mstatU 5) 0 = true ∧
     16 * DFmt.esize .f40 ≤ 128 ∧
     -- guest tiles that the entry's ASID wrote last, and that another did
     (let u := getUnit (serving (.mma 2) dense fun u => { u with ag0Asid := some 0, ag1Asid := some 9 }) (clusterOf home 0)
      u.ag0Asid = some (entryOf (.mma 2)).asid ∧ u.ag1Asid ≠ some (entryOf (.mma 2)).asid) ∧
     -- a turn in which no requester has anything
     ([0, 1, 2, 3, 4].all fun r => (serveRequester (frontLook home (clusterOf home 0)) (clusterOf home 0) r).isNone) = true) := by decide +kernel

/-- A tile on its way to cluster 0, whose ring may take it. -/
def arriving (bnext : Option MLatch) : State :=
  { modCluster home (clusterOf home 0) fun u => { u with unit := { u.unit with pred := some 1, ringAsid := some 0, bnext } } with
    tiles := [(9, { dst := clusterOf home 0, src := 1, asid := 0, tile := {} })], credits := [(8, clusterOf home 0)] }

/-- A rotation that has sent its tile and waits. -/
def rotation (now : Nat) : State :=
  { modCore home 0 fun k => { k with mq := [{ entryOf .mrot with begun := true, started := true, t0 := 0 }] } with now }

/-- A unit that is leased, with nothing in its front, at a cycle. -/
def leased (now : Nat) : State :=
  { modCluster home (clusterOf home 0) fun u => { u with unit := { u.unit with lease := some (0, 0), leaseAt := 1 } } with now }

/-- An MCMD whose record has been read. -/
def commanding (bs : List Byte) (g : MUnit → MUnit) : State :=
  modCluster (withCmd { cmdOf (.mcmd (W + 64)) .issued with engine := 113, pat := some bs } fun k => { k with owner := some 0 })
    (clusterOf home 0) fun u => { u with unit := g u.unit }

/-- A record of class MMA with a capability for cluster 0 of die 0 and every right, its check field v. -/
def commandBytes (v : Nat) : List Byte := bytesOf 64 (v + 2 ^ 384 * 3)

theorem wit_MatrixEvents :
    (let cl := clusterOf home 0
     (let u := getUnit (arriving none) cl
      u.failed = false ∧ u.pred.getD cl = 1 ∧ u.ringAsid = some 0 ∧ u.bnext = none ∧ (getUnit (arriving (some {})) cl).bnext ≠ none ∧
      (tget (arriving none).tiles 9).map (fun t => (t.dst, t.src, t.asid)) = some (cl, 1, 0) ∧ tget (arriving none).credits 8 = some cl) ∧
     rotating home cl = none ∧ (rotating (rotation 65536) cl).map (fun e => (e.1, e.2.started, e.2.t0)) = some (0, true, 0) ∧
     (getUnit (rotation 65536) cl).bnext = none ∧ (rotation 65535).now < 65536 ∧
     (getUnit (leased (2 ^ 20 + 1)) cl).lease.isSome = true ∧ (getUnit (leased (2 ^ 20 + 1)) cl).front = [] ∧
     (let r := MRec.ofBytes (commandBytes 5)
      let s := commanding (commandBytes 5) id
      cmdReady s { cmdOf (.mcmd (W + 64)) .issued with engine := 113, pat := some (commandBytes 5) } = true ∧
      unitOf s r.die r.idx = some cl ∧ unitOf s 40 r.idx = none ∧ unitOf s 39 1000 = none ∧ (getUnit s cl).failed = false ∧ (getUnit s cl).front = [] ∧
      (getUnit (commanding [] fun u => { u with failed := true }) cl).failed = true ∧
      (getUnit (commanding [] fun u => { u with front := List.replicate 16 { cmd := 1, ok := false } }) cl).front.length = 16)) := by decide +kernel

theorem natOf_bytesOf : ∀ n v : Nat, natOf (bytesOf n v) = v % 256 ^ n
  | 0, v => by simp [bytesOf, natOf, Nat.mod_one]
  | n + 1, v => by
    rw [bytesOf, natOf, natOf_bytesOf n, BitVec.toNat_ofNat, show (256 : Nat) ^ (n + 1) = 256 * 256 ^ n from Nat.pow_succ', Nat.mod_mul (a := 256)]

theorem length_bytesOf : ∀ n v : Nat, (bytesOf n v).length = n
  | 0, _ => rfl
  | n + 1, v => by simp [bytesOf, length_bytesOf n]

/-- The fields of a small number with 3 put at bit 384. -/
theorem bitsN_high {v hi lo : Nat} (hv : v < 2 ^ 32) (hl : 32 ≤ lo) (hh : hi < 384 ∧ lo ≤ hi ∨ 386 ≤ lo) :
    bitsN (v + 2 ^ 384 * 3) hi lo = 0 := by
  unfold bitsN
  rcases hh with ⟨hh, hm⟩ | hh
  · have e : 2 ^ 384 * 3 = 2 ^ lo * (2 ^ (hi + 1 - lo) * (2 ^ (384 - (hi + 1)) * 3)) := by
      rw [← Nat.mul_assoc, ← Nat.mul_assoc, ← Nat.pow_add, ← Nat.pow_add]
      congr 2
      omega
    rw [e, Nat.add_mul_div_left _ _ (by positivity), Nat.add_mul_mod_self_left,
      Nat.div_eq_of_lt (lt_of_lt_of_le hv (Nat.pow_le_pow_right (by norm_num) hl)), Nat.zero_mod]
  · have h4 : v + 2 ^ 384 * 3 < 2 ^ 386 := by
      have : 2 ^ 32 ≤ 2 ^ 384 := Nat.pow_le_pow_right (by norm_num) (by norm_num)
      rw [show (2 : Nat) ^ 386 = 2 ^ 384 * 4 by rw [show 386 = 384 + 2 from rfl, Nat.pow_add]]
      generalize 2 ^ 384 = p at *
      omega
    rw [Nat.div_eq_of_lt (lt_of_lt_of_le h4 (Nat.pow_le_pow_right (by norm_num) hh)), Nat.zero_mod]

/-- A record passes the unit's checks if its check field is that of the unit's secret, whatever that is. -/
theorem wit_MatrixEvents_passes (v : BitVec 32) :
    let r := MRec.ofBytes (commandBytes v.toNat)
    r.cap.extractLsb' 38 10 = 0 ∧ r.cap.extractLsb' 32 6 = 0 ∧ r.cap.extractLsb' 0 32 = v ∧ r.op = 0 ∧ r.rights = 3 ∧ r.ok = true := by
  have hv := v.isLt
  have hn : natOf ((commandBytes v.toNat).take 64) = v.toNat + 2 ^ 384 * 3 := by
    rw [commandBytes, List.take_of_length_le (by rw [length_bytesOf]), natOf_bytesOf, Nat.mod_eq_of_lt]
    have h1 : 2 ^ 32 ≤ 2 ^ 384 := Nat.pow_le_pow_right (by norm_num) (by norm_num)
    have e : (256 : Nat) ^ 64 = 2 ^ 384 * 2 ^ 128 := by rw [show (256 : Nat) = 2 ^ 8 from rfl, ← Nat.pow_mul, ← Nat.pow_add]
    rw [e]
    generalize 2 ^ 384 = p at *
    omega
  have hc : bitsN (v.toNat + 2 ^ 384 * 3) 63 0 = v.toNat := by
    unfold bitsN
    rw [Nat.pow_zero, Nat.div_one, show 2 ^ 384 * 3 = 2 ^ (63 + 1 - 0) * (2 ^ 320 * 3) by rw [← Nat.mul_assoc, ← Nat.pow_add],
      Nat.add_mul_mod_self_left, Nat.mod_eq_of_lt (by omega)]
  have hr : bitsN (v.toNat + 2 ^ 384 * 3) 385 384 = 3 := by
    unfold bitsN
    have h3 : (0 + 3) % 2 ^ (385 + 1 - 384) = 3 := by norm_num
    rw [Nat.add_mul_div_left _ _ (by positivity),
      Nat.div_eq_of_lt (lt_of_lt_of_le hv (Nat.pow_le_pow_right (by norm_num) (by norm_num))), h3]
  have hh := fun hi lo => @bitsN_high v.toNat hi lo hv
  generalize v.toNat + 2 ^ 384 * 3 = N at *
  simp only [MRec.ofBytes, MRec.ok, hn, hc, hr, hh 387 386 (by norm_num) (by norm_num), hh 395 392 (by norm_num) (by norm_num),
    hh 399 396 (by norm_num) (by norm_num), hh 401 400 (by norm_num) (by norm_num), hh 403 402 (by norm_num) (by norm_num),
    hh 119 64 (by norm_num) (by norm_num), hh 183 128 (by norm_num) (by norm_num), hh 247 192 (by norm_num) (by norm_num)]
  refine ⟨?_, ?_, ?_, trivial, trivial, by decide⟩
  all_goals
    apply BitVec.eq_of_toNat_eq
    simp only [BitVec.extractLsb'_toNat, BitVec.ofNat_eq_ofNat, BitVec.toNat_ofNat, Nat.shiftRight_eq_div_pow, Nat.zero_mod]
    omega

/-- Stage slot 1 of core 0 bound to launch 0, its handle a box of the one core; its Husks at 0x20000. -/
def theHandle : Word := 2 ^ 38 + 2 ^ 31 + 2 ^ 24 + 2 ^ 18
def theStage : StageSt := { asid := 0, launch := (taskOf home).launch, handle := theHandle, index := 0, entry := 0x40, husk := 0x20000, livemask := 6
                            share := 4, run := 2, nblog := 0, retire := 1, seeded := false, group := (taskOf home).group, image := [] }
def staged (b : StageSt) (f : CoreSt → CoreSt := id) : State := modCore (mapped home) 0 fun k => { f k with owner := some 0, stages := [(1, b)] }
def ctxOf (st : PodState) : PodCtx := { stage := 1, key := 9, state := st, task := 77 }
def recordOf (key : Nat) : InRec := ⟨300, 1, bytesOf 32 key⟩

theorem wit_KeyedIssue :
    (let at_ (a b : Nat) (i : Instr) (p : SlotSt → State → Bool) : Bool := meets (regs [(6, a), (7, b)] (staged theStage)) i fun sl _ g => p sl g
     let hd := theHandle.toNat
     let rec_ (sl : SlotSt) (g : State) : Bool := match reachRange g (sl.x 6) 32 32 .read false with
       | .ok (u, ls) => (opDeps u sl.task o [((sl.x 6).toNat, 32)]).isEmpty && (rangeBad (fun l n => (coreRead u u.core false l n none).2.2) ls 0).isNone &&
           handleBoxOk g (sl.x 7)
       | .error _ => false
     at_ 0x10020 hd (.ksend h o 6 7 0) rec_ = true ∧ at_ W hd (.ksendt h o 1 6 7 0) rec_ = true ∧
     at_ 8 hd (.ksend h o 6 7 0) (fun sl _ => (sl.x 6).toNat % 32 ≠ 0) = true ∧
     at_ (2 ^ 56) hd (.ksend h o 6 7 0) (fun sl _ => 2 ^ 56 ≤ (sl.x 6).toNat) = true ∧
     -- handles of no box: a bit above 39, no column, too many rows, a die that names no cores
     ([2 ^ 40 + hd, hd - 2 ^ 31, hd + 2 ^ 24 * 64, hd + 4096 * 40].all fun b => at_ 0 b (.ksend h o 6 7 0) fun sl g =>
       2 ^ 40 ≤ (sl.x 7).toNat || (sl.x 7).toNat / 2 ^ 31 % 128 = 0 || 64 < (sl.x 7).toNat / 2 ^ 24 % 128 || !handleBoxOk g (sl.x 7)) = true ∧
     at_ 0 0 (.kyield h) (fun _ _ => (taskOf home).coro.isNone) = true ∧
     (let s := modTask home 0 fun k => { k with coro := some ⟨0, 1, 3, none⟩ }
      meets s (.kend h) (fun sl k _ => k.coro.isSome && !sl.inh) = true) ∧
     at_ hd 0 (.kstatOcc h 5 6) (fun sl g => (tget (getCore g 0).stages 1).map (fun b => b.handle) = some (sl.x 6)) = true ∧
     at_ (hd + 1) 0 (.kstatCnt h 5 6) (fun sl g => (tget (getCore g 0).stages 1).map (fun b => b.handle) ≠ some (sl.x 6)) = true ∧
     theStage.share < 256 ∧ validHusks (staged theStage) theStage < 2 ^ 16 ∧
     at_ hd 0 (.kflush h 5 6) (fun sl g => membersOfStage g 0 (sl.x 6) = [(0, 1)]) = true ∧
     at_ 0 0 (.kflush h 5 6) (fun sl g => membersOfStage g 0 (sl.x 6) = []) = true ∧
     blocks 0x10000 (.kstage h o 5 6 0) 3 = true ∧ at_ 0 hd (.kstageU h o 5 7) (fun _ _ => true) = true) := by decide +kernel

/-- A KSEND of the record at 64 of local memory, with some records already in the inbox. -/
def sendingTo (n : Nat) (st : CmdState) : State :=
  { staged theStage fun k => { k with inbox := List.replicate n (recordOf 5) } with
    cmds := [(300, { cmdOf (.ksend [.loc 0 64] theHandle none) st with engine := 114 })], seq := 400 }
/-- An answer on its way to a slot. -/
def answering (pred : Option Nat) (answer : Answer) (hold : Hold) (inh : Bool) : State :=
  { modCur (staged theStage) fun q => { q with hold, inh } with
    cmds := [(300, { cmdOf (.ksend [.loc 0 64] theHandle none) .queued with engine := 114 })]
    kmsgs := [(300, { task := 0, pred, coord := 0, stage := 1, answer })] }

theorem wit_KeyedRecords :
    (let m (st : CmdState) : Cmd := { cmdOf (.ksend [.loc 0 64] theHandle none) st with engine := 114 }
     let ok (n : Nat) : Bool := tget (sendingTo n .issued).cmds 300 = some (m .issued) && cmdReady (sendingTo n .issued) (m .issued) &&
       memberOf theHandle 0 = 0 && !earlierUnsent (sendingTo n .issued) 300 0 0 && coreOk (sendingTo n .issued) 0 &&
       tget (getCore (sendingTo n .issued) 0).stages 1 = some theStage && !(lmRead (sendingTo n .issued) 0 64 32).2
     ok 63 = true ∧ ok 64 = true ∧ (getCore (sendingTo 63 .issued) 0).owner = some 0 ∧ (getCore (sendingTo 63 .issued) 0).inbox.length = 63 ∧ (getCore (sendingTo 64 .issued) 0).resvd = [] ∧
     -- a stage that is closed, and a reservation that is live
     (let s := staged { theStage with closed := true }
      (tget (getCore s 0).stages 1).map (fun b => (b.closed, b.asid, b.handle)) = some (true, 0, theHandle)) ∧
     (let s := modCore (sendingTo 63 .issued) 0 fun k => { k with resvd := [(⟨0, 1⟩, home.now + 1)] }
      ((getCore s 0).resvd.filter fun r => s.now < r.2).any (fun r => r.1.task = 0) = true ∧ tget (getCore s 0).stages 1 = some theStage) ∧
     (sendingTo 0 .queued).cmds = [(300, m .queued)] ∧ theHandle.toNat / 2 ^ 38 % 4 = 1 ∧
     (let a (p : Option Nat) (x : Answer) (hd : Hold) (inh : Bool) : Bool :=
        (tget (answering p x hd inh).kmsgs 300).map (fun w => (w.pred, w.answer)) = some (p, x) && residence (answering p x hd inh) 0 = some (0, 0) &&
        ((slotAt (answering p x hd inh) 0 0).map fun sl => (sl.hold, sl.inh, sl.ops.isEmpty, sl.saveWait.isNone)) = some (hd, inh, true, true)
      a (some 7) .accepted .none false = true ∧ a (some 7) .refused .none false = true ∧ a none .accepted (.ksend 300) false = true ∧
      a none .refused (.ksend 300) true = true ∧ a none .dropped (.ksend 300) false = true ∧ a none .refused (.ksendFull 300) true = true) ∧
     (getCore home 0).waiters = [] ∧ 0 < theHandle.toNat / 2 ^ 24 % 128 ∧ 0 < theHandle.toNat / 2 ^ 31 % 128) := by decide +kernel

/-- The task of slot 0 saved. -/
def savedTask (s : State) : State := modTask (delSlot s 0 0) 0 fun k => { k with place := .saved 0 ⟨0, 0x20000⟩, kept := some (0, ⟨0, 0x20000⟩) }

theorem wit_KeyedRecords_ends :
    -- a record that is poisoned when it is read, its slot able to go back to it, or its task saved; a member that freezes
    (let s := lmPoison (canUndo (sendingTo 0 .issued) 300) 0 72 4
     let m : Cmd := { cmdOf (.ksend [.loc 0 64] theHandle none) .issued with engine := 114 }
     (lmRead s 0 64 32).2 = true ∧ cmdReady s m = true ∧ memberOf theHandle (rdNat (getCore s 0).lmem 64 8) = 0 ∧
     earlierUnsent s 300 0 0 = false ∧ (getCore s 0).freezing = false ∧ ((slotOf s).undo.map fun u => u.id) = [300] ∧
     residence s 0 = some (0, 0) ∧ residence (savedTask s) 0 = none ∧ cmdReady (savedTask s) m = true ∧
     (getCore (modCore s 0 fun k => { k with freezing := true }) 0).freezing = true) ∧
    -- a KSENDT refused after its task was saved
    (let s := savedTask (answering (some 7) .refused .none false)
     residence s 0 = none ∧ (tget s.cmds 300).isSome = true ∧ (tget s.kmsgs 300).map (fun w => (w.task, w.pred, w.answer)) = some (0, some 7, .refused)) ∧
    -- a KSEND refused whose task can be saved
    (let s := modCur (answering none .refused (.ksend 300) false) fun q => { q with level := (taskOf home).level0 }
     let s := { s with launches := s.launches.map fun e => (e.1, { e.2 with r := { e.2.r with save := 0x20000 } }) }
     (slotOf s).ops = [] ∧ (slotOf s).saveWait.isNone = true ∧ (slotOf s).inh = false ∧ (slotOf s).level = (taskOf s).level0 ∧
     (getCore s 0).waiters.length < 64 ∧ (match savePark { s with cmds := tdel s.cmds 300 } 0 0 ((slotOf s).pc - 16) (saveSlot s (taskOf s)) with
       | .done _ => true
       | _ => false) = true) := by decide +kernel

theorem wit_KeyedDispatch :
    (getCore home 0).dispAt ≠ some home.now ∧ (getCore (modCore home 0 fun k => { k with dispAt := some home.now }) 0).dispAt = some home.now ∧
    (let one (b : StageSt) (pod : List (Nat × PodCtx)) (key : Nat) : State := staged b fun k => { k with pod, inbox := [recordOf key] }
     -- a new key, and an idle context of the key
     (dispatchStage (one theStage [(0, { ctxOf .run with key := 8 })] 9) 0 1).isSome = true ∧
     (tget [(0, { ctxOf .run with key := 8 })] 1 : Option PodCtx) = none ∧ (recordOf 9).bytes.length = 32 ∧ 1 < theStage.run ∧ 1 < theStage.share ∧
     (dispatchStage (one theStage [(5, ctxOf .idle)] 9) 0 1).isSome = true ∧ BitVec.ofNat 64 (natOf ((recordOf 9).bytes.take 8)) = (9 : Word) ∧
     ([0, 1, 2, 3].all fun d => (dispatchStage home 0 d).isNone) = true ∧
     -- a context that is due, and one that is not
     (let s (now : Nat) : State := { staged theStage fun k => { k with pod := [(5, ctxOf .idle)] } with now }
      (dueCtx (s 1600) (getCore (s 1600) 0) 1 theStage).map (fun e => e.1) = some 5 ∧ (dueCtx (s 1599) (getCore (s 1599) 0) 1 theStage).isNone = true ∧
      (scanRecords (s 1600) 0 1 theStage [] []).isNone = true ∧
      -- its stage is the next in turn that has an action
      (getCore (s 1600) 0).served = 0 ∧ (getCore (s 1600) 0).dispAt ≠ some (s 1600).now ∧ (getCore (s 1600) 0).freezing = false ∧
      theStage.busy = none ∧ 0 < theStage.run ∧ (((getCore (s 1600) 0).pod.map Prod.fst) = [5])) ∧
     -- the Husk accesses that succeed
     (let s := staged theStage fun k => { k with pod := [(5, ctxOf .idle)] }
      (match huskFind s theStage 9 (husksOf theStage 9) with | .ok (_, none) => true | _ => false) = true ∧
      (match huskFree s theStage (husksOf theStage 9) with
       | .ok (u, some a) => (match writeHusk u 0 theStage (ctxOf .idle) a with
         | .ok v =>
           -- and read back
           (match huskFind v theStage 9 (husksOf theStage 9) with
            | .ok (w, some a') => a' = a && (match devRead w 0 a 160 with | .ok (x, _, none) => (recPoison x ⟨0, a⟩ 8).isEmpty &&
                (match huskValid x theStage a false with | .ok _ => true | .error _ => false) | _ => false)
            | _ => false)
         | .error _ => false)
       | _ => false) = true ∧ ctxOfKey (getCore s 0) 1 9 = some (5, ctxOf .idle)) ∧
     -- an automatic unbinding: every task of the launch ended, and the member empty, full and quiet, or full and not quiet
     (let s (f : CoreSt → CoreSt) : State := { staged theStage f with tasks := [] }
      membersOfStage (s id) 0 theHandle = [(0, 1)] ∧ memberHolds (getCore (s id) 0) 1 theStage = false ∧
      memberHolds (getCore (s fun k => { k with pod := [(5, ctxOf .idle)] }) 0) 1 theStage = true ∧
      memberHolds (getCore (s fun k => { k with pod := [(5, ctxOf .run)] }) 0) 1 theStage = true ∧
      (staged theStage).tasks.any (fun e => e.2.launch = theStage.launch && e.2.coro.isNone && !e.2.place.isEnded) = true)) := by decide +kernel

/-- The group of task 0 with an account, and a second one of the same ASID or of another. -/
def grouped (own resv asid2 : Nat) : State :=
  let g := (taskOf home).group
  { home with groups := (home.groups.map fun e => if e.1 = gidIdx g then (e.1, { e.2 with own, resv }) else e) ++ [(gidIdx g + 1, { gen := 0, asid := asid2, own := 1, origin := .gnew 0 })] }

theorem wit_GroupInstructions :
    (let g := (taskOf home).group
     let q := gidOf (gidIdx g + 1) 0
     let at_ (own resv asid2 a b : Nat) (i : Instr) (p : State → Bool) : Bool := meets (regs [(6, a), (7, b)] (grouped own resv asid2)) i fun _ _ g => p g
     let r (s : State) : Nat × Nat := ((getGroup s g).map fun r => (r.own, r.resv)).getD (0, 0)
     at_ 4 0 0 3 0 (.gnew h 5 6) (fun s => (r s).2 + 3 ≤ (r s).1 && nCores s g + 3 ≤ (r s).1 && (newGroup s 0 0 0 0 0 (.gnew 0)).isSome) = true ∧
     at_ 4 0 0 4 0 (.gnew h 5 6) (fun s => (r s).1 < nCores s g + 4) = true ∧
     at_ 4 0 0 4 0 (.leave h 5 6) (fun s => coresWithout s g 0 + 4 ≤ (r s).1) = true ∧ at_ 4 2 0 3 0 (.leave h 5 6) (fun s => (r s).1 < (r s).2 + 3) = true ∧
     at_ 4 0 0 0 0 (.leave h 5 6) (fun _ => true) = true ∧
     at_ 4 0 0 (q.toNat + 1) 0 (.gfree h 5 6) (fun s => (getGroup s (q + 1)).isNone) = true ∧
     at_ 4 0 3 q.toNat 0 (.join h 5 6) (fun s => (getGroup s q).map (fun p => p.asid) = some 3) = true ∧
     at_ 4 0 0 q.toNat 0 (.gfree h 5 6) (fun s => groupState s q = 3 && groupIdle s q && s.edges.isEmpty) = true ∧
     at_ 4 0 0 g.toNat 0 (.gfree h 5 6) (fun s => groupState s g ≠ 3) = true ∧
     at_ 4 0 0 g.toNat 0 (.join h 5 6) (fun _ => true) = true ∧
     at_ 4 0 0 q.toNat 0 (.join h 5 6) (fun s => (coresOfGroup s q).length + 1 ≤ 1) = true ∧
     meets (regs [(6, q.toNat)] (modGroup (grouped 4 0 0) q fun p => { p with own := 0 })) (.join h 5 6) (fun _ _ s =>
       (getGroup s q).any fun p => p.own < (coresOfGroup s q).length + 1) = true ∧
     at_ 4 0 0 q.toNat 3 (.shgive h 5 6 7) (fun s => nCores s g + 3 ≤ (r s).1 && q ≠ g) = true ∧
     at_ 4 0 0 q.toNat 5 (.shgive h 5 6 7) (fun s => (r s).1 < 5) = true ∧
     at_ 4 0 0 4 0 (.shresv h 5 6) (fun s => 4 ≤ (r s).1) = true ∧ at_ 4 0 0 5 0 (.shresv h 5 6) (fun s => (r s).1 < 5) = true ∧
     at_ 4 0 0 0 0 (.shrd h 5 6) (fun s => (getGroup s g).map (fun p => p.asid) = some 0) = true ∧
     at_ 4 0 3 q.toNat 0 (.shrdL h 5 6) (fun s => (getGroup s q).map (fun p => p.asid) = some 3) = true ∧
     at_ 4 0 0 0 0 (.oprd h 5 6) (fun s => coreOk s 0) = true ∧ at_ 4 0 0 (4096 * 40) 0 (.oprd h 5 6) (fun s => !coreOk s (4096 * 40)) = true ∧
     ((getGroup (grouped 4 0 0) g).all fun x => x.own < 2 ^ 21 && x.resv < 2 ^ 21 && inSum x < 2 ^ 21) = true) := by decide +kernel

/-- The descriptor tables of a full device: no group can be made. -/
theorem wit_GroupInstructions_full (s : State) (h0 : freeIndex s = none) (asid own away cap home : Nat) (o : Origin) :
    newGroup s asid own away cap home o = none := by simp [newGroup, h0]

theorem wit_WaitObjectIssue :
    (let at_ (x : Nat) (i : Instr) (n : Nat) : Bool := reaches x i n .rmw false
     let off_ (x : Nat) (i : Instr) (p : Nat → Bool) : Bool := meets (regs [(6, x)] home) i fun sl _ _ => p (sl.x 6 + (0 : BitVec 32).signExtend 64).toNat
     let all : List (Instr × Nat) := [(.trylk h o 1 6 0, 16), (.unlk h o 1 6 0, 16), (.qpusht h o 1 6 7 0, 64), (.qpopt h o 1 5 6 0, 64), (.bararr h o 5 6 7 0, 128),
       (.bartry h o 1 6 7 0, 128), (.parkLk h o 6 0, 16), (.parkQn h o 6 0, 64), (.parkQs h o 6 0, 64), (.parkBar h o 6 7 0, 128), (.parkRp h o 6 0, 16)]
     (all.all fun e => at_ 0x10000 e.1 e.2 && off_ (0x10000 + 8) e.1 (fun a => a % e.2 ≠ 0) &&
       off_ (2 ^ 56) e.1 (fun a => a % e.2 = 0 && 2 ^ 56 ≤ a) && off_ W e.1 (fun a => a % e.2 = 0 && W ≤ a && a < 2 ^ 56) &&
       off_ (W - e.2) e.1 (fun a => a % e.2 = 0 && a < W) &&
       reaches 0x10000 e.1 e.2 .rmw false true (memPoison (mapped home) 0x3010000 4)) = true ∧ at_ 0x20080 (.bararr h o 5 6 7 0) 128 = true) := by decide +kernel

/-- An access by task 0 to the object of the coherent page, with words at offsets of it. -/
def objected (kind : Loc → OpKind) (ws : List (Nat × Nat)) (f : SlotSt → SlotSt := id) : State :=
  let s := mapped (slotWith fun q => f { q with ops := [opOf (kind (.glob 0 ⟨0x10000, 0x3010000, 128, false, 0, true⟩))] })
  { s with mem := ws.foldl (fun m e => wrNat m (0x3010000 + e.1) 8 e.2) s.mem }

/-- The premises of a step on a wait object, and p of the state. -/
def steps (kind : Loc → OpKind) (ws : List (Nat × Nat)) (p : State → (Nat → Nat → Nat) → Bool := fun _ _ => true) (f : SlotSt → SlotSt := id) : Bool :=
  let s := objected kind ws f
  residence s 0 = some (0, 0) && (slotAt s 0 0).isSome && (getTask s 0).isSome && (findOp s 0 7).isSome && s.memOk &&
    (match findOp s 0 7 with | some m => opReady s 0 m && m.sync = .none | none => false) && s.arrivals.isEmpty &&
    (nearFind s (clusterOf s 0) 0 (0x10000 / 128)).isNone && !memBad s 0x3010000 128 && sealedFrom s 0 (0x3010000 / 128) = 0 && s.tasks.all (fun t => t.2.wait.isNone) &&
    p s fun o n => rdNat s.mem (0x3010000 + o) n

theorem wit_LocalResults_global :
    (let l : Loc := .glob 0 ⟨0x10000, 0x3010000, 128, false, 0, true⟩
     let ready (kind : Loc → OpKind) : Bool :=
       let s := objected kind [(0, 0x80)]
       residence s 0 = some (0, 0) && (slotAt s 0 0).isSome && findOp s 0 7 = some (opOf (kind l)) && opReady s 0 (opOf (kind l)) && s.memOk
     ([1, 2, 4, 8].all fun n => ([fun l => OpKind.load false l n true 5, fun l => .load true l n false 5, fun l => .store l n 0xFF, fun l => .amo l .swap n true 1 5,
       fun l => .cas l n false 0x80 9 5, fun l => .cas l n false 1 9 5].all fun kd => ready kd &&
         let s := objected kd [(0, 0x80)]
         ((wordParts 0x10000 n).all fun p => !(coreRead s 0 false (l.plus p.1) p.2 none).2.2) && (pointBad s 0 (opOf (kd l)) l n).isNone &&
           natOf (pointRead s 0 l n none).2.1 = 0x80)) = true ∧
     ready (fun l => .loadV false l 0x81 15) = true ∧ ready (fun l => .storeV l 0xFE 7) = true ∧ (0x10060 : Nat) % 32 = 0 ∧
     ((below 8).all fun j => !(coreRead (objected (fun l => .loadV false l 0x81 15) []) 0 false (.glob 0 ⟨0x10000 + 4 * j, 0x3010000 + 4 * j, 128, false, 0, true⟩) 4
       none).2.2) = true) := by decide +kernel

/-- A state after the operation of task 0 has read its object. -/
def seen (s : State) (n : Nat) : State := match findOp s 0 7 with
  | some m => (objRead s 0 m (.glob 0 ⟨0x10000, 0x3010000, 128, false, 0, true⟩) n).1
  | none => s

/-- The operation of `objected` on a poisoned object, its slot able to go back to it. -/
def spoiled (kind : Loc → OpKind) : State := memPoison (canUndo (objected kind [])) 0x3010000 128

theorem wit_WaitObjectSteps_poison :
    ([(fun l => OpKind.trylk l 5 2, 16), (fun l => .unlk l 5 2, 16), (fun l => .qpusht l 5 1, 64), (fun l => .qpopt l 1 5, 64), (fun l => .bararr l 1 5, 128),
      (fun l => .bartry l 3 1, 128), (fun l => .park .lk l 0, ParkKind.lk.size)].all fun e =>
        let s := spoiled e.1
        match findOp s 0 7 with
        | some m => opReady s 0 m && m.sync = .none && residence s 0 = some (0, 0) && !(slotOf s).inh &&
          (match pointBad s 0 m (.glob 0 ⟨0x10000, 0x3010000, 128, false, 0, true⟩) e.2 with
           | some a => (poisonPerformed (passOlder s 0 m) 0 m .rmw a).isSome
           | none => false)
        | none => false) = true := by decide +kernel

theorem wit_WaitObjectSteps :
    (let mine := (taskOf home).group.toNat
     let lock (v : Nat) := [(0, v)]
     let queue (head tail cap : Nat) := [(0, 0x10100), (8, head + 2 ^ 32 * tail), (16, cap)]
     let bar (exp gen arr : Nat) := [(0, exp + 2 ^ 32 * gen + 2 ^ 48 * arr)]
     let reply (n coord ctr : Nat) := [(0, 2 ^ 32 * n), (8, coord + 2 ^ 18 * ctr)]
     -- locks: free with reserved bits set, held by another group, held by the task's own
     (steps (.trylk · (taskOf home).group 2) (lock (2 ^ 25)) fun _ at_ => at_ 0 4 / 2 ^ 24 % 2 = 0) = true ∧
     (steps (.trylk · (taskOf home).group 2) (lock (2 ^ 24 + mine + 1)) fun _ at_ => at_ 0 4 / 2 ^ 24 % 2 = 1) = true ∧
     (steps (.unlk · (taskOf home).group 2) (lock (2 ^ 24 + mine)) fun _ at_ => at_ 0 4 / 2 ^ 24 % 2 = 1 && at_ 0 4 % 2 ^ 24 = mine) = true ∧
     (steps (.unlk · (taskOf home).group 2) (lock mine) fun _ at_ => at_ 0 4 / 2 ^ 24 % 2 = 0) = true ∧
     -- queues: one free entry with the tail about to wrap, full, empty, and a capacity out of range
     (steps (.qpusht · 5 1) (queue (2 ^ 32 - 2) (2 ^ 32 - 1) 1) fun s at_ => at_ 16 1 % 32 = 1 &&
       (at_ 12 4 + 2 ^ 32 - at_ 8 4) % 2 ^ 32 < 2 ^ 1 &&
       match entryPlace (seen s 64) 0 (rdNat s.mem 0x3010000 64) (at_ 12 4) with
       | .ok (_, e) => 0x3010040 ≤ e.pa
       | .error _ => false) = true ∧
     (steps (.qpusht · 5 1) (queue (2 ^ 32 - 1) 1 1) fun _ at_ => 2 ^ 1 ≤ (at_ 12 4 + 2 ^ 32 - at_ 8 4) % 2 ^ 32) = true ∧
     (steps (.qpusht · 5 1) (queue 0 0 25) fun _ at_ => 24 < at_ 16 1 % 32) = true ∧
     (steps (.qpopt · 1 5) (queue (2 ^ 32 - 1) 0 1) fun s at_ => at_ 16 1 % 32 = 1 && (at_ 12 4 + 2 ^ 32 - at_ 8 4) % 2 ^ 32 ≠ 0 &&
       match entryPlace (seen s 64) 0 (rdNat s.mem 0x3010000 64) (at_ 8 4) with
       | .ok (_, e) => !memBad s e.pa 8 && sealedFrom s 0 (e.pa / 128) = 0
       | .error _ => false) = true ∧
     (steps (.qpopt · 1 5) (queue 9 9 1) fun _ at_ => (at_ 12 4 + 2 ^ 32 - at_ 8 4) % 2 ^ 32 = 0) = true ∧
     -- barriers: the last arrival, an early one, a second one of the same member
     (steps (.bararr · 1 5) (bar 2 0xFFFF 1) fun _ at_ => at_ 6 2 / 2 ^ 1 % 2 = 0 &&
       2 ≤ ((List.range 16).filter fun j => (at_ 6 2 + 2 ^ 1) / 2 ^ j % 2 = 1).length) = true ∧
     (steps (.bararr · 15 5) (bar 16 3 1) fun _ at_ => at_ 6 2 / 2 ^ 15 % 2 = 0 &&
       ((List.range 16).filter fun j => (at_ 6 2 + 2 ^ 15) / 2 ^ j % 2 = 1).length < 16) = true ∧
     (steps (.bararr · 0 5) (bar 2 3 1) fun _ at_ => at_ 6 2 / 2 ^ 0 % 2 = 1) = true ∧
     steps (.bartry · 3 1) (bar 2 3 1) = true ∧
     -- parks: in a handler, met and not met, a dead group awaited, a reply at a core that is absent
     (let parks (kd : ParkKind) (gen : Nat) (ws : List (Nat × Nat)) (p : State → Nat → TaskSt → Bool) (inh : Bool) : Bool :=
        steps (fun l => .park kd l gen) ws (fun s _ => p s (rdNat s.mem 0x3010000 kd.size) (taskOf s) && (slotOf s).inh = inh) fun q => { q with inh }
      let calm (met : Bool) (kd : ParkKind) (s : State) (w : Nat) (k : TaskSt) : Bool := (replyBad s kd w k.asid).isNone &&
        (met || (awaited kd w k.group).isEmpty || (awaited kd w k.group).any fun g => (getGroup s g).isSome)
      parks .lk 0 (lock (2 ^ 24)) (fun _ _ _ => true) true = true ∧
      parks .lk 0 (lock 7) (calm true .lk) false = true ∧ parks .lk 0 (lock (2 ^ 24 + mine)) (calm false .lk) false = true ∧
      parks .qn 0 (queue 3 4 1) (calm true .qn) false = true ∧ parks .qn 0 (queue 4 4 1) (calm false .qn) false = true ∧
      parks .qs 0 (queue 3 4 1) (calm true .qs) false = true ∧ parks .qs 0 (queue 3 5 1) (calm false .qs) false = true ∧
      parks .bar 2 (bar 2 3 0) (calm true .bar) false = true ∧ parks .bar 3 (bar 2 3 0) (calm false .bar) false = true ∧
      parks .rp 0 (reply 0 0 3) (calm true .rp) false = true ∧ parks .rp 0 (reply 1 0 3) (calm false .rp) false = true ∧
      parks .rp 0 (reply 1 (4096 * 40) 3) (fun s _ _ => !coreOk s (4096 * 40)) false = true ∧
      parks .rp 0 (reply 1 65 3) (fun s _ _ => coreOk s 65 && (getCore s 65).owner ≠ some 0) false = true ∧
      parks .lk 0 (lock (2 ^ 24 + 0xFFFFFF)) (fun s w k => (awaited .lk w k.group) ≠ [] && (awaited .lk w k.group).all fun g => (getGroup s g).isNone)
        false = true)) := by decide +kernel

/-- Task 0 parked, waiting for the groups `gs`. -/
def parkedOn (kind : ParkKind) (gs : List GroupId) : State := modTask (delSlot home 0 0) 0 fun k =>
  { k with place := .parked 0 ⟨0, 0x20000⟩, wait := some { kind, obj := 0x3010000, asid := 0, coord := 0, ctr := 0, thresh := 1, stage := none, groups := gs } }

theorem wit_GraphEvents :
    (let g := (taskOf home).group
     let q := gidOf (gidIdx g + 1) 0
     let gone := q + 1
     -- a task to wake
     ([ParkKind.bar, .rp].all fun kd => let s := parkedOn kd []
       (match getTask s 0 with
        | some k => (match k.wait with | some w => w.stage.isNone && w.kind = kd | none => false) && k.place = .parked 0 ⟨0, 0x20000⟩ && !outOfService s k.home
        | none => false)) = true ∧
     -- a share message to a group that is gone, and to one whose message is lost
     (let s : State := { home with groups := [(7, { gen := 3, live := false }), (8, { gen := 0, lost := some (0, 1) })] }
      (tget s.groups 7).map (fun x => gidOf 7 x.gen) = some (gidOf 7 3) ∧ getGroup s (gidOf 7 3) = none ∧
      ((getGroup s (gidOf 8 0)).any fun x => x.lost.isSome) = true) ∧
     -- accounts: nothing to give up elsewhere, something to give up, an empty group of GNEW
     (let s := grouped 4 0 0
      let lent : State := { s with groups := s.groups.map fun e => if e.1 = gidIdx q then (e.1, { e.2 with inn := [1] }) else e }
      let done : State := { s with groups := s.groups.map fun e => if e.1 = gidIdx q then (e.1, { e.2 with settled := true }) else e }
      (tget s.groups (gidIdx g)).map (fun r => gidOf (gidIdx g) r.gen) = some g ∧ gidIdx g < 2 ^ 18 ∧ (getGroup s g).isSome = true ∧ removalPending s g = false ∧
      removalPending lent g = true ∧ (getGroup lent g).isSome = true ∧
      groupIdle done q = true ∧ done.edges = [] ∧ (getGroup done q).map (fun r => (r.origin, r.settled)) = some (.gnew 0, true)) ∧
     -- a probe at a group that is gone, at one that is not suspended, at its origin, and at another
     (let probing (s : State) (origin at_ : GroupId) : State := { s with
        probes := [(3, { origin, serial := 1, at_, path := [] })], edges := [{ src := g, dst := q, time := 0, tasks := [0] }] }
      let s := { parkedOn .lk [q] with groups := (grouped 4 0 0).groups }
      tget (probing s g gone).probes 3 = some { origin := g, serial := 1, at_ := gone, path := [] } ∧ (getGroup (probing s g gone) gone).isNone = true ∧
      (getGroup (probing (grouped 4 0 0) q g) g).isSome = true ∧ groupState (probing (grouped 4 0 0) q g) g = 0 ∧
      (getGroup (probing s q g) g).isSome = true ∧ groupState (probing s q g) g = 1 ∧ q ≠ g ∧ (probing s q g).probeRecs = [] ∧
      ((probing s q g).edges.map fun e => e.src) = [g] ∧ groupState (probing s g g) g = 1 ∧
      -- a wake message at the first group of its path
      (let w (s : State) (x : GroupId) : State := { s with wakes := [(5, { path := [x, q] })] }
       tget (w s g).wakes 5 = some { path := [g, q] } ∧ (getGroup (w s gone) gone).isNone = true ∧ groupState (w (grouped 4 0 0) g) g ≠ 1 ∧
       groupState (w s g) g = 1 ∧ (w s g).tasks.length = 1 ∧
       ((w s g).tasks.map fun e => decide (e.2.group = g) && e.2.wait.any fun v => v.groups.contains q) = [true] ∧
       ((w s g).tasks.map fun e => e.2.place) = [.parked 0 ⟨0, 0x20000⟩])) ∧
     (let s (now : Nat) : State := { home with now, probeRecs := [(2, { group := g, origin := g, serial := 1, next := q, time := 0 })] }
      (tget (s 8191).probeRecs 2).isSome = true ∧ (s 8191).now < 8192 ∧ (tget (s 8192).probeRecs 2).map (fun r => r.time + 8192) = some (s 8192).now)) := by
  decide +kernel

/-- Task 0 parked, its group with 5 shares and 1 kept back waiting for the next group, of which a task is queued. -/
def lending : State :=
  let g := (taskOf home).group
  let q := gidOf (gidIdx g + 1) 0
  let s := parkedOn .lk [q]
  { s with
    tasks := s.tasks ++ [(1, { taskOf home with group := q, place := .queued 0 })]
    groups := (grouped 5 1 0).groups, edges := [{ src := g, dst := q, time := 0, tasks := [0] }] }

/-- The lender of `lending` has the one recipient. -/
theorem wit_GraphEvents_shares :
    let g := (taskOf home).group
    let q := gidOf (gidIdx g + 1) 0
    (lending.groups.map Prod.fst).Nodup ∧ (lending.groups.all fun e => decide (e.1 < 2 ^ 18)) = true ∧
    (getGroup lending g).isSome = true ∧ groupState lending g = 1 ∧ (getGroup lending q).isSome = true ∧ q ≠ g ∧
    lending.edges = [{ src := g, dst := q, time := 0, tasks := [0] }] ∧ lending.tasks.length = 2 ∧ recalled lending q = false ∧
    recipients lending g = [q] ∧ lenders lending = [(g, [q])] := by decide +kernel

theorem wit_OperatingPoints_density :
    (home.tasks.map fun e => (e.2.group, e.2.place)) = [((taskOf home).group, .resident 0 0)] ∧ [0].Nodup ∧
    ([Place.queued 0, .parked 0 ⟨0, 0⟩, .saved 0 ⟨0, 0⟩, .ended].map fun p =>
      groupState (modTask home 0 fun k => { k with place := p }) (taskOf home).group) = [0, 1, 2, 3] := by decide +kernel

/-- Core 0 at an operating point, its one group's density `own`, the charge that its die has spent. -/
def charged (own op spent : Nat) (stepping : Bool) (f : DieSt → DieSt) : State :=
  let s := modCore (grouped own 0 0) 0 fun k => { k with op, stepping }
  setDie s (dieKey 0) (f { getDie s (dieKey 0) with spent })

theorem wit_OperatingPoints :
    (let cost := 25 * (2 - Nat.max 1 1)
     let want (s : State) : Nat := wantedOp s 0
     let first (s : State) : Bool := !isControl 0 && !isHart 0 && !(getCore s 0).stepping
     isHart (hartBase + 15) = true ∧ isControl (4096 * 56) = true ∧
     -- every density at an end of its range
     ([(0, 0), (1, 1), (5, 1), (6, 2), (9, 2), (10, 3), (14, 3), (15, 4), (21, 4), (22, 5), (29, 5), (30, 6), (39, 6), (40, 7)].all fun e =>
       coreDensity (charged e.1 0 0 false id) 0 = e.1 && want (charged e.1 0 0 false id) = e.2) = true ∧
     -- no change; a lower point or the first; a raise that the bank pays for to the last unit; one that it does not
     want (charged 6 2 0 false id) = (getCore (charged 6 2 0 false id) 0).op ∧
     (first (charged 1 0 0 false id) && decide (want (charged 1 0 0 false id) ≤ Nat.max 1 0)) = true ∧
     (first (charged 6 7 0 false id) && decide (want (charged 6 7 0 false id) ≤ Nat.max 1 7)) = true ∧
     (let s := charged 6 1 (12800 - cost) false id
      first s && want s = 2 && (getDie s (dieKey 0)).raises.isEmpty && (getDie s (dieKey 0)).spent + cost ≤ 12800) = true ∧
     (let s := charged 6 1 (12801 - cost) false id
      first s && want s = 2 && (getDie s (dieKey 0)).raises.isEmpty && 12800 < (getDie s (dieKey 0)).spent + cost && !(getDie s (dieKey 0)).holding) = true ∧
     -- a switch, and one whose raise still waits
     (getCore (charged 6 1 0 true id) 0).stepping = true ∧ (getDie (charged 6 1 0 true id) (dieKey 0)).raises = [] ∧
     (let s (now : Nat) : State := { charged 6 1 0 false fun d => { d with raises := [⟨0, 0⟩] } with now }
      (getDie (s 1600) (dieKey 0)).raises = [⟨0, 0⟩] ∧ 0 + 1600 ≤ (s 1600).now ∧ (s 1599).now < 0 + 1600 ∧
      (getCore (s 1600) 0).op < want (s 1600))) := by decide +kernel

/-- A raise that waits while the density falls back to the point or below it. -/
theorem wit_OperatingPoints_withdrawn :
    ([1, 2, 7].all fun op =>
      let s : State := { charged 1 op 12800 true fun d => { d with raises := [⟨0, 0⟩], holding := true } with now := 1600 }
      wantedOp s 0 = 1 && wantedOp s 0 ≤ (getCore s 0).op && !isControl 0 && !isHart 0 && (getDie s (dieKey 0)).raises = [⟨0, 0⟩] && 0 + 1600 ≤ s.now) = true := by
  decide +kernel

theorem wit_CoreEvents :
    (let at_ (f : SlotSt → SlotSt) (now : Nat) (p : SlotSt → TaskSt → State → Bool) : Bool :=
       let s := { slotWith f with now }
       (slotAt s 0 0 = some (slotOf s)) && (getTask s (slotOf s).task).isSome && p (slotOf s) (taskOf s) s
     let boundary (sl : SlotSt) : Bool := match sl.hold with | .none => true | .sleep _ _ _ _ _ => true | .ksendFull _ => true | _ => false
     let late (s : State) (sl : SlotSt) (n : Nat) : Bool := match sl.preReq with | some t0 => n ≤ s.now - t0 | none => false
     slotAt home 0 1 = none ∧
     at_ id 0 (fun sl _ _ => sl.hold = .none) = true ∧
     -- a block awaited, alone or after a lower one of the same cluster
     at_ (fun q => { q with frozen := some 5 }) 0 (fun sl _ s => sl.frozen = some 5 && (pendingFetches s (clusterOf s 0)).all (5 ≤ ·) &&
       (coresAt s (clusterOf s 0)).contains 0) = true ∧
     (let s := modCore home 0 fun k => { k with slots := [(0, { slotOf home with frozen := some 5 }), (2, { slotOf home with frozen := some 4 })] }
      (slotAt s 0 0).map (fun sl => sl.frozen) = some (some 5) ∧ (pendingFetches s (clusterOf s 0)).any (· < 5) = true) ∧
     -- a user-level interrupt that may be taken, and none
     (let s := modTask home 0 fun k => { k with ints := [{ handler := 0x40, xid := 3 }] }
      (slotAt s 0 0).isSome && !(slotOf s).inh && (slotOf s).hold = .none && (slotOf s).gap = 0 && (slotOf s).level = (taskOf s).level0 &&
        (taskOf s).ints = [{ handler := 0x40, xid := 3 }]) = true ∧
     at_ id 0 (fun _ k _ => k.ints.isEmpty) = true ∧
     -- pre-emption: at a boundary, and in a handler with work outstanding
     at_ (fun q => { q with level := (taskOf home).level0 }) 0 (fun sl k _ => sl.preReq.isNone && sl.hold = .none && sl.ops.isEmpty &&
       sl.saveWait.isNone && sl.level = k.level0 && !sl.inh) = true ∧
     -- and with an answer to a KSENDT on its way, or none
     (({ home with kmsgs := [(300, { task := 0, pred := some 3, coord := 0, stage := 1, answer := .accepted })] } : State).kmsgs.any fun e =>
       e.2.task = (slotOf home).task && e.2.pred.isSome) = true ∧ home.kmsgs = [] ∧
     at_ (fun q => { q with inh := true, ops := [opOf (.cntrd 0 5)] }) 0 (fun sl _ _ => sl.preReq.isNone && !sl.ops.isEmpty && sl.inh) = true ∧
     -- the limits, at the cycle and one before it
     at_ (fun q => { q with inh := true, preReq := some 0, level := (taskOf home).level0 }) 1600 (fun sl k s =>
       late s sl 1600 && sl.inh && sl.level = k.level0 && boundary sl && sl.hold = .none) = true ∧
     at_ (fun q => { q with inh := true, preReq := some 0, level := (taskOf home).level0 }) 1599 (fun sl _ s => !late s sl 1600) = true ∧
     at_ (fun q => { q with preReq := some 0, level := 2 }) 3200 (fun sl k s => late s sl 3200 && sl.level ≠ k.level0 && boundary sl && sl.hold = .none) = true ∧
     at_ (fun q => { q with preReq := some 0, level := 2, ops := [opOf (.cntrd 0 5)] }) 3200 (fun sl k s =>
       late s sl 3200 && sl.level ≠ k.level0 && sl.hold = .none && !sl.ops.isEmpty) = true ∧
     at_ (fun q => { q with preReq := some 0, level := 2, ops := [opOf (.cntrd 0 5)], hold := .sleep 3 0 0 9 5 }) 3200 (fun sl k s =>
       late s sl 3200 && sl.level ≠ k.level0 && sl.hold = .sleep 3 0 0 9 5 && !sl.ops.isEmpty) = true ∧
     at_ (fun q => { q with preReq := some 0, level := 2 }) 3199 (fun sl _ s => !late s sl 3200) = true ∧
     at_ (fun q => { q with preReq := some 0, ops := [{ opOf (.cntrd 0 5) with lost := some (0, 1) }] }) 6400 (fun sl _ s =>
       late s sl 6400 && sl.ops.any fun m => m.lost.isSome) = true ∧
     at_ (fun q => { q with preReq := some 0, ops := [{ opOf (.cntrd 0 5) with lost := some (0, 1) }] }) 6399 (fun sl _ s => !late s sl 6400) = true) := by
  decide +kernel

/-- Task 0 of a launch with an argument block, queued at core 0 as the first entry. -/
def toPlace (start : Start) : State :=
  let s := modTask (delSlot home 0 0) 0 fun k => { k with place := .queued 0, feat := 0x3F }
  let s := modCore s 0 fun k => { k with queue := [⟨0, 0, (taskOf home).launch, 0, start, false, false⟩] }
  { s with launches := s.launches.map fun e => (e.1, { e.2 with argv := [1, 2, 3, 4, 5, 6, 7, 8] }) }

theorem wit_CoreEvents_queue :
    (let n := (taskOf home).launch
     (getCore home 0).queue = [] ∧
     (match (getCore (toPlace .fresh) 0).queue with
      | [q] => q.start = .fresh && (match getTask (toPlace .fresh) q.task with
        | some k => (match tget (toPlace .fresh).launches k.launch with | some l => l.argv.length = 8 | none => false) &&
            k.detached.isEmpty && !k.pin && k.feat.toNat < 128 && !(getCore (toPlace .fresh) 0).images.contains k.launch &&
            ((getCore (toPlace .fresh) 0).owner = none || (getCore (toPlace .fresh) 0).owner = some k.asid) &&
            (List.range 16).all fun b => !k.feat.getLsbD b || (getCore (toPlace .fresh) 0).feat.getLsbD b
        | none => false)
      | _ => false) = true ∧
     (getCore (toPlace .fresh) 0).slots = [] ∧ (getCore (toPlace .fresh) 0).halted = false ∧
     (getCore (toPlace .fresh) 0).unavail = false ∧ (getCore (toPlace .fresh) 0).freezing = false ∧
     -- a record that the firmware queues, one that it moves from a halted core, one that is pinned there
     (let s (home' : Nat) (pin : Bool) : State :=
        let s := modTask (delSlot (mapped home) 0 0) 0 fun k => { k with place := .saved home' ⟨0, 0x20000⟩, kept := some (home', ⟨0, 0x20000⟩), fw := true, home := home' }
        { modCore s 1 fun k => { k with halted := true } with
          mem := wrNat s.mem 0x302000F 1 (if pin then 32 else 0), launches := s.launches.map fun e => (e.1, { e.2 with r := { e.2.r with ncol := 2 } }) }
      ([s 0 false, s 1 false, s 1 true].map fun t => (firmwareTask t 0).map Prod.fst) = [some 0, some 0, none] ∧
      (getTask (s 1 true) 0).map (fun k => recordPin (s 1 true) k ⟨0, 0x20000⟩) = some true ∧ (getCore (s 1 false) 1).halted = true) ∧
     (getCore (modCore home 0 fun k => { k with freezing := true }) 0).freezing = true ∧
     -- a record that may be resumed, one that waits with no slot for it, and one on a core that is out of service
     (let s := toPlace (.record ⟨0, 0x20000⟩)
      let due (s : State) : Bool := (getCore s 0).queue.any fun e => e.start.isRecord && (placeable s 0 e || !e.waiting && admissible s 0 e)
      due s = true ∧ due (toPlace .fresh) = false ∧
      due (modCore s 0 fun k => { k with slots := (below 4).map fun i => (i, slotOf home) }) = true ∧
      due (modCore s 0 fun k => { k with slots := (below 4).map fun i => (i, slotOf home), queue := k.queue.map fun e => { e with waiting := true } }) = false ∧
      due (modCore s 0 fun k => { k with unavail := true }) = false ∧ (getTask s 0).isSome = true) ∧
     -- a launch that is over, and one that is not
     (let s : State := { modTask (delSlot home 0 0) 0 fun k => { k with place := .ended } with
        launches := home.launches.map fun e => (e.1, { e.2 with r := { e.2.r with doneEn := true } }) }
      (tget s.launches n).map (fun l => (l.r.doneEn, l.done)) = some (true, false) ∧ (tget home.launches n).map (fun l => l.r.doneEn) = some false ∧
      (s.tasks.all fun e => e.2.place.isEnded && (outstanding s e.1).isEmpty) = true ∧ (s.cores.all fun e => e.2.stages.isEmpty) = true) ∧
     (tget home.launches n).isSome = true ∧ (home.tasks.any fun e => e.2.launch = n && !e.2.place.isEnded) = true ∧
     -- its done increment on its way
     ((tget { home with cmsgs := [(9, { coord := 0, ctr := 0, add := 1, asid := some 0, launch := some n })] }.cmsgs 9).any fun m =>
       m.link.isNone && m.launch = some n && (getCore home m.coord).firedAt ≠ some home.now && (getCore home m.coord).trigAt ≠ some home.now &&
         !(getCore home m.coord).freezing) = true ∧
     tget { home with fetches := [(3, Prefetch.code 0 0 2 none)] }.fetches 3 = some (.code 0 0 2 none) ∧ tget home.fetches 3 = none ∧
     -- with a demand fetch of the cluster pending, and without
     pendingFetches (slotWith fun q => { q with frozen := some 4 }) (clusterOf home 0) ≠ [] ∧ pendingFetches home (clusterOf home 0) = []) := by decide +kernel

/-- A dirty byte in a line of a near cache. -/
def dirtied : State := modCluster home 0 fun k => { k with near := [{
  asid := 0, line := 0x10000 / 128, pa := 0x3010000, swm := false, cls := 0, valid := 0xFFFFFFFF, dirty := 1, data := 0xAB, poison := 0 }] }

/-- An open fault record of ring 0 with task 0 attached, or more of its fields. -/
def faulted (flags : Nat) : State := { home with
  mem := wrNat home.mem 0x5000 1 flags
  gw := { home.gw with rings := [(0, { cfg := 0x5003, tasks := [⟨0, 0, 0, 0x40, { cause := .page }⟩] })] } }

/-- Page requests of function 1: an open one, and a miss to post again. -/
def requesting (now cfg : Nat) (who : Missed) : State := { home with
  now
  cmds := [(300, cmdOf (.lanes 4 []) .queued)]
  gw := { home.gw with prq := [(1, { cfg := BitVec.ofNat 64 cfg, open_ := if cfg = 0 then [] else [(2, 7)], retry := [⟨4, 0, 7 * 65536, who, 1, 0⟩] })] } }

/-- Task 0 saved and suspended on page request 2 of function 1. -/
def suspended : State :=
  let s := modTask (delSlot home 0 0) 0 fun k => { k with place := .saved 0 ⟨0, 0x20000⟩ }
  { s with gw := { s.gw with prq := [(1, { cfg := 0x800000005003, open_ := [(2, 7)], tasks := [(2, 0)] })] } }

/-- No Husk access and no save of a core waits on memory. -/
def calm (s : State) : Bool :=
  s.cores.all fun e => (e.2.stages.all fun x => x.2.await.isNone) && e.2.slots.all fun x => x.2.saveWait.isNone

theorem wit_MemoryEvents :
    (home.memOk && dirtied.memOk && (faulted 1).memOk && (requesting 0 0 (.cmd 300)).memOk && suspended.memOk) = true ∧ nearFind home 0 0 512 = none ∧
    ((nearFind dirtied 0 0 512).map fun l => l.dirty.getLsbD 0) = some true ∧
    -- an invalidation with nothing to wait for, and one with an operation
    (let b (n : Nat) : TbInv := { core := 0, tb0 := 0, tb1 := 2 ^ 22, wait := [n] }
     let s (n : Nat) : State := { busy (.cntrd 0 5) with tbinvs := [(3, b n)] }
     tget (s 7).tbinvs 3 = some (b 7) ∧ ((translated (s 7)).map fun m => m.1) = [7] ∧ tget (s 8).tbinvs 3 = some (b 8)) ∧
    -- a notice of an open record, of one that is done, and of one past the ring
    (let r (flags : Nat) : RingSt := getRing (faulted flags) 0
     fld (r 1).cfg 4 0 = 3 ∧ recAddr (r 1) 0 = 0x5000 ∧ rdNat (faulted 1).mem 0x5000 1 = 1 ∧ rdNat (faulted 5).mem 0x5000 1 / 4 % 2 = 1 ∧
     (r 1).tasks = [⟨0, 0, 0, 0x40, { cause := .page }⟩] ∧ ¬ 8 < 2 ^ fld (r 1).cfg 4 0 ∧ (faulted 1).cmds = [] ∧ getTask (faulted 1) 0 = getTask home 0 ∧
     calm (faulted 1) = true) ∧
    ([Missed.cmd 300, .task 0, .husk 0 1].all fun who =>
      let s := requesting 4096 0x800000005003 who
      let q := getPrq s 1
      q.tasks.isEmpty && q.cmds.isEmpty && q.open_.map Prod.fst = [2] && s.gw.prq = [(1, q)] && q.retry = [⟨4, 0, 7 * 65536, who, 1, 0⟩] &&
        (pagePost s 1 0 (7 * 65536) 1).2 = some 2) = true ∧
    (let s (now : Nat) : State := requesting now 0 (.cmd 300)
     (pagePost (s 4096) 1 0 (7 * 65536) 1).2 = none ∧ (s 4095).now < 0 + 4096 ∧ (s 4096).now = 0 + 4096 ∧
     (s 0).gw.prq = [(1, getPrq (s 0) 1)] ∧ ((getPrq (s 0) 1).retry.map fun x => (x.id, x.time)) = [(4, 0)]) ∧
    (let q := getPrq suspended 1
     q.tasks = [(2, 0)] ∧ q.cmds = [] ∧ (q.open_.map Prod.fst) = [2] ∧ calm suspended = true ∧
     (getTask suspended 0).map (fun k => (k.place, k.wait)) = some (.saved 0 ⟨0, 0x20000⟩, none)) ∧
    (let b : StageSt := { theStage with await := some (true, unposted + 4) }
     (tget (getCore (staged b) 0).stages 1).map (fun p => p.await) = some (some (true, unposted + 4))) ∧
    home.gw.prq = [] ∧
    -- entries of the remap tables, the last ones
    (let s := setDie home 39 { getDie home 39 with clusterMap := [(999, 0x83FF)], coreMap := (below 16).map fun i => ⟨true, i, 63, 62, i⟩ }
     tget (getDie s 39).clusterMap 999 = some 0x83FF ∧ (getDie s 39).coreMap[15]? = some ⟨true, 15, 63, 62, 15⟩) := by decide +kernel

theorem calm_cores {s : State} (h : calm s = true) (d : Nat) :
    (∀ x ∈ (getCore s d).stages, x.2.await = none) ∧ ∀ x ∈ (getCore s d).slots, x.2.saveWait = none := by
  simp only [calm, List.all_eq_true, Bool.and_eq_true, Option.isNone_iff_eq_none] at h
  unfold getCore
  cases hk : tget s.cores d with
  | none =>
    simp only [CoreSt.booted, CoreSt.reset, Option.getD_none]
    split_ifs <;> simp
  | some k => exact h _ (mem_of_tget hk)

/-- No Husk access and no save waits on memory, at any core. -/
theorem wit_MemoryEvents_cores (d : Nat) :
    (∀ x ∈ (getCore (faulted 1) d).slots, x.2.saveWait = none) ∧
    (∀ x ∈ (getCore suspended d).stages, x.2.await = none) ∧ ∀ x ∈ (getCore suspended d).slots, x.2.saveWait = none :=
  ⟨(calm_cores (by decide +kernel) d).2, calm_cores (by decide +kernel) d⟩

theorem leastBy_isSome {α : Type} {f : α → Nat} {xs : List α} (h : xs ≠ []) : (leastBy f xs).isSome = true := by
  cases xs with
  | nil => exact absurd rfl h
  | cons x xs =>
    unfold leastBy
    split
    · rfl
    · split <;> rfl

theorem filter_take_ne_nil {r l : List Nat} (hn : r.Nodup) (h : 0 < r.length) :
    r.filter (fun x => !(l.take (r.length - 4)).contains x) ≠ [] := by
  intro hc
  simp only [List.filter_eq_nil_iff, Bool.not_eq_true, Bool.not_eq_false', List.contains_iff_mem] at hc
  have h1 := (hn.subperm hc).length_le
  have h2 := List.length_take_le (r.length - 4) l
  omega

theorem spareClusters_ne_nil {s : State} {die : Nat} {r : List Nat}
    (hr : ((below 1024).filter fun cl => !(usedClusters (getDie s die)).contains cl) = r) (hn : r.Nodup) (h : 0 < r.length) :
    spareClusters s die ≠ [] := by
  subst hr
  exact filter_take_ne_nil hn h

/-- The state of the device when a spare for core 65 is sought. -/
def frozen65 : State := noteFrozen home 65

theorem used_frozen : usedClusters (getDie frozen65 0) = below 1000 := by
  have h : (getDie frozen65 0).clusterMap = [] := by decide +kernel
  unfold usedClusters
  rw [h]
  exact List.map_id _

theorem rest_frozen : ((below 1024).filter fun cl => !(usedClusters (getDie frozen65 0)).contains cl) = upFrom 1000 24 := by
  have e : below 1024 = below 1000 ++ upFrom 1000 24 := by decide +kernel
  have h1 : ((below 1000).filter fun cl => !(below 1000).contains cl) = [] := by simp
  have h2 : ((upFrom 1000 24).filter fun cl => !(below 1000).contains cl) = upFrom 1000 24 := by decide +kernel
  rw [used_frozen, e, List.filter_append, h1, h2, List.nil_append]

/-- Whichever sites pass test, a die of home has a spare cluster (R18). -/
theorem spare_exists : spareClusters frozen65 0 ≠ [] :=
  spareClusters_ne_nil rest_frozen (by decide +kernel) (by decide +kernel)

theorem wit_DeviceEvents_spare :
    ∃ site x, spareSite (noteFrozen home 65) 0 = some site ∧ remapCore (getDie (noteFrozen home 65) 0) 65 site = some x := by
  change ∃ site x, spareSite frozen65 0 = some site ∧ remapCore (getDie frozen65 0) 65 site = some x
  obtain ⟨cl, hcl⟩ := List.exists_mem_of_ne_nil _ spare_exists
  have hm : (getDie frozen65 0).coreMap = [] := by decide +kernel
  have hf : (getDie frozen65 0).frozen = [(1, 1)] := by decide +kernel
  have hs : (spareSite frozen65 0).isSome = true := by
    unfold spareSite
    apply leastBy_isSome
    refine List.ne_nil_of_mem (a := (2 * (cl / 32), 2 * (cl % 32))) (List.mem_filter.mpr ⟨?_, ?_⟩)
    · exact List.mem_flatten.mpr ⟨_, List.mem_map.mpr ⟨cl, hcl, rfl⟩, List.mem_map.mpr ⟨0, by decide, by simp⟩⟩
    · simp only [hm, hf, List.any_nil, Bool.not_false, Bool.and_true, Bool.not_eq_true', List.contains_cons, List.contains_nil, Bool.or_false,
        beq_eq_false_iff_ne, ne_eq, Prod.mk.injEq]
      omega
  obtain ⟨site, h⟩ := Option.isSome_iff_exists.mp hs
  have hx : (remapCore (getDie frozen65 0) 65 site).isSome = true := by
    unfold remapCore
    rw [hm]
    rfl
  obtain ⟨x, hx⟩ := Option.isSome_iff_exists.mp hx
  exact ⟨site, x, h, hx⟩

/-- A core that freezes while an access, an answer or a matrix entry is outstanding; a word of a near cache that is valid. -/
theorem wit_DeviceEvents_freeze :
    (let frz (f : SlotSt → SlotSt) : State := modCore (slotWith f) 0 fun k => { k with freezing := true }
     let s := frz fun q => { q with ops := [opOf (.cntrd 0 5)] }
     (getCore s 0).freezing = true ∧ coreOk s 0 = true ∧ isHart 0 = false ∧ (getCore s 0).slots = [(0, slotOf s)] ∧ (slotOf s).hold = .none ∧
     ((slotOf s).ops.any fun m => m.lost.isNone) = true ∧ (getCore (frz id) 0).slots = [(0, slotOf (frz id))] ∧
     ((answering (some 7) .accepted .none false).kmsgs.any fun e => e.2.task = 0 && e.2.pred.isSome) = true ∧
     (getCore (modCore (delSlot (frz id) 0 0) 0 fun k => { k with mq := [entryOf (.mzero 0)] }) 0).mq.length = 1 ∧
     ((nearFind (lined true 0) (clusterOf home 0) 0 0x400).map fun l => l.valid.getLsbD 31) = some true) := by decide +kernel

theorem wit_DeviceEvents :
    (let r (vf : Nat) : State := { mapped home with gw := { (mapped home).gw with apr := [(3, 2 ^ 63 + BitVec.ofNat 64 (vf * 2 ^ 52))] } }
     let a (vf : Nat) (write : Bool) (off : Nat) : Bar2Access := { vf, off := 3 * 2 ^ 32 + off, write, data := [1, 2], len := 2 }
     let opened (s : State) (x : Bar2Access) : Bool :=
       let w := (tget s.gw.apr (x.off / 2 ^ 32 % 16)).getD 0
       w.getLsbD 63 && (w.extractLsb' 52 6).toNat = x.vf && (w.extractLsb' 0 24).toNat * 2 ^ 32 + x.off % 2 ^ 32 < W
     opened (r 0) (a 0 true 0x10000) = true ∧ opened (r 0) (a 0 false 0x30000) = true ∧ opened (r 2) (a 2 true 0x10000) = true ∧
     (match devWrite (r 0) 0 0x10000 [1, 2] with | .ok _ => true | .error _ => false) = true ∧
     (match devRead (r 0) 0 0x30000 2 with | .ok (_, _, none) => true | _ => false) = true ∧
     opened (r 1) (a 0 true 0x10000) = false ∧ opened (r 1) (a 2 false 0x10000) = false ∧
     (r 0).memOk = true ∧
     -- a link of dies 0 and 1, resent 15 and 16 times, one that leads nowhere, and one that is down
     (let s (n t : Nat) : State := setDie { home with now := 48 } 0 { getDie home 0 with resends := [(1, n, t)] }
      linkEnd 0 1 = some (1, 3) ∧ linkEnd 0 3 = none ∧ (getDie (s 15 0) 0).links = [] ∧ tget (getDie (s 15 0) 0).resends 1 = some (15, 0) ∧ (s 15 0).now ≤ 0 + 48 ∧
      tget (getDie (s 16 0) 0).resends 1 = some (16, 0) ∧ (getDie (declareDown home 0 1) 0).links = [1]) ∧
     -- an operation that is lost, and one that is not
     ((findOp (busy (.cntrd 0 5)) 0 7).map fun m => m.lost) = some none ∧
     ((findOp (slotWith fun q => { q with ops := [{ opOf (.cntrd 0 5) with lost := some (0, 1) }] }) 0 7).map fun m => m.lost) = some (some (0, 1)) ∧
     -- a message that crosses a link declared down, and one that does not
     (let s (link : Option (Nat × Nat)) : State := { home with cmsgs := [(400, { coord := 0, ctr := 15, add := 1, asid := none, link })] }
      (findOp (s none) 0 400).isNone && (tget (s none).cmsgs 400).any (fun g => g.link.isNone) &&
        (tget (s (some (0, 1))).cmsgs 400).any (fun g => g.link = some (0, 1))) = true ∧
     -- a group with no lost share message and one with one, whose name is that of no operation and no message
     (let g := (taskOf home).group
      let s : State := modGroup home g fun r => { r with lost := some (0, 1) }
      ((getGroup s g).map fun r => r.lost) = some (some (0, 1)) ∧ ((getGroup home g).map fun r => r.lost) = some none ∧
      (findOp s 0 (2 ^ 40 + g.toNat)).isNone = true ∧ tget s.cmsgs (2 ^ 40 + g.toNat) = none) ∧
     -- a gateway counter of a core whose table has fired in this router cycle, and of one whose has not
     (getCore (modCore home (4096 * 56) fun k => { k with firedAt := some home.now }) (4096 * 56)).firedAt = some home.now ∧
     (getCore home (4096 * 56)).firedAt ≠ some home.now ∧ (getCore home (4096 * 56)).trigAt ≠ some home.now ∧
     -- a counter that function 3 sees, and one that it does not
     (let s : State := { home with gw := { home.gw with vfctrs := [(8 * 15 + 7, 3)] } }
      tget s.gw.vfctrs (8 * 15 + 7) = some 3 ∧ tget s.gw.vfctrs (8 * 15 + 6) ≠ some 3) ∧
     -- frozen cores: a worker's absence, a worker with nothing on it, a hart, a control core with nothing on it
     coreOk home (4096 * 40) = false ∧ isHart hartBase = true ∧
     (coreOk home 65 && !isControl 65 && !isHart 65 && (getCore home 65).slots.isEmpty && (getCore home 65).mq.isEmpty && (getCore home 65).pod.isEmpty) = true ∧
     (let c := 4096 * 56
      coreOk home c && isControl c && !isHart c && (getCore home c).slots.isEmpty && (getCore home c).queue.isEmpty && (getCore home c).mq.isEmpty &&
        (getCore home c).pod.isEmpty) = true ∧
     home.launches ≠ [] ∧ State.reset.launches = [] ∧ State.reset.memOk = true ∧
     ((List.range 8).filter fun i => (0x80 : BitVec 8).getLsbD i) = [7]) := by decide +kernel

/-! ### One step each: the worked cases of the spec, and hand calculation from its rules

The operands stand in x6 and x7, or v1, v2 and v3; x5, p2 or v0 is written. -/

def vecs (xs : List (Nat × Nat)) (s : State) : State := modCur s fun q => xs.foldl (fun q e => q.setV e.1 (BitVec.ofNat 256 e.2)) q

/-- A slot after i at s, in the default slot if i answers anything but a next state. -/
def ran (i : Instr) (s : State) : SlotSt := match exec i s with
  | .next t => slotOf t
  | _ => { task := 99 }

def int (i : Instr) (a b r : Nat) : Bool := ((ran i (regs [(6, a), (7, b)] home)).x 5).toNat = r
def prd (i : Instr) (a b r : Nat) : Bool := ((ran i (regs [(6, a), (7, b)] home)).p 2).toNat = r
/-- v0 and the flags (R125), the same word in every lane. -/
def flt (i : Instr) (a b r fl : Nat) : Bool :=
  let all (n : Nat) : Nat := n * ((2 ^ 256 - 1) / (2 ^ 32 - 1))
  let q := ran i (vecs [(1, all a), (2, all b)] home)
  (q.v 0).toNat = all r && q.fpstat.toNat = fl

/-- The worked cases after R81. -/
theorem test_integer : (int (.div h false 5 6 7) 1000 24 41 && int (.div h false 5 6 7) (2 ^ 64 - 7) 2 0xFFFFFFFFFFFFFFFD &&
    int (.rem h false 5 6 7) (2 ^ 64 - 7) 2 (2 ^ 64 - 1) && int (.div h false 5 6 7) (2 ^ 63) (2 ^ 64 - 1) (2 ^ 63) &&
    int (.rem h false 5 6 7) (2 ^ 63) (2 ^ 64 - 1) 0 && int (.div h false 5 6 7) 7 0 (2 ^ 64 - 1) && int (.rem h false 5 6 7) 7 0 7 &&
    int (.divn h false 5 6 7) 7 0 (2 ^ 64 - 1) && int (.remn h false 5 6 7) 7 0 7 && int (.mulh h false 5 6 7) (2 ^ 64 - 1) (2 ^ 64 - 1) 0 &&
    int (.mulhn h false 5 6 7) (2 ^ 64 - 1) 2 1 && int (.add h true 5 6 7) 0x7FFFFFFF 1 0xFFFFFFFF80000000 &&
    int (.shri h true 5 6 4) 0xFFFFFFFFFFFFFFF0 0 0x0FFFFFFF && int (.sar h false 5 6 7) 0xFFFFFFFFFFFFFFF0 68 (2 ^ 64 - 1)) = true := by
  decide +kernel

/-- The shift amounts of R80, and sums and products that wrap. -/
theorem test_wraps : (int (.shl h false 5 6 7) 1 68 16 && int (.add h false 5 6 7) (2 ^ 64 - 1) 2 1 && int (.sub h false 5 6 7) 0 1 (2 ^ 64 - 1) &&
    int (.addi h false 5 6 0xFFFFFFFFFFFF) 0 0 (2 ^ 64 - 1) && int (.mul h true 5 6 7) 0x10000 0x8000 0xFFFFFFFF80000000 && int (.mad h false 5 6 7 7) 3 5 20 &&
    int (.rol h true 5 6 7) 0x80000001 1 3 && int (.rol h false 5 6 7) 9 64 9 && int (.shli h false 5 6 63) 3 0 (2 ^ 63) && int (.shl h true 5 6 7) 1 33 2 &&
    int (.sari h true 5 6 31) 0x80000000 0 (2 ^ 64 - 1) && int (.andn h 5 6 7) 0xFF 0x0F 0xF0 && int (.orn h 5 6 7) 1 (2 ^ 64 - 2) 1) = true := by decide +kernel

/-- The examples of R83, and R82. -/
theorem test_bits : (int (.bfx h 5 6 12 3) 0xF000 0 (2 ^ 64 - 1) && int (.bfxz h 5 6 12 3) 0xF000 0 0xF && int (.bfx h 5 6 60 7) 0xA000000000000000 0 0xFFFFFFFFFFFFFFFA &&
    int (.bfi h 5 6 7 8 7) 0xFFFFFFFF 0x12 0xFFFF12FF && int (.clz h 5 6) 0 0 64 && int (.clz h 5 6) 1 0 63 && int (.ctz h 5 6) 0 0 64 && int (.ctz h 5 6) 8 0 3 &&
    int (.popc h 5 6) 0xF0F 0 8 && int (.brev h 5 6) 1 0 (2 ^ 63) && int (.lih h 5 6 0xABCD) 0x1234567890AB 0 0xABCD1234567890AB &&
    int (.min h 5 6 7) (2 ^ 64 - 1) 0 (2 ^ 64 - 1) && int (.minn h 5 6 7) (2 ^ 64 - 1) 0 0 && int (.lea h 5 6 7 false 5 4) 3 2 71) = true := by decide +kernel

/-- R85 and R86; a compare under an unsigned code with -1. -/
theorem test_predicates : (prd (.cmp h .lt false 2 6 7) (2 ^ 64 - 1) 0 255 && prd (.cmp h .ltn false 2 6 7) (2 ^ 64 - 1) 0 0 &&
    prd (.cmp h .eq true 2 6 7) (2 ^ 32 + 5) 5 255 && prd (.cmpi h .gtn false 2 6 (2 ^ 48 - 1)) (2 ^ 64 - 2) 0 0 && prd (.pnot h 2 0) 0 0 0 && prd (.pset h 2 0x5A) 0 0 0x5A &&
    prd (.psetX h 2 6) 0x1FE 0 0xFE && ((ran (.pset h 0 0) home).p 0).toNat = 255 && int (.pget h 5 0) 0 0 255) = true := by decide +kernel

/-- The next pc: R88 to R90. The transfer stands at the entry of home. -/
theorem test_transfers :
    (let pc := (slotOf home).pc
     let at_ (i : Instr) (r : Word) : Bool := (ran i (regs [(6, 1), (7, 0x8F)] home)).pc = r
     at_ (.br h 0 .l0 false (2 ^ 48 - 5)) (pc - 80) && at_ (.br h 0 .all true 4) (pc + 16) && at_ (.bri h 7 1) 0x90 && at_ (.calli h 7 0) 0x80 && at_ (.loop h 6 9) (pc + 16) &&
     at_ (.loop h 0 9) (pc + 144) && (ran (.loop h 6 9) (regs [(6, 1)] home)).x 6 = 0 && (ran (.call h 9) home).x 31 = pc + 16 && at_ (.nop h) (pc + 16)) = true := by decide +kernel

/-- R128 and its special operands: a tie to even, one rounding of FMA, infinities, a quotient by zero. -/
theorem test_float : (flt (.fadd h .f32 .rne 0 1 2) 0x4B800000 0x3F800000 0x4B800000 1 && flt (.fadd h .f32 .rup 0 1 2) 0x4B800000 0x3F800000 0x4B800001 1 &&
    flt (.fsub h .f32 .rne 0 1 2) 0x7F800000 0x7F800000 0x7FC00000 16 && flt (.fdiv h .f32 .rne 0 1 2) 0x3F800000 0x80000000 0xFF800000 8 &&
    flt (.fmul h .f32 .rtz 0 1 2) 0x7F7FFFFF 0x40000000 0x7F7FFFFF 5 && flt (.fneg h .f32 0 1) 0x7FC00000 0 0xFFC00000 0 && flt (.fscale h .f32 .rne 0 1 2) 0x3F800000 3 0x41000000 0 &&
    flt (.fmin h .f32 0 1 2) 0 0x80000000 0x80000000 0 && flt (.fclass h .f32 0 1) 0x80000001 0 4 0) = true := by decide +kernel

/-- R130: the special inputs, and exact values. -/
theorem test_functions : (flt (.fsqrt h .f32 .rne 0 1) 0x41100000 0 0x40400000 0 && flt (.fsqrt h .f32 .rne 0 1) 0xBF800000 0 0x7FC00000 16 &&
    flt (.frcp h .f32 .rne 0 1) 0x80000000 0 0xFF800000 8 && flt (.frsq h .f32 .rne 0 1) 0x3E800000 0 0x40000000 0 && flt (.frcp h .f32 .rne 0 1) 0x40800000 0 0x3E800000 0 &&
    flt (.flog2 h .f32 .rne 0 1) 0x3F800000 0 0 0 && flt (.fexp2 h .f32 .rne 0 1) 0xFF800000 0 0 0) = true := by decide +kernel

/-- The worked reduction of R133. -/
theorem test_reduction :
    (let v := 0x4B800000 + 2 ^ 32 * 0x3F800000 + 2 ^ 64 * 0x3F800000 + 2 ^ 96 * 0x3F800000
     let s := modCur (vecs [(1, v)] home) fun q => q.setPr 2 0xFB
     let x (i : Instr) (r : Nat) : Bool := ((ran i s).x 5).toNat = r && (ran i s).fpstat = 1
     x (.fred h .f32 .rne 5 1) 0x4B800001 && x (.fred { h with guard := 2 } .f32 .rne 5 1) 0x4B800000 && x (.fred h .f32 .rup 5 1) 0x4B800002) = true := by decide +kernel

/-- The worked conversions of R142 to R144. -/
theorem test_conversions :
    (let cv (r : Rnd) (a v : Nat) : Bool := ((ran (.cvt h .bf16 .f32 r false 0 1) (vecs [(1, a)] home)).v 0).toNat % 2 ^ 16 = v
     cv .rne 0x3F808000 0x3F80 && cv .rne 0x3F818000 0x3F82 && cv .rtz 0x3F818000 0x3F81 && cv .rne 0x7F7FFFFF 0x7F80 && cv .rtz 0x7F7FFFFF 0x7F7F && cv .rne 0x8000 0 &&
     cv .rne 0x7F800001 0x7FC0 && flt (.cvti h .i32 .f32 .rne false 0 1) 0x4F32D05E 0 0x7FFFFFFF 16 && flt (.cvti h .n32 .f32 .rne false 0 1) 0x4F32D05E 0 0xB2D05E00 0 &&
     flt (.cvti h .i32 .f32 .rne false 0 1) 0x40200000 0 2 1 && flt (.cvti h .i32 .f32 .rtz false 0 1) 0xC0200000 0 0xFFFFFFFE 1 &&
     flt (.cvti h .n32 .f32 .rne false 0 1) 0xBF000000 0 0 1 && flt (.cvti h .n32 .f32 .rne false 0 1) 0xBF800000 0 0 16 &&
     flt (.cvtf h .f32 .n32 .rne false 0 1) 0xFFFFFFFF 0 0x4F800000 1) = true := by decide +kernel

/-- R136 to R139: a saturated and a wrapped lane, a shift, a table of two vectors, a lane inserted and read back. -/
theorem test_lanes :
    (flt (.vadd h .i32 true 0 1 2) 0x7FFFFFFF 1 0x7FFFFFFF 0 && flt (.vadd h .i32 false 0 1 2) 0x7FFFFFFF 1 0x80000000 0 && flt (.vsub h .n16 true 0 1 2) 1 2 0 0 &&
     flt (.vmul h .i16 false 0 1 2) 0xFFFF0003 0x20005 0xFFFE000F 0 && flt (.vsar h .i16 (some 15) 0 1 0) 0x80007FFF 0 0xFFFF0000 0 &&
     ((ran (.vperm h (.int .i32) 0 1 2 3) (vecs [(1, 7), (2, 16 + 2 ^ 32 * 8), (3, 9)] home)).v 0).toNat % 2 ^ 64 = 7 + 2 ^ 32 * 9 && flt (.vmax h .n32 0 1 2) 0xFFFFFFFF 1 0xFFFFFFFF 0 &&
     ((ran (.vext h (.int .i16) 5 1 1) (vecs [(1, 0x80000000)] home)).x 5).toNat = 0xFFFFFFFFFFFF8000 &&
     ((ran (.vred h .n32 5 1) (vecs [(1, 2 ^ 256 - 1)] home)).x 5).toNat = 8 * (2 ^ 32 - 1) &&
     ((ran (.vins h (.int .n32) 0 6 7) (regs [(6, 5)] (vecs [(0, 1)] home))).v 0).toNat = 1 + 2 ^ 224 * 5) = true := by decide +kernel

/-- TRAP 0x21 without a runtime handler: the frame holds the pc past it, the cause, the code and the old level (R100, R102, R317,
R319). -/
theorem test_trap :
    (match exec (.trap h 0x21) home with
     | .next t => (slotOf t).level = 2 && rdNat t.mem 0 8 = (slotOf home).pc.toNat + 16 && rdNat t.mem 8 8 = 5 + 2 ^ 32 * 0x21 &&
         rdNat t.mem 24 8 / 4 % 4 = 0
     | _ => false) = true := by decide +kernel

/-- A store to the local window becomes visible when its operation performs (R155, R158). -/
theorem test_store :
    (match exec (.st h o .w 6 7 4) (regs [(6, W), (7, 0x12345678)] home) with
     | .next t => (match (slotOf t).ops with
       | [m] => rdNat (getCore t 0).lmem 4 4 = 0 && (match exec (.memoryOpPerform 0 m.id) t with
         | .next u => rdNat (getCore u 0).lmem 0 12 = 0x1234567800000000 && (slotOf u).ops.isEmpty
         | _ => false)
       | _ => false)
     | _ => false) = true := by decide +kernel

end Sys2Proof.Tests
end

section
/-!
PROOFS. Class 2 (R80, R81) and class 1 (R87 to R90, R92): what an integer function computes, on bit vectors of its width,
and where a transfer goes.

The model computes an integer function on exact integers and wraps the result to the width that .w chooses; the
statements speak of the operations of bit vectors. The first part below is about bit vectors of any width, the second ties
the model's `uOp`, `sOp`, `wrapTo` and `shAmt` to them, and the rest joins the two, one lemma for each function.
-/

namespace Sys2Proof.Laws

open Sys2Proof.Machine

/-! ### An exact integer result, wrapped to n bits -/

section Wrapped

variable {n : Nat} (x y : BitVec n)

theorem ofInt_toNat : BitVec.ofInt n x.toNat = x := by
  rw [BitVec.ofInt_natCast, BitVec.ofNat_toNat, BitVec.setWidth_eq]

theorem ofInt_toNat_sub : BitVec.ofInt n ((x.toNat : Int) - y.toNat) = x - y := by
  rw [Int.sub_eq_add_neg, BitVec.ofInt_add, BitVec.ofInt_neg, ofInt_toNat, ofInt_toNat, BitVec.sub_eq_add_neg]

/-- The bits of an integer from bit m up. -/
theorem extractLsb'_ofInt (m : Nat) (i : Int) :
    (BitVec.ofInt (m + n) i).extractLsb' m n = BitVec.ofInt n (i / 2 ^ m) := by
  have hdiv : i % 2 ^ (m + n) / 2 ^ m = i / 2 ^ m - 2 ^ n * (i / 2 ^ (m + n)) := by
    rw [Int.emod_def, pow_add, mul_assoc, Int.sub_mul_ediv_left _ _ (by positivity)]
  apply BitVec.eq_of_toNat_eq
  zify
  simp only [BitVec.extractLsb'_toNat, BitVec.toNat_ofInt, Nat.shiftRight_eq_div_pow]
  push_cast
  rw [Int.toNat_of_nonneg (Int.emod_nonneg _ (by positivity)), Int.toNat_of_nonneg (Int.emod_nonneg _ (by positivity)),
    hdiv, Int.sub_mul_emod_self_left]

theorem ofInt_mul_toInt_high : BitVec.ofInt n (x.toInt * y.toInt / 2 ^ n) =
    (x.signExtend (n + n) * y.signExtend (n + n)).extractLsb' n n := by
  rw [← extractLsb'_ofInt, BitVec.ofInt_mul]
  rfl

theorem ofInt_mul_toNat_high : BitVec.ofInt n ((x.toNat * y.toNat / 2 ^ n : Nat) : Int) =
    (x.setWidth (n + n) * y.setWidth (n + n)).extractLsb' n n := by
  have h := extractLsb'_ofInt (n := n) n (x.toNat * y.toNat)
  rw [BitVec.ofInt_mul] at h
  simpa using h.symm

theorem ofInt_two_pow_sub_one : BitVec.ofInt n (2 ^ n - 1) = BitVec.allOnes n := by
  rw [Int.sub_eq_add_neg, BitVec.ofInt_add, BitVec.ofInt_neg, ← BitVec.neg_one_eq_allOnes]
  have h : BitVec.ofInt n (2 ^ n) = 0 := by
    apply BitVec.eq_of_toNat_eq
    simp [BitVec.toNat_ofInt]
  simp [h]

theorem ofInt_tdiv_toInt : BitVec.ofInt n (x.toInt.tdiv y.toInt) = x.sdiv y := by
  apply BitVec.eq_of_toInt_eq
  rw [BitVec.toInt_ofInt, BitVec.toInt_sdiv]

theorem ofInt_tmod_toInt : BitVec.ofInt n (x.toInt.tmod y.toInt) = x.srem y := by
  rw [← BitVec.toInt_srem, BitVec.ofInt_toInt]

/-- The least integer of n bits is its own negative, so its quotient by -1 wraps to itself (R81). -/
theorem sdiv_neg_one_of_least (hn : 0 < n) (hx : x.toInt = -2 ^ (n - 1)) (hy : y.toInt = -1) : x.sdiv y = x := by
  have hmin : x = BitVec.intMin n := by
    apply BitVec.eq_of_toInt_eq
    rw [hx, BitVec.toInt_intMin, Nat.mod_eq_of_lt (Nat.pow_lt_pow_right (by decide) (by omega))]
    simp
  rw [← ofInt_tdiv_toInt, hy, Int.tdiv_neg, Int.tdiv_one, BitVec.ofInt_neg, BitVec.ofInt_toInt, hmin, BitVec.neg_intMin]

theorem ofInt_toInt_div_two_pow (k : Nat) : BitVec.ofInt n (x.toInt / 2 ^ k) = x.sshiftRight k := by
  rw [← BitVec.ofInt_toInt (x := x.sshiftRight k), BitVec.toInt_sshiftRight, Int.shiftRight_eq_div_pow]
  push_cast
  rfl

theorem ofNat_mul_two_pow (k : Nat) : BitVec.ofNat n (x.toNat * 2 ^ k) = x <<< k := by
  apply BitVec.eq_of_toNat_eq
  simp [Nat.shiftLeft_eq]

theorem ofNat_div_two_pow (k : Nat) : BitVec.ofNat n (x.toNat / 2 ^ k) = x >>> k := by
  apply BitVec.eq_of_toNat_eq
  rw [BitVec.toNat_ofNat, BitVec.toNat_ushiftRight, Nat.shiftRight_eq_div_pow,
    Nat.mod_eq_of_lt (Nat.lt_of_le_of_lt (Nat.div_le_self _ _) x.isLt)]

/-- The two parts of a rotation have no bit in common, so their sum is their union. -/
theorem ofNat_rotateLeft {k : Nat} (hk : k < n) :
    BitVec.ofNat n (x.toNat * 2 ^ k + x.toNat / 2 ^ (n - k)) = x.rotateLeft k := by
  have hdisj : x <<< k &&& x >>> (n - k) = 0 := by
    apply BitVec.eq_of_getLsbD_eq
    intro j hj
    by_cases hjk : j < k
    · simp [hjk]
    · have hout : n ≤ n - k + j := by omega
      simp [BitVec.getLsbD_of_ge x _ hout]
  rw [BitVec.ofNat_add, ofNat_mul_two_pow, ofNat_div_two_pow, BitVec.add_eq_or_of_and_eq_zero _ _ hdisj,
    BitVec.rotateLeft_eq_rotateLeftAux_of_lt hk]
  rfl

end Wrapped

/-! ### The model's operands and results as bit vectors -/

theorem opWidth_pos (w : Bool) : 0 < opWidth w := by cases w <;> decide

theorem opWidth_dvd (w : Bool) : opWidth w ∣ 2 ^ opWidth w := by cases w <;> decide

theorem uOp_eq (w : Bool) (x : Word) : uOp w x = (x.setWidth (opWidth w)).toNat :=
  (BitVec.toNat_setWidth _ x).symm

theorem toSigned_eq {n : Nat} (hn : 0 < n) (v : Nat) : toSigned n v = (BitVec.ofNat n v).toInt := by
  have hpow : 2 ^ n = 2 * 2 ^ (n - 1) := by rw [← pow_succ', Nat.sub_add_cancel hn]
  have hlt : v % 2 ^ n < 2 ^ (n - 1) ↔ 2 * (v % 2 ^ n) < 2 ^ n := by omega
  simp only [toSigned, hlt, BitVec.toInt_eq_toNat_cond, BitVec.toNat_ofNat]

theorem sOp_eq (w : Bool) (x : Word) : sOp w x = (x.setWidth (opWidth w)).toInt := by
  rw [sOp, toSigned_eq (opWidth_pos w), BitVec.ofNat_toNat]

/-- The shift amount of a register is that of its low bits (R80). -/
theorem shAmt_eq (w : Bool) (y : Word) : shAmt w y.toNat = (y.setWidth (opWidth w)).toNat % opWidth w := by
  rw [shAmt, BitVec.toNat_setWidth, Nat.mod_mod_of_dvd _ (opWidth_dvd w)]

theorem shAmt_zext64 (w : Bool) (n : BitVec 6) : shAmt w (zext64 n).toNat = n.toNat % opWidth w := by
  rw [shAmt, BitVec.toNat_setWidth_of_le (by decide)]

theorem shAmt_lt (w : Bool) (k : Nat) : shAmt w k < opWidth w := Nat.mod_lt _ (opWidth_pos w)

/-- A wrapped result is an operation in the width, where it is that operation on the operands cut to the width. -/
theorem wrapTo_eq_inWidth {w : Bool} {i : Int} {f : (n : Nat) → BitVec n → BitVec n → BitVec n} {x y : Word}
    (h : BitVec.ofInt (opWidth w) i = f (opWidth w) (x.setWidth (opWidth w)) (y.setWidth (opWidth w))) :
    wrapTo w i = inWidth w f x y := by
  cases w
  · simpa [wrapTo, inWidth, opWidth] using h
  · exact congrArg (BitVec.signExtend 64) h

/-- A result of the width, cut to the width again. -/
theorem setWidth_inWidth (w : Bool) (f : (n : Nat) → BitVec n → BitVec n → BitVec n) (x y : Word) :
    (inWidth w f x y).setWidth (opWidth w) = f (opWidth w) (x.setWidth (opWidth w)) (y.setWidth (opWidth w)) := by
  cases w
  · simp [inWidth, opWidth]
  · apply BitVec.eq_of_getLsbD_eq
    intro j hj
    have hj' : j < 32 := hj
    have hj64 : j < 64 := by omega
    simp [inWidth, opWidth, BitVec.getElem_signExtend, hj', hj64]

/-! ### The functions of class 2 (R80, R81) -/

theorem addVal_eq (w : Bool) (x y : Word) : addVal w x y = inWidth w (fun _ x y => x + y) x y :=
  wrapTo_eq_inWidth (by rw [uOp_eq, uOp_eq, Nat.cast_add, BitVec.ofInt_add, ofInt_toNat, ofInt_toNat])

theorem subVal_eq (w : Bool) (x y : Word) : subVal w x y = inWidth w (fun _ x y => x - y) x y :=
  wrapTo_eq_inWidth (by rw [uOp_eq, uOp_eq, ofInt_toNat_sub])

theorem mulVal_eq (w : Bool) (x y : Word) : mulVal w x y = inWidth w (fun _ x y => x * y) x y :=
  wrapTo_eq_inWidth (by rw [uOp_eq, uOp_eq, Nat.cast_mul, BitVec.ofInt_mul, ofInt_toNat, ofInt_toNat])

theorem mulhVal_eq (w : Bool) (x y : Word) : mulhVal w x y = inWidth w
    (fun m x y => (x.signExtend (m + m) * y.signExtend (m + m)).extractLsb' m m) x y :=
  wrapTo_eq_inWidth (by rw [sOp_eq, sOp_eq, ofInt_mul_toInt_high])

theorem mulhnVal_eq (w : Bool) (x y : Word) : mulhnVal w x y = inWidth w
    (fun m x y => (x.setWidth (m + m) * y.setWidth (m + m)).extractLsb' m m) x y :=
  wrapTo_eq_inWidth (by rw [uOp_eq, uOp_eq, ofInt_mul_toNat_high])

theorem madVal_eq (w : Bool) (x y z : Word) : madVal w x y z =
    inWidth w (fun _ x y => x + y) (inWidth w (fun _ x y => x * y) x y) z :=
  wrapTo_eq_inWidth (by
    rw [setWidth_inWidth, uOp_eq, uOp_eq, uOp_eq, Nat.cast_add, Nat.cast_mul, BitVec.ofInt_add, BitVec.ofInt_mul,
      ofInt_toNat, ofInt_toNat, ofInt_toNat])

theorem toNat_eq_zero_iff {n : Nat} (y : BitVec n) : y.toNat = 0 ↔ y = 0 := by
  simp [BitVec.toNat_eq]

theorem divVal_eq (w : Bool) (x y : Word) : divVal w x y = inWidth w
    (fun m x y => if y = 0 then BitVec.allOnes m else x.sdiv y) x y := by
  apply wrapTo_eq_inWidth
  simp only [divS, uOp_eq, sOp_eq, toNat_eq_zero_iff, Bool.and_eq_true, decide_eq_true_eq]
  split
  · exact ofInt_two_pow_sub_one
  · split
    next h =>
      obtain ⟨hleast, hneg⟩ := h
      rw [BitVec.ofInt_toInt, sdiv_neg_one_of_least _ _ (opWidth_pos w) hleast hneg]
    next => exact ofInt_tdiv_toInt _ _

theorem divnVal_eq (w : Bool) (x y : Word) : divnVal w x y = inWidth w
    (fun m x y => if y = 0 then BitVec.allOnes m else x / y) x y := by
  apply wrapTo_eq_inWidth
  simp only [divU, uOp_eq, toNat_eq_zero_iff]
  split
  · exact ofInt_two_pow_sub_one
  · rw [← BitVec.toNat_udiv, ofInt_toNat]

theorem remVal_eq (w : Bool) (x y : Word) : remVal w x y = inWidth w
    (fun _ x y => if y = 0 then x else x.srem y) x y := by
  apply wrapTo_eq_inWidth
  simp only [remS, uOp_eq, sOp_eq, toNat_eq_zero_iff, Bool.and_eq_true, decide_eq_true_eq]
  split
  · exact BitVec.ofInt_toInt
  · rw [← Int.tmod_def, ← ofInt_tmod_toInt]
    split
    next h =>
      obtain ⟨-, hneg⟩ := h
      rw [hneg, Int.tmod_neg, Int.tmod_one]
    next => rfl

theorem remnVal_eq (w : Bool) (x y : Word) : remnVal w x y = inWidth w
    (fun _ x y => if y = 0 then x else x % y) x y := by
  apply wrapTo_eq_inWidth
  simp only [remU, uOp_eq, toNat_eq_zero_iff]
  split
  · exact ofInt_toNat _
  · rw [← BitVec.toNat_umod, ofInt_toNat]

/-! ### Shifts, by an amount that lies below the width (R80) -/

theorem shlVal_eq (w : Bool) (x y : Word) : shlVal w x y = inWidth w (fun m x y => x <<< (y.toNat % m)) x y :=
  wrapTo_eq_inWidth (by rw [uOp_eq, shAmt_eq, BitVec.ofInt_natCast, ofNat_mul_two_pow])

theorem shrVal_eq (w : Bool) (x y : Word) : shrVal w x y = inWidth w (fun m x y => x >>> (y.toNat % m)) x y :=
  wrapTo_eq_inWidth (by rw [uOp_eq, shAmt_eq, BitVec.ofInt_natCast, ofNat_div_two_pow])

theorem sarVal_eq (w : Bool) (x y : Word) :
    sarVal w x y = inWidth w (fun m x y => x.sshiftRight (y.toNat % m)) x y :=
  wrapTo_eq_inWidth (by rw [sOp_eq, shAmt_eq, ofInt_toInt_div_two_pow])

theorem rolVal_eq (w : Bool) (x y : Word) : rolVal w x y = inWidth w (fun m x y => x.rotateLeft (y.toNat % m)) x y :=
  wrapTo_eq_inWidth (by
    rw [uOp_eq, BitVec.ofInt_natCast, ofNat_rotateLeft _ (shAmt_lt w _), shAmt_eq])

theorem shlVal_imm_eq (w : Bool) (x : Word) (n : BitVec 6) :
    shlVal w x (zext64 n) = inWidth w (fun m x _ => x <<< (n.toNat % m)) x 0 :=
  wrapTo_eq_inWidth (by rw [uOp_eq, shAmt_zext64, BitVec.ofInt_natCast, ofNat_mul_two_pow])

theorem shrVal_imm_eq (w : Bool) (x : Word) (n : BitVec 6) :
    shrVal w x (zext64 n) = inWidth w (fun m x _ => x >>> (n.toNat % m)) x 0 :=
  wrapTo_eq_inWidth (by rw [uOp_eq, shAmt_zext64, BitVec.ofInt_natCast, ofNat_div_two_pow])

theorem sarVal_imm_eq (w : Bool) (x : Word) (n : BitVec 6) :
    sarVal w x (zext64 n) = inWidth w (fun m x _ => x.sshiftRight (n.toNat % m)) x 0 :=
  wrapTo_eq_inWidth (by rw [sOp_eq, shAmt_zext64, ofInt_toInt_div_two_pow])

/-! ### Instructions whose whole effect is on their own slot -/

/-- An instruction whose whole effect is on its own slot gives what its function on slots gives. -/
theorem gives_of_issueSlot {s : State} {h : Hdr} {i : Instr} {g f : SlotSt → SlotSt} (he : exec i s = issueSlot i h s g)
    (hg : ∀ q, g q = f q) : s.Gives h i f := by
  intro sl k r
  rw [he, issueSlot_runs r, hg]

/-- One that writes a single register gives the value that it writes there. -/
theorem gives_setX {s : State} {h : Hdr} {i : Instr} {d : Nat} {g f : SlotSt → Word}
    (he : exec i s = issueSlot i h s fun q => q.setX d (g q)) (hg : ∀ q, g q = f q) :
    s.Gives h i fun q => q.setX d (f q) :=
  gives_of_issueSlot he fun q => by rw [hg q]

/-- Settles O8: each function writes to xd its value on the operands cut to the width; the five bitwise functions are
those of bit vectors in the model already. -/
theorem integerResults : Obligations.IntegerResults := by
  intro s h w d a b c imm n gives
  exact ⟨
    gives_setX rfl fun _ => addVal_eq w _ _,
    gives_setX rfl fun _ => subVal_eq w _ _,
    gives_setX rfl fun _ => addVal_eq w _ _,
    gives_setX rfl fun _ => mulVal_eq w _ _,
    gives_setX rfl fun _ => mulhVal_eq w _ _,
    gives_setX rfl fun _ => mulhnVal_eq w _ _,
    gives_setX rfl fun _ => madVal_eq w _ _ _,
    gives_setX rfl fun _ => divVal_eq w _ _,
    gives_setX rfl fun _ => divnVal_eq w _ _,
    gives_setX rfl fun _ => remVal_eq w _ _,
    gives_setX rfl fun _ => remnVal_eq w _ _,
    gives_setX rfl fun _ => rfl,
    gives_setX rfl fun _ => rfl,
    gives_setX rfl fun _ => rfl,
    gives_setX rfl fun _ => rfl,
    gives_setX rfl fun _ => rfl,
    gives_setX rfl fun _ => shlVal_eq w _ _,
    gives_setX rfl fun _ => shrVal_eq w _ _,
    gives_setX rfl fun _ => sarVal_eq w _ _,
    gives_setX rfl fun _ => rolVal_eq w _ _,
    gives_setX rfl fun _ => shlVal_imm_eq w _ n,
    gives_setX rfl fun _ => shrVal_imm_eq w _ n,
    gives_setX rfl fun _ => sarVal_imm_eq w _ n⟩

/-! ### Where a transfer goes (R87 to R90) -/

/-- Clearing the bits of a mask takes away what stands in them. -/
theorem and_not_eq_sub {n : Nat} (v m : BitVec n) : v &&& ~~~ m = v - (v &&& m) := by
  have hdisj : (v &&& ~~~ m) &&& (v &&& m) = 0 := by
    apply BitVec.eq_of_getLsbD_eq
    intro j hj
    cases hm : m.getLsbD j <;> simp [hm]
  have hunion : (v &&& ~~~ m) ||| (v &&& m) = v := by
    apply BitVec.eq_of_getLsbD_eq
    intro j hj
    rw [BitVec.getLsbD_or, BitVec.getLsbD_and, BitVec.getLsbD_and, BitVec.getLsbD_not]
    cases m.getLsbD j <;> simp [hj]
  rw [eq_sub_iff_add_eq, BitVec.add_eq_or_of_and_eq_zero _ _ hdisj, hunion]

/-- A register target is the sum less its low four bits (R87). -/
theorem regTarget_eq (a : Word) (imm : BitVec 48) :
    regTarget a imm = (a + imm.signExtend 64) - ((a + imm.signExtend 64) &&& 15) := and_not_eq_sub _ _

/-- A count of 1 is the one that LOOP does not branch on (R90). -/
theorem sub_one_ne_zero_iff (v : Word) : v - 1 ≠ 0 ↔ ¬ v = 1 := by
  rw [ne_eq, sub_eq_zero]

theorem exec_yieldSlot (h : Hdr) (s : State) : exec (.yieldSlot h) s =
    issue (.yieldSlot h) h s fun _ s => .ok (modCore s s.core fun k => { k with yielded := true }) := rfl

/-- Marking the core as yielded after an issue is an issue with the yield bit set (R92). -/
theorem modCore_after_yielded (s : State) (h : Hdr) (q : SlotSt) :
    modCore (s.after h q) s.core (fun k => { k with yielded := true }) = { s.withSlot true q with seq := s.seq + 2 } := by
  simp only [modCore, setCore, getCore_after]
  simp [State.after, State.withSlot]

/-- Settles O11: each transfer is an effect on its own slot, and YIELD's is the mark of its core. -/
theorem controlTransfers : Obligations.ControlTransfers := by
  intro s h p t inv a imm rel abs test
  refine ⟨?br, ?bri, ?call, ?calli, ?ret, ?loop, ?yield, ?nop⟩
  case br =>
    refine gives_of_issueSlot rfl fun q => ?_
    have htaken : brTaken t inv (q.p p.val) = true ↔ ¬ test (q.p p.val) = inv := by
      cases t <;> simp [brTaken, test, bne, beq_eq_decide]
    simp only [htaken, ite_not]
    rfl
  case bri =>
    exact gives_of_issueSlot rfl fun q => by rw [regTarget_eq]
  case call =>
    exact gives_of_issueSlot rfl fun q => rfl
  case calli =>
    exact gives_of_issueSlot rfl fun q => by rw [regTarget_eq]
  case ret =>
    exact gives_of_issueSlot rfl fun q => by rw [regTarget_eq]; rfl
  case loop =>
    refine gives_of_issueSlot rfl fun q => ?_
    simp only [sub_one_ne_zero_iff, ite_not]
    rfl
  case yield =>
    intro sl k r
    rw [exec_yieldSlot, issue_runs r]
    exact congrArg _ (modCore_after_yielded s h _)
  case nop =>
    exact gives_of_issueSlot rfl fun q => rfl

end Sys2Proof.Laws
end

section
/-!
PROOFS. Vector results lane by lane (R123 to R125): what a write of one lane leaves of every lane, what a run of such writes
under a guard gives, and how an instruction whose effect is such a run meets `State.GivesLanes`.
-/

namespace Sys2Proof.Laws

open Sys2Proof.Machine

theorem upFrom_eq_range' (a n : Nat) : upFrom a n = List.range' a n := by
  induction n generalizing a with
  | zero => rfl
  | succ n ih => rw [upFrom, ih, List.range'_succ]

@[simp] theorem below_eq_range (n : Nat) : below n = List.range n := by
  rw [below, upFrom_eq_range', List.range_eq_range']

/-- A field at the low end of a number is a remainder. -/
theorem bitsN_zero (v hi : Nat) : bitsN v hi 0 = v % 2 ^ (hi + 1) := congrArg (· % 2 ^ (hi + 1)) (Nat.div_one v)

theorem bitN_eq_testBit (v i : Nat) : bitN v i = v.testBit i := by
  rw [bitN, Nat.testBit_eq_decide_div_mod_eq]

theorem ofInt_eq_toNat (w : Nat) (i : Int) : ofInt w i = (BitVec.ofInt w i).toNat := by
  rw [ofInt, BitVec.toNat_ofInt]

theorem ofNat_ofInt (w : Nat) (i : Int) : BitVec.ofNat w (ofInt w i) = BitVec.ofInt w i := by
  rw [ofInt_eq_toNat, BitVec.ofNat_toNat, BitVec.setWidth_eq]

theorem toSigned_toNat {n : Nat} (hn : 0 < n) (v : BitVec n) : toSigned n v.toNat = v.toInt := by
  rw [toSigned_eq hn, BitVec.ofNat_toNat, BitVec.setWidth_eq]

/-! ### One lane -/

theorem lane_eq_toNat (v : Vec) (w j : Nat) : lane v w j = (laneOf w v j).toNat := by
  rw [lane, laneOf, BitVec.extractLsb'_toNat, Nat.shiftRight_eq_div_pow]

theorem getLsbD_laneOf (w : Nat) (v : Vec) (j i : Nat) :
    (laneOf w v j).getLsbD i = (decide (i < w) && v.getLsbD (w * j + i)) :=
  BitVec.getLsbD_extractLsb' _ _ _ _

/-- The bits of a vector in which one lane has been replaced. -/
theorem getLsbD_putLane (v : Vec) (w j x : Nat) {i : Nat} (hi : i < 256) :
    (putLane v w j x).getLsbD i = if w * j ≤ i ∧ i < w * j + w then x.testBit (i - w * j) else v.getLsbD i := by
  simp only [putLane, BitVec.getLsbD_or, BitVec.getLsbD_and, BitVec.getLsbD_not, BitVec.getLsbD_ofNat,
    Nat.testBit_mul_two_pow, Nat.testBit_two_pow_sub_one, Nat.testBit_mod_two_pow, hi, decide_true, Bool.true_and]
  by_cases hlo : w * j ≤ i
  · by_cases hhi : i < w * j + w
    · have hoff : i - w * j < w := by omega
      simp [hlo, hhi, hoff]
    · have hoff : ¬ i - w * j < w := by omega
      simp [hhi, hoff]
  · simp [hlo]

/-- A lane of width w below 256 / w lies inside a vector. -/
theorem lane_end_le {w j : Nat} (hj : j < 256 / w) : w * j + w ≤ 256 := by
  calc w * j + w = w * (j + 1) := by ring
    _ ≤ w * (256 / w) := Nat.mul_le_mul_left w hj
    _ ≤ 256 := Nat.mul_div_le 256 w

theorem laneOf_putLane_same (v : Vec) {w j : Nat} (x : Nat) (hj : j < 256 / w) :
    laneOf w (putLane v w j x) j = BitVec.ofNat w x := by
  have hend := lane_end_le hj
  apply BitVec.eq_of_getLsbD_eq
  intro i hi
  rw [getLsbD_laneOf, getLsbD_putLane v w j x (by omega), BitVec.getLsbD_ofNat, if_pos (by omega),
    Nat.add_sub_cancel_left]

theorem laneOf_putLane_ne (v : Vec) {w j k : Nat} (x : Nat) (hk : k < 256 / w) (hne : k ≠ j) :
    laneOf w (putLane v w j x) k = laneOf w v k := by
  have hend := lane_end_le hk
  apply BitVec.eq_of_getLsbD_eq
  intro i hi
  have hout : ¬ (w * j ≤ w * k + i ∧ w * k + i < w * j + w) := by
    rcases Nat.lt_or_gt_of_ne hne with h | h
    · have := Nat.mul_le_mul_left w h
      rw [Nat.mul_succ] at this
      omega
    · have := Nat.mul_le_mul_left w h
      rw [Nat.mul_succ] at this
      omega
  rw [getLsbD_laneOf, getLsbD_laneOf, getLsbD_putLane v w j x (by omega), if_neg hout]

/-! ### A run of lanes under a guard -/

/-- The lanes t a of the a in l written in turn where the guard turns them on, with their flags. The model's `lanewise`
and `convLanes` are such runs (`lanewise_eq`, `convLanes_eq`). -/
def writeLanes {α : Type} (w : Nat) (g : Pred) (t : α → Nat) (val : α → Nat × Flags) (l : List α) (st : Vec × Flags) :
    Vec × Flags :=
  l.foldl (fun st a => if laneOn g w (t a) then (putLane st.1 w (t a) (val a).1, st.2 ||| (val a).2) else st) st

theorem lanewise_eq (w : Nat) (g : Pred) (old : Vec) (f : Nat → Nat × Flags) :
    lanewise w g old f = writeLanes w g id f (below (256 / w)) (old, 0) := rfl

theorem convLanes_eq (q : SlotSt) (h : Hdr) (ws wd : Nat) (half : Bool) (d a : Nat) (f : Nat → Nat × Flags) :
    convLanes q h ws wd half d a f = q.putV d
      (writeLanes wd (q.mask h) Prod.snd (fun p => f (lane (q.v a) ws p.1)) (convPairs ws wd half) (q.v d, 0)) := rfl

section Run

variable {α : Type} {w : Nat} {g : Pred} {t : α → Nat} {val : α → Nat × Flags}

theorem writeLanes_cons (a : α) (l : List α) (st : Vec × Flags) : writeLanes w g t val (a :: l) st =
    writeLanes w g t val l
      (if laneOn g w (t a) then (putLane st.1 w (t a) (val a).1, st.2 ||| (val a).2) else st) := rfl

/-- A lane that no element of the run names, or that the guard turns off, keeps its value. -/
theorem laneOf_writeLanes_kept {l : List α} {j : Nat} (hj : j < 256 / w) (hkept : laneOn g w j = true → j ∉ l.map t)
    (st : Vec × Flags) : laneOf w (writeLanes w g t val l st).1 j = laneOf w st.1 j := by
  induction l generalizing st with
  | nil => rfl
  | cons a l ih =>
    rw [writeLanes_cons, ih fun hon hmem => hkept hon (by simp only [List.map_cons, List.mem_cons, hmem, or_true])]
    split
    next hon =>
      have hne : j ≠ t a := by
        rintro rfl
        exact hkept hon (by simp)
      exact laneOf_putLane_ne _ _ hj hne
    next => rfl

/-- A lane that the run names once and the guard turns on gets its value. -/
theorem laneOf_writeLanes_written {l : List α} {a : α} (ha : a ∈ l) (hnodup : (l.map t).Nodup) (hta : t a < 256 / w)
    (hon : laneOn g w (t a) = true) (st : Vec × Flags) :
    laneOf w (writeLanes w g t val l st).1 (t a) = BitVec.ofNat w (val a).1 := by
  induction l generalizing st with
  | nil => exact absurd ha List.not_mem_nil
  | cons b l ih =>
    rw [List.map_cons, List.nodup_cons] at hnodup
    obtain ⟨hfresh, hnodup⟩ := hnodup
    rw [writeLanes_cons]
    rcases List.mem_cons.mp ha with rfl | hmem
    · rw [laneOf_writeLanes_kept hta fun _ => hfresh, if_pos hon]
      exact laneOf_putLane_same _ _ hta
    · exact ih hmem hnodup _

/-- The flags of a run are those of the elements whose lanes are on. -/
theorem getLsbD_writeLanes_flags (l : List α) (st : Vec × Flags) (b : Nat) :
    (writeLanes w g t val l st).2.getLsbD b = true ↔
      st.2.getLsbD b = true ∨ ∃ a ∈ l, laneOn g w (t a) = true ∧ (val a).2.getLsbD b = true := by
  induction l generalizing st with
  | nil => simp [writeLanes]
  | cons a l ih =>
    rw [writeLanes_cons, ih]
    by_cases hon : laneOn g w (t a) = true <;> simp [hon, or_assoc]

end Run

/-! ### Instructions that write a vector lane by lane -/

section Gives

variable {s : State} {h : Hdr} {i : Instr} {w w' : Nat} {d : VReg} {f : SlotSt → Nat → BitVec w × Flags}

/-- An instruction whose effect is a run of lane writes gives f, where f is the run's value on the lanes that the run names,
and is the old value and no flag on the others. -/
theorem givesLanes_of_writeLanes {α : Type} {t : α → Nat} {l : List α} {val : SlotSt → α → Nat × Flags}
    (he : ∀ sl k, s.Runs h i sl k → exec i s = .next (s.after h ((sl.started h i s.seq).putV d.val
      (writeLanes w (sl.mask h) t (val sl) l (sl.v d.val, 0)))))
    (hnodup : (l.map t).Nodup) (hlt : ∀ a ∈ l, t a < 256 / w)
    (hnamed : ∀ q, ∀ a ∈ l, f q (t a) = (BitVec.ofNat w (val q a).1, (val q a).2))
    (hother : ∀ q j, j < 256 / w → j ∉ l.map t → f q j = (laneOf w (q.v d.val) j, 0)) : s.GivesLanes h i w d f := by
  intro sl k r
  refine ⟨_, _, he sl k r, fun j hj => ?_, fun b => ?_⟩
  · change _ = if laneOn (sl.mask h) w j = true then _ else _
    split
    next hon =>
      by_cases hmem : j ∈ l.map t
      · obtain ⟨a, ha, rfl⟩ := List.mem_map.mp hmem
        rw [laneOf_writeLanes_written ha hnodup hj hon, hnamed sl a ha]
      · rw [laneOf_writeLanes_kept hj fun _ => hmem, hother sl j hj hmem]
    next hoff => exact laneOf_writeLanes_kept hj (fun hon => absurd hon hoff) _
  · rw [getLsbD_writeLanes_flags]
    constructor
    · rintro (hzero | ⟨a, ha, hon, hb⟩)
      · simp at hzero
      · exact ⟨t a, hlt a ha, hon, by rw [hnamed sl a ha]; exact hb⟩
    · rintro ⟨j, hj, hon, hb⟩
      by_cases hmem : j ∈ l.map t
      · obtain ⟨a, ha, rfl⟩ := List.mem_map.mp hmem
        rw [hnamed sl a ha] at hb
        exact .inr ⟨a, ha, hon, hb⟩
      · rw [hother sl j hj hmem] at hb
        simp at hb

/-- Every lane of a vector worked out in turn. -/
theorem givesLanes_of_bitLanes {g : SlotSt → Nat → Nat × Flags}
    (he : ∀ sl k, s.Runs h i sl k →
      exec i s = .next (s.after h (bitLanes (sl.started h i s.seq) h w d.val (g sl))))
    (hg : ∀ q j, j < 256 / w → f q j = (BitVec.ofNat w (g q j).1, (g q j).2)) : s.GivesLanes h i w d f := by
  refine givesLanes_of_writeLanes (t := id) (l := below (256 / w)) (val := g) (fun sl k r => ?_) ?_ ?_ ?_ ?_
  · rw [he sl k r, bitLanes, lanewise_eq, started_mask, started_v]
  · simpa using List.nodup_range
  · simp
  · exact fun q j hj => hg q j (by simpa using hj)
  · exact fun q j hj hmem => absurd hj (by simpa using hmem)

/-- An effect on the instruction's own slot that works out every lane of a vector, from that slot and from the state in which
the instruction has issued. The model's name w' of the lane width may differ from the statement's. -/
theorem givesLanes_of_issue {g : State → SlotSt → Nat → Nat × Flags}
    (he : exec i s = issue i h s fun _ u => .ok (modCur u fun q => bitLanes q h w' d.val (g u q))) (hw : w' = w)
    (hg : ∀ q j, j < 256 / w → f q j = (BitVec.ofNat w (g (s.begun h i q) (q.started h i s.seq) j).1,
      (g (s.begun h i q) (q.started h i s.seq) j).2)) : s.GivesLanes h i w d f := by
  subst hw
  refine givesLanes_of_bitLanes (fun sl k r => ?_) hg
  rw [he, issue_runs r]
  exact congrArg _ (modCur_after s h _ _)

/-- The same where only the slot matters. -/
theorem givesLanes_of_issueSlot {g : SlotSt → Nat → Nat × Flags}
    (he : exec i s = issueSlot i h s fun q => bitLanes q h w' d.val (g q)) (hw : w' = w)
    (hg : ∀ q j, j < 256 / w → f q j = (BitVec.ofNat w (g (q.started h i s.seq) j).1, (g (q.started h i s.seq) j).2)) :
    s.GivesLanes h i w d f :=
  givesLanes_of_issue (g := fun _ => g) he hw hg

end Gives

end Sys2Proof.Laws
end

section
/-!
PROOFS. The exact values of the number formats as real numbers (R109, R119): what the model's order, its sums and its order
with -0 below +0 say of them; and the values that E8M12 holds exactly (R113).
-/

namespace Sys2Proof.Laws

open Sys2Proof.Machine

/-! ### Finite values as real numbers -/

/-- The real number that a finite value stands for. -/
noncomputable def realOf (v : FVal) : ℝ := match v with
  | .fin n m e => (if n then -1 else 1) * (m * (2 : ℝ) ^ e)
  | .nan _ => 0
  | .inf _ => 0

/-- Whether a value is finite. -/
def isFinite : FVal → Bool
  | .fin _ _ _ => true
  | _ => false

/-- The order of R119: numeric, with -0 just below +0. -/
def Precedes (a b : FVal) : Prop := realOf a < realOf b ∨
  (realOf a = realOf b ∧ a.isZero = true ∧ b.isZero = true ∧ a.neg = true ∧ b.neg = false)

theorem isFinite_iff {v : FVal} : isFinite v = true ↔ ∃ n m e, v = .fin n m e := by
  cases v <;> simp [isFinite]

theorem isFinite_negate {v : FVal} (hv : isFinite v = true) : isFinite v.negate = true := by
  obtain ⟨n, m, e, rfl⟩ := isFinite_iff.mp hv
  rfl

theorem realOf_fin (n : Bool) (m : Nat) (e : Int) : realOf (.fin n m e) = (signedM n m : ℝ) * (2 : ℝ) ^ e := by
  cases n <;> simp [realOf, signedM]

theorem realOf_negate {v : FVal} (hv : isFinite v = true) : realOf v.negate = -realOf v := by
  obtain ⟨n, m, e, rfl⟩ := isFinite_iff.mp hv
  cases n <;> simp [realOf, FVal.negate]

theorem realOf_natAbs (s e : Int) : realOf (.fin (s < 0) s.natAbs e) = (s : ℝ) * (2 : ℝ) ^ e := by
  have hs : signedM (s < 0) s.natAbs = s := by
    simp only [signedM, decide_eq_true_eq]
    split <;> omega
  rw [realOf_fin, hs]

/-- A mantissa brought to an exponent q, which lies at or below its own unless it is zero. -/
def scaledTo (q : Int) (n : Bool) (m : Nat) (e : Int) : Int := signedM n (if m = 0 then 0 else m * 2 ^ (e - q).toNat)

theorem realOf_eq_scaledTo {q : Int} {n : Bool} {m : Nat} {e : Int} (hq : m = 0 ∨ q ≤ e) :
    realOf (.fin n m e) = (scaledTo q n m e : ℝ) * (2 : ℝ) ^ q := by
  rw [realOf_fin, scaledTo]
  split
  next hm => simp [hm, signedM]
  next hm =>
    have hle : q ≤ e := hq.resolve_left hm
    have hpow : (2 : ℝ) ^ e = 2 ^ (e - q).toNat * 2 ^ q := by
      rw [← zpow_natCast, Int.toNat_of_nonneg (by omega), ← zpow_add₀ two_ne_zero, sub_add_cancel]
    cases n <;> simp [signedM, hpow, mul_assoc]

/-! ### Order (R119, R129) -/

/-- Values brought to one exponent compare as their mantissas do. -/
theorem mul_zpow_lt_mul_zpow (x y q : Int) : (x : ℝ) * 2 ^ q < (y : ℝ) * 2 ^ q ↔ x < y := by
  rw [mul_lt_mul_iff_of_pos_right (zpow_pos two_pos q), Int.cast_lt]

theorem mul_zpow_eq_mul_zpow (x y q : Int) : (x : ℝ) * 2 ^ q = (y : ℝ) * 2 ^ q ↔ x = y := by
  rw [mul_left_inj' (zpow_ne_zero q two_ne_zero), Int.cast_inj]

theorem cmpV_fin (n k : Bool) (m l : Nat) (e f : Int) : cmpV (.fin n m e) (.fin k l f) =
    if scaledTo (min e f) n m e < scaledTo (min e f) k l f then -1
    else if scaledTo (min e f) n m e = scaledTo (min e f) k l f then 0 else 1 := rfl

theorem cmpV_neg_iff {a b : FVal} (ha : isFinite a = true) (hb : isFinite b = true) :
    cmpV a b < 0 ↔ realOf a < realOf b := by
  obtain ⟨n, m, e, rfl⟩ := isFinite_iff.mp ha
  obtain ⟨k, l, f, rfl⟩ := isFinite_iff.mp hb
  rw [realOf_eq_scaledTo (.inr (min_le_left e f)), realOf_eq_scaledTo (.inr (min_le_right e f)), mul_zpow_lt_mul_zpow,
    cmpV_fin]
  split
  next hlt => simp [hlt]
  next hge => split <;> simp [hge]

theorem cmpV_eq_zero_iff {a b : FVal} (ha : isFinite a = true) (hb : isFinite b = true) :
    cmpV a b = 0 ↔ realOf a = realOf b := by
  obtain ⟨n, m, e, rfl⟩ := isFinite_iff.mp ha
  obtain ⟨k, l, f, rfl⟩ := isFinite_iff.mp hb
  rw [realOf_eq_scaledTo (.inr (min_le_left e f)), realOf_eq_scaledTo (.inr (min_le_right e f)), mul_zpow_eq_mul_zpow,
    cmpV_fin]
  split
  next hlt => simp [hlt.ne]
  next hge => split <;> simp [*]

theorem ltV_iff_precedes {a b : FVal} (ha : isFinite a = true) (hb : isFinite b = true) :
    ltV a b = true ↔ Precedes a b := by
  have hlt := cmpV_neg_iff ha hb
  have heq := cmpV_eq_zero_iff ha hb
  rw [ltV, Precedes]
  split
  next hzero =>
    have hreal := heq.mp hzero
    simp [hreal, and_assoc]
  next hne =>
    have hreal : ¬ realOf a = realOf b := fun h => hne (heq.mpr h)
    simp [hreal, hlt]

/-! ### Exact sums (R128) -/

/-- The exponent of an exact sum: the lower one, of those of the terms that are not zero. -/
def sumExp (m l : Nat) (e f : Int) : Int := if m = 0 then f else if l = 0 then e else min e f

theorem sumExp_le_left (m l : Nat) (e f : Int) : m = 0 ∨ sumExp m l e f ≤ e := by
  unfold sumExp
  split_ifs <;> omega

theorem sumExp_le_right (m l : Nat) (e f : Int) : l = 0 ∨ sumExp m l e f ≤ f := by
  unfold sumExp
  split_ifs <;> omega

theorem addV_fin (rm : Rnd) (n k : Bool) (m l : Nat) (e f : Int) :
    let s := scaledTo (sumExp m l e f) n m e + scaledTo (sumExp m l e f) k l f
    (addV rm (.fin n m e) (.fin k l f)).1 =
      if s = 0 then .fin (if n = k then n else rm = .rdn) 0 0 else .fin (s < 0) s.natAbs (sumExp m l e f) := rfl

theorem isFinite_addV {a b : FVal} (rm : Rnd) (ha : isFinite a = true) (hb : isFinite b = true) :
    isFinite (addV rm a b).1 = true := by
  obtain ⟨n, m, e, rfl⟩ := isFinite_iff.mp ha
  obtain ⟨k, l, f, rfl⟩ := isFinite_iff.mp hb
  simp only [addV_fin]
  split <;> rfl

theorem realOf_addV {a b : FVal} (rm : Rnd) (ha : isFinite a = true) (hb : isFinite b = true) :
    realOf (addV rm a b).1 = realOf a + realOf b := by
  obtain ⟨n, m, e, rfl⟩ := isFinite_iff.mp ha
  obtain ⟨k, l, f, rfl⟩ := isFinite_iff.mp hb
  rw [realOf_eq_scaledTo (sumExp_le_left m l e f), realOf_eq_scaledTo (sumExp_le_right m l e f), ← add_mul,
    ← Int.cast_add, addV_fin]
  split
  next hzero => simp [hzero, realOf]
  next hne => exact realOf_natAbs _ _

theorem realOf_addV_negate {a b : FVal} (rm : Rnd) (ha : isFinite a = true) (hb : isFinite b = true) :
    realOf (addV rm a b.negate).1 = realOf a - realOf b := by
  rw [realOf_addV rm ha (isFinite_negate hb), realOf_negate hb, sub_eq_add_neg]

/-! ### E8M12 (R113) -/

theorem e8m12_decode_eq (b : Nat) : fmtE8M12.decode b =
    if b / 4096 % 256 = 255 then (if b % 4096 = 0 then .inf (bitN b 20) else .nan (decide (b % 4096 < 2048)))
    else if b / 4096 % 256 = 0 then .fin (bitN b 20) 0 0
    else .fin (bitN b 20) (4096 + b % 4096) ((b / 4096 % 256 : Nat) - 139) := by
  have hquiet : (!bitN (b % 4096) 11) = decide (b % 4096 < 2048) := by
    simp only [bitN, ← decide_not, decide_eq_decide]
    omega
  have hexp : ((b / 4096 % 256 : Nat) : Int) - 127 - 12 = (b / 4096 % 256 : Nat) - 139 := by omega
  rw [← hquiet, ← hexp]
  rfl

theorem pack_zero (f : Fmt) (rm : Rnd) (n : Bool) (e : Int) : f.pack rm (.val (.fin n 0 e)) = (f.signed n 0, 0) := rfl

theorem cutAt_of_le {rm : Rnd} {x : Exact} {q : Int} (hq : q ≤ x.e) :
    cutAt rm x q = (x.m * 2 ^ (x.e - q).toNat, x.sticky) := if_pos hq

/-- A significand of at most 13 bits, normalised to 13. -/
def normal13 (m : Nat) : Nat := m * 2 ^ (12 - m.log2)

theorem log2_lt_13 {m : Nat} (hm : m ≠ 0) (hlt : m < 8192) : m.log2 < 13 := (Nat.log2_lt hm).mpr hlt

theorem normal13_bounds {m : Nat} (hm : m ≠ 0) (hlt : m < 8192) : 4096 ≤ normal13 m ∧ normal13 m < 8192 := by
  have hlog := log2_lt_13 hm hlt
  constructor
  · calc 4096 = 2 ^ m.log2 * 2 ^ (12 - m.log2) := by rw [← pow_add, Nat.add_sub_cancel' (by omega)]; rfl
      _ ≤ normal13 m := Nat.mul_le_mul_right _ (Nat.log2_self_le hm)
  · calc normal13 m < 2 ^ (m.log2 + 1) * 2 ^ (12 - m.log2) := Nat.mul_lt_mul_of_pos_right Nat.lt_log2_self (by positivity)
      _ = 8192 := by rw [← pow_add, show m.log2 + 1 + (12 - m.log2) = 13 by omega]; rfl

/-- The bits of E8M12 for a value whose significand fits: nothing is rounded. -/
theorem e8m12_pack_fin {m : Nat} {e : Int} (rm : Rnd) (n : Bool) (hm : m ≠ 0) (hlt : m < 8192) (hlo : -126 ≤ e)
    (hhi : e ≤ 115) : (fmtE8M12.pack rm (.val (.fin n m e))).1 =
      boolN n * 2 ^ 20 + ((e + m.log2 + 127).toNat * 2 ^ 12 + (normal13 m - 2 ^ 12)) := by
  have hlog := log2_lt_13 hm hlt
  have hk := normal13_bounds hm hlt
  have hcut : cutAt rm ⟨n, m, e, false⟩ (e + m.log2 + 1 - (12 + 1 : Nat)) = (normal13 m, false) := by
    rw [cutAt_of_le (by simp only; omega), normal13]
    congr 3
    simp only
    omega
  have hcarry : ¬ normal13 m = 2 ^ (12 + 1) := by omega
  have hbig : ¬ e + m.log2 + 1 - (12 + 1 : Nat) + (12 + 1 : Nat) - 1 > 127 := by omega
  have hsmall : ¬ e + m.log2 + 1 - (12 + 1 : Nat) + (12 + 1 : Nat) - 1 < 1 - 127 := by omega
  have hexp : e + m.log2 + 1 - (12 + 1 : Nat) + (12 + 1 : Nat) - 1 + 127 = e + m.log2 + 127 := by omega
  obtain ⟨m, rfl⟩ := Nat.exists_eq_succ_of_ne_zero hm
  simp only [Fmt.pack, Fmt.round, fmtE8M12, hcut, hcarry, if_false, hbig, hsmall, hexp]
  rfl

/-- E8M12 holds every value of at most 13 significant bits in its range, zero among them. -/
theorem e8m12_exact {m : Nat} {e : Int} (rm : Rnd) (n : Bool) (hlt : m < 8192) (hlo : -126 ≤ e) (hhi : e ≤ 115) :
    (fmtE8M12.pack rm (.val (.fin n m e))).1 < 2 ^ 21 ∧ ∃ m' e',
      fmtE8M12.decode (fmtE8M12.pack rm (.val (.fin n m e))).1 = .fin n m' e' ∧
      realOf (.fin false m' e') = m * (2 : ℝ) ^ e := by
  by_cases hm : m = 0
  · subst hm
    rw [pack_zero]
    cases n <;> exact ⟨by decide, 0, 0, by decide, by simp [realOf]⟩
  · have hlog := log2_lt_13 hm hlt
    obtain ⟨hk, hk'⟩ := normal13_bounds hm hlt
    rw [e8m12_pack_fin rm n hm hlt hlo hhi]
    generalize hb : boolN n * 2 ^ 20 + ((e + m.log2 + 127).toNat * 2 ^ 12 + (normal13 m - 2 ^ 12)) = b
    have hn : boolN n ≤ 1 := by cases n <;> decide
    have hex : b / 4096 % 256 = (e + m.log2 + 127).toNat := by omega
    have hfrac : 4096 + b % 4096 = normal13 m := by omega
    have hsign : bitN b 20 = n := by
      have hbit : b / 2 ^ 20 % 2 = boolN n := by omega
      rw [bitN, hbit]
      cases n <;> rfl
    refine ⟨by omega, normal13 m, e + m.log2 - 12, ?_, ?_⟩
    · have hexp : ((e + m.log2 + 127).toNat : Int) - 139 = e + m.log2 - 12 := by omega
      rw [e8m12_decode_eq, hex, hsign, hfrac, if_neg (by omega), if_neg (by omega), hexp]
    · have hexp : ((12 - m.log2 : Nat) : Int) + (e + m.log2 - 12) = e := by omega
      have hpow : (2 : ℝ) ^ e = 2 ^ (12 - m.log2) * 2 ^ (e + m.log2 - 12) := by
        rw [← zpow_natCast, ← zpow_add₀ two_ne_zero, hexp]
      simp [realOf, normal13, hpow, mul_assoc]

end Sys2Proof.Laws
end

section
/-!
PROOFS. Decode tables: what an entry decodes to (R117), the shipped tables (R118), and the order of the codes.
-/

namespace Sys2Proof.Laws

open Sys2Proof.Machine

/-! ### What an entry decodes to (R117) -/

section Entry

variable {t : DecTable} {c : Nat}

theorem value_of_kind_zero (hk : bitsN (t.entry c) 31 30 = 0) : t.value c = fmtE8M12.decode (bitsN (t.entry c) 20 0) := by
  simp only [DecTable.value, hk]

theorem value_of_kind_one (hk : bitsN (t.entry c) 31 30 = 1) : t.value c = qNaN := by
  simp only [DecTable.value, hk]

theorem value_of_kind_two (hk : bitsN (t.entry c) 31 30 = 2) : t.value c = .inf false := by
  simp only [DecTable.value, hk]

theorem value_of_kind_three (hk : bitsN (t.entry c) 31 30 = 3) : t.value c = .inf true := by
  simp only [DecTable.value, hk]

/-- A finite entry decodes to the E8M12 value in its low bits, whatever the order bit says. -/
theorem value_of_finite_entry {order : Bool} {v : Nat} (he : t.entry c = (if order then 2 ^ 29 else 0) + v)
    (hv : v < 2 ^ 21) : t.value c = fmtE8M12.decode v := by
  have hkind : bitsN (t.entry c) 31 30 = 0 := by
    rw [he, bitsN]
    split <;> omega
  have hval : bitsN (t.entry c) 20 0 = v := by
    rw [he, bitsN]
    split <;> omega
  rw [value_of_kind_zero hkind, hval]

end Entry

section Image

variable {ws : List (BitVec 32)} {c : Nat}

/-- The kind of an image's entry, as the model reads it. -/
theorem kind_img {n : Nat} (hn : n < 4) (hk : (ws.getD c 0).extractLsb' 30 2 = BitVec.ofNat 2 n) :
    bitsN ((DecTable.img ws).entry c) 31 30 = n := by
  have h := congrArg BitVec.toNat hk
  rw [BitVec.extractLsb'_toNat, Nat.shiftRight_eq_div_pow, BitVec.toNat_ofNat, Nat.mod_eq_of_lt hn] at h
  exact h

/-- A finite entry of an image, by the fields of its E8M12 value. -/
theorem value_img_finite (hk : (ws.getD c 0).extractLsb' 30 2 = 0) :
    let sg := (ws.getD c 0).getLsbD 20
    let ex := ((ws.getD c 0).extractLsb' 12 8).toNat
    let frac := ((ws.getD c 0).extractLsb' 0 12).toNat
    (DecTable.img ws).value c = if ex = 255 then (if frac = 0 then .inf sg else .nan (decide (frac < 2048)))
      else if ex = 0 then .fin sg 0 0 else .fin sg (4096 + frac) ((ex : Int) - 139) := by
  simp only [BitVec.extractLsb'_toNat, Nat.shiftRight_eq_div_pow, pow_zero, Nat.div_one, BitVec.getLsbD]
  rw [value_of_kind_zero (kind_img (by decide) hk), e8m12_decode_eq]
  simp only [DecTable.entry, bitsN, bitN_eq_testBit]
  have hexp (w : Nat) : w / 2 ^ 0 % 2 ^ (20 + 1 - 0) / 4096 % 256 = w / 2 ^ 12 % 2 ^ 8 := by omega
  have hfrac (w : Nat) : w / 2 ^ 0 % 2 ^ (20 + 1 - 0) % 4096 = w % 2 ^ 12 := by omega
  have hsign (w : Nat) : (w / 2 ^ 0 % 2 ^ (20 + 1 - 0)).testBit 20 = w.testBit 20 := by
    rw [pow_zero, Nat.div_one, Nat.testBit_mod_two_pow, decide_eq_true (by decide), Bool.true_and]
  simp only [hexp, hfrac, hsign]

end Image

/-! ### The order of the codes (R117) -/

/-- The sign-magnitude order: 0xFF down to 0x80, then 0x00 up to 0x7F. -/
def signMagnitude : List Nat := ((List.range 128).map fun i => 255 - i) ++ List.range 128

theorem order_eq (t : DecTable) : t.order = if bitN (t.entry 0) 29 then signMagnitude else List.range 256 := by
  simp only [DecTable.order, signMagnitude, below_eq_range]

theorem order_img (ws : List (BitVec 32)) :
    (DecTable.img ws).order = if (ws.getD 0 0).getLsbD 29 then signMagnitude else List.range 256 := by
  rw [order_eq, bitN_eq_testBit]
  rfl

theorem order_q43 : DecTable.order .q43 = signMagnitude := (order_eq _).trans (if_pos (by decide))

theorem order_q52 : DecTable.order .q52 = signMagnitude := (order_eq _).trans (if_pos (by decide))

theorem length_order (t : DecTable) : t.order.length = 256 := by
  rw [order_eq]
  split <;> simp [signMagnitude]

/-! ### The shipped tables (R118) -/

section Shipped

variable {c : Nat}

theorem bitN_seven (hc : c < 256) : bitN c 7 = decide (128 ≤ c) := by
  simp only [bitN, decide_eq_decide]
  omega

/-- A code whose entry is an exact E8M12 value decodes to that value. -/
theorem value_of_exact_entry {t : DecTable} {m : Nat} {e : Int} (hc : c < 256) (hlt : m < 8192) (hlo : -126 ≤ e)
    (hhi : e ≤ 115) (he : t.entry c = (if c = 0 then 2 ^ 29 else 0) +
      (fmtE8M12.pack .rne (.val (.fin (bitN c 7) m e))).1) :
    ∃ m' e', t.value c = .fin (decide (128 ≤ c)) m' e' ∧ realOf (.fin false m' e') = m * (2 : ℝ) ^ e := by
  obtain ⟨hbits, m', e', hdec, hreal⟩ := e8m12_exact .rne (bitN c 7) hlt hlo hhi
  refine ⟨m', e', ?_, hreal⟩
  rw [value_of_finite_entry (order := decide (c = 0)) (by simpa using he) hbits, hdec, bitN_seven hc]

/-- Entry c of Q43, of exponent field e and fraction field f. -/
theorem entry_q43 (hnan : c ≠ 0x80) : DecTable.entry .q43 c = (if c = 0 then 2 ^ 29 else 0) +
    (if c / 8 % 16 = 0 then fmtE8M12.pack .rne (.val (.fin (bitN c 7) (c % 8) (-9)))
      else fmtE8M12.pack .rne (.val (.fin (bitN c 7) (8 + c % 8) ((c / 8 % 16 : Nat) - 10)))).1 := by
  have hfrac : bitsN c 2 0 = c % 8 := bitsN_zero c 2
  rw [DecTable.entry, q43Entry, hfrac, if_neg hnan]
  rfl

theorem entry_q52 (hexp : c / 4 % 32 ≠ 31) : DecTable.entry .q52 c = (if c = 0 then 2 ^ 29 else 0) +
    (if c / 4 % 32 = 0 then fmtE8M12.pack .rne (.val (.fin (bitN c 7) (c % 4) (-16)))
      else fmtE8M12.pack .rne (.val (.fin (bitN c 7) (4 + c % 4) ((c / 4 % 32 : Nat) - 17)))).1 := by
  have hfrac : bitsN c 1 0 = c % 4 := bitsN_zero c 1
  rw [DecTable.entry, q52Entry, hfrac]
  exact congrArg _ (if_neg hexp)

/-- A normal value: its fraction f of k bits, scaled by u = 2^k, beside the hidden bit. -/
theorem zpow_mul_one_add_div {a b : Int} {k u : Nat} (hu : u = 2 ^ k) (hab : a = b + k) (f : Nat) :
    (2 : ℝ) ^ a * (1 + f / u) = (u + f : Nat) * (2 : ℝ) ^ b := by
  have hpow : (2 : ℝ) ^ a = u * (2 : ℝ) ^ b := by
    rw [hab, zpow_add₀ two_ne_zero, zpow_natCast, hu, mul_comm]
    norm_num
  have hne : (u : ℝ) ≠ 0 := by
    rw [hu]
    positivity
  rw [hpow, Nat.cast_add]
  field_simp

theorem value_q43 (hc : c < 256) (hnan : c ≠ 0x80) : ∃ m e, DecTable.value .q43 c = .fin (decide (128 ≤ c)) m e ∧
    realOf (.fin false m e) = if c / 8 % 16 = 0 then (c % 8 : Nat) * (2 : ℝ) ^ (-9 : Int)
      else (2 : ℝ) ^ ((c / 8 % 16 : Nat) - 7 : Int) * (1 + (c % 8 : Nat) / 8) := by
  have hentry := entry_q43 hnan
  by_cases hsub : c / 8 % 16 = 0
  · rw [if_pos hsub] at hentry ⊢
    exact value_of_exact_entry hc (by omega) (by omega) (by omega) hentry
  · have hreal := zpow_mul_one_add_div (a := (c / 8 % 16 : Nat) - 7) (b := (c / 8 % 16 : Nat) - 10) (k := 3) (u := 8)
      rfl (by omega) (c % 8)
    rw [Nat.cast_ofNat] at hreal
    rw [if_neg hsub] at hentry ⊢
    rw [hreal]
    exact value_of_exact_entry hc (by omega) (by omega) (by omega) hentry

theorem value_q43_nan : (DecTable.value .q43 0x80).isNan = true := by
  rw [value_of_kind_one (by decide)]
  rfl

theorem value_q52 (hc : c < 256) (hexp : c / 4 % 32 ≠ 31) :
    ∃ m e, DecTable.value .q52 c = .fin (decide (128 ≤ c)) m e ∧
      realOf (.fin false m e) = if c / 4 % 32 = 0 then (c % 4 : Nat) * (2 : ℝ) ^ (-16 : Int)
        else (2 : ℝ) ^ ((c / 4 % 32 : Nat) - 15 : Int) * (1 + (c % 4 : Nat) / 4) := by
  have hentry := entry_q52 hexp
  by_cases hsub : c / 4 % 32 = 0
  · rw [if_pos hsub] at hentry ⊢
    exact value_of_exact_entry hc (by omega) (by omega) (by omega) hentry
  · have hreal := zpow_mul_one_add_div (a := (c / 4 % 32 : Nat) - 15) (b := (c / 4 % 32 : Nat) - 17) (k := 2) (u := 4)
      rfl (by omega) (c % 4)
    rw [Nat.cast_ofNat] at hreal
    rw [if_neg hsub] at hentry ⊢
    rw [hreal]
    exact value_of_exact_entry hc (by omega) (by omega) (by omega) hentry

/-- The codes of Q52 whose exponent field is all ones. -/
theorem value_q52_special (hc : c < 256) (hexp : c / 4 % 32 = 31) :
    if c % 4 = 0 then DecTable.value .q52 c = .inf (decide (128 ≤ c)) else (DecTable.value .q52 c).isNan = true := by
  have hentry : DecTable.entry .q52 c =
      if c % 4 = 0 then (if bitN c 7 then 3 * 2 ^ 30 else 2 * 2 ^ 30) else 2 ^ 30 := by
    have hfrac : bitsN c 1 0 = c % 4 := bitsN_zero c 1
    have hc0 : c ≠ 0 := by omega
    rw [DecTable.entry, q52Entry, hfrac, if_neg hc0, Nat.zero_add]
    exact if_pos hexp
  split
  next hzero =>
    rw [if_pos hzero] at hentry
    rw [← bitN_seven hc]
    cases hs : bitN c 7 with
    | true =>
      rw [hs] at hentry
      exact value_of_kind_three (by rw [hentry]; decide)
    | false =>
      rw [hs] at hentry
      exact value_of_kind_two (by rw [hentry]; decide)
  next hfrac =>
    rw [if_neg hfrac] at hentry
    rw [value_of_kind_one (by rw [hentry]; decide)]
    rfl

end Shipped

end Sys2Proof.Laws
end

section
/-!
PROOFS. The code that encodes a value (R119): the finite codes of a table, the bisection as the iterates of one step, and
the code that `DecTable.encode` gives in each case of the procedure.
-/

namespace Sys2Proof.Laws

open Sys2Proof.Machine

/-! ### Bisection -/

/-- One step of the bisection of R119 between two places, where p says that the value sought lies below a place. -/
def bisect (p : Nat → Bool) (b : Nat × Nat) : Nat × Nat :=
  if 1 < b.2 - b.1 then (if p ((b.1 + b.2) / 2) then (b.1, (b.1 + b.2) / 2) else ((b.1 + b.2) / 2, b.2)) else b

section Bisection

variable {p : Nat → Bool} {top : Nat} {b : Nat × Nat}

theorem bisect_cases (p : Nat → Bool) (b : Nat × Nat) :
    1 < b.2 - b.1 ∧ bisect p b = (b.1, (b.1 + b.2) / 2) ∨ 1 < b.2 - b.1 ∧ bisect p b = ((b.1 + b.2) / 2, b.2) ∨
      ¬ 1 < b.2 - b.1 ∧ bisect p b = b := by
  unfold bisect
  split_ifs <;> simp [*]

theorem bisect_below (hgap : 1 < b.2 - b.1) (hp : p ((b.1 + b.2) / 2) = true) :
    bisect p b = (b.1, (b.1 + b.2) / 2) := by
  rw [bisect, if_pos hgap, if_pos hp]

theorem bisect_not_below (hgap : 1 < b.2 - b.1) (hp : ¬ p ((b.1 + b.2) / 2) = true) :
    bisect p b = ((b.1 + b.2) / 2, b.2) := by
  rw [bisect, if_pos hgap, if_neg hp]

theorem bisect_done (hgap : ¬ 1 < b.2 - b.1) : bisect p b = b := if_neg hgap

/-- The model's search is the bisection iterated as often as its fuel says. -/
theorem encSearch_eq (l : List (Nat × FVal)) (x : FVal) (n lo hi : Nat) :
    encSearch l x n lo hi = (bisect fun i => ltV x (l.getD i (0, qNaN)).2)^[n] (lo, hi) := by
  induction n generalizing lo hi with
  | zero => rfl
  | succ n ih =>
    rw [Function.iterate_succ_apply, encSearch]
    by_cases hgap : 1 < hi - lo
    · rw [if_pos hgap]
      by_cases hp : ltV x (l.getD ((lo + hi) / 2) (0, qNaN)).2 = true
      · rw [bisect_below hgap hp, ← ih]
        exact if_pos hp
      · rw [bisect_not_below hgap hp, ← ih]
        exact if_neg hp
    · rw [if_neg hgap, bisect_done hgap, Function.iterate_fixed (bisect_done hgap)]

/-- The two ends stay in order and below the first upper one. -/
theorem iterate_bisect_le (p : Nat → Bool) (top n : Nat) :
    ((bisect p)^[n] (0, top)).1 ≤ ((bisect p)^[n] (0, top)).2 ∧ ((bisect p)^[n] (0, top)).2 ≤ top := by
  induction n with
  | zero => simp
  | succ n ih =>
    rw [Function.iterate_succ_apply']
    rcases bisect_cases p ((bisect p)^[n] (0, top)) with ⟨hgap, hb⟩ | ⟨hgap, hb⟩ | ⟨hgap, hb⟩ <;>
    (simp only [hb]; omega)

/-- Each step halves the gap, so n steps close one of 2^n. -/
theorem iterate_bisect_gap (p : Nat → Bool) {n : Nat} {b : Nat × Nat} (hgap : b.2 - b.1 ≤ 2 ^ n) :
    ((bisect p)^[n] b).2 - ((bisect p)^[n] b).1 ≤ 1 := by
  induction n generalizing b with
  | zero => simpa using hgap
  | succ n ih =>
    rw [Function.iterate_succ_apply]
    apply ih
    have hpow : 1 ≤ 2 ^ n := Nat.one_le_two_pow
    rw [pow_succ] at hgap
    rcases bisect_cases p b with ⟨hopen, hb⟩ | ⟨hopen, hb⟩ | ⟨hopen, hb⟩ <;>
    (simp only [hb]; omega)

/-- The bisection ends after the first step k at which the gap is closed, and later steps change nothing. -/
theorem exists_bisect_end (p : Nat → Bool) {n : Nat} (htop : top ≤ 2 ^ n) : ∃ k,
    (∀ j, j < k → 1 < ((bisect p)^[j] (0, top)).2 - ((bisect p)^[j] (0, top)).1) ∧
    ((bisect p)^[k] (0, top)).2 - ((bisect p)^[k] (0, top)).1 ≤ 1 ∧
    (bisect p)^[n] (0, top) = (bisect p)^[k] (0, top) := by
  have hn := iterate_bisect_gap p (n := n) (b := (0, top)) (by simpa using htop)
  have hex : ∃ k, ((bisect p)^[k] (0, top)).2 - ((bisect p)^[k] (0, top)).1 ≤ 1 := ⟨n, hn⟩
  have hk := Nat.find_spec hex
  refine ⟨Nat.find hex, fun j hj => not_le.mp (Nat.find_min hex hj), hk, ?_⟩
  rw [← Nat.sub_add_cancel (Nat.find_min' hex hn), Function.iterate_add_apply,
    Function.iterate_fixed (bisect_done (not_lt.mpr hk))]

end Bisection

/-! ### The finite codes of a table -/

/-- The list L of R119. -/
def finiteCodes (t : DecTable) : List Nat := t.order.filter fun c => isFinite (t.value c)

/-- The code at place i of L, with its value. -/
def place (t : DecTable) (i : Nat) : Nat × FVal := ((finiteCodes t).getD i 0, t.value ((finiteCodes t).getD i 0))

theorem length_finiteCodes_le (t : DecTable) : (finiteCodes t).length ≤ 256 :=
  (List.length_filter_le _ _).trans_eq (length_order t)

theorem isFinite_place {t : DecTable} {i : Nat} (hi : i < (finiteCodes t).length) : isFinite (place t i).2 = true := by
  have hmem : (finiteCodes t)[i] ∈ finiteCodes t := List.getElem_mem hi
  rw [place, List.getD_eq_getElem _ _ hi]
  exact (List.mem_filter.mp hmem).2

/-- The finite codes beside their values, as the model lists them. -/
def codesAndValues (t : DecTable) : List (Nat × FVal) :=
  (t.order.map fun c => (c, t.value c)).filter fun cv => isFinite cv.2

theorem codesAndValues_eq_map (t : DecTable) : codesAndValues t = (finiteCodes t).map fun c => (c, t.value c) :=
  List.filter_map ..

@[simp] theorem length_codesAndValues (t : DecTable) : (codesAndValues t).length = (finiteCodes t).length := by
  rw [codesAndValues_eq_map, List.length_map]

theorem codesAndValues_getD {t : DecTable} {i : Nat} (hi : i < (finiteCodes t).length) :
    (codesAndValues t).getD i (0, qNaN) = place t i := by
  rw [place, List.getD_eq_getElem _ _ hi, List.getD_eq_getElem _ _ (by simpa using hi)]
  simp only [codesAndValues_eq_map, List.getElem_map]

/-! ### The cases of the procedure -/

/-- The nearer of two codes with their values, the even one on a tie; no saturation. -/
def nearer (x : FVal) (a b : Nat × FVal) : Nat × Bool :=
  let dl := (addV .rne x a.2.negate).1
  let dh := (addV .rne b.2 x.negate).1
  if cmpV dl dh < 0 then (a.1, false)
  else if cmpV dh dl < 0 then (b.1, false)
  else if b.1 % 2 = 0 && a.1 % 2 = 1 then (b.1, false)
  else (a.1, false)

theorem nearer_snd (x : FVal) (a b : Nat × FVal) : (nearer x a b).2 = false := by
  simp only [nearer]
  split_ifs <;> rfl

theorem nearer_fst {x : FVal} {a b : Nat × FVal} (hx : isFinite x = true) (ha : isFinite a.2 = true)
    (hb : isFinite b.2 = true) :
    let dl := realOf x - realOf a.2
    let dh := realOf b.2 - realOf x
    (dl < dh → (nearer x a b).1 = a.1) ∧ (dh < dl → (nearer x a b).1 = b.1) ∧
      (dl = dh → (nearer x a b).1 = if b.1 % 2 = 0 ∧ a.1 % 2 = 1 then b.1 else a.1) := by
  have hl := isFinite_addV .rne hx (isFinite_negate ha)
  have hh := isFinite_addV .rne hb (isFinite_negate hx)
  simp only [nearer, cmpV_neg_iff hl hh, cmpV_neg_iff hh hl, realOf_addV_negate .rne hx ha,
    realOf_addV_negate .rne hb hx]
  refine ⟨fun h => ?_, fun h => ?_, fun h => ?_⟩
  · rw [if_pos h]
  · rw [if_neg h.not_gt, if_pos h]
  · rw [if_neg h.not_lt, if_neg h.not_gt, ← apply_ite Prod.fst]
    simp only [Bool.and_eq_true, decide_eq_true_eq]
    split <;> rfl

section Encode

variable {t : DecTable} {x : FVal}

theorem encode_nan (sg : Bool) :
    t.encode (.nan sg) = (((List.range 256).find? fun c => (t.value c).isNan).getD 0, false) := by
  rw [← below_eq_range]
  rfl

theorem encode_inf (n : Bool) : t.encode (.inf n) =
    match (List.range 256).find? fun c => decide (t.value c = .inf n) with
    | some c => (c, false)
    | none => if finiteCodes t = [] then (0, false)
        else ((finiteCodes t).getD (if n then 0 else (finiteCodes t).length - 1) 0, true) := by
  have henc : t.encode (.inf n) = match (below 256).find? fun c => decide (t.value c = .inf n) with
    | some c => (c, false)
    | none => if (codesAndValues t).length = 0 then (0, false)
        else (((codesAndValues t).getD (if n then 0 else (codesAndValues t).length - 1) (0, qNaN)).1, true) := rfl
  rw [henc, below_eq_range, length_codesAndValues]
  split
  next => rfl
  next =>
    by_cases hnil : finiteCodes t = []
    · simp [hnil]
    · have hpos := List.length_pos_of_ne_nil hnil
      rw [if_neg hnil, if_neg hpos.ne', codesAndValues_getD (by split <;> omega), place]

theorem encode_finite (hx : isFinite x = true) : t.encode x =
    if (codesAndValues t).length = 0 then (0, false)
    else
      let at_ (i : Nat) : Nat × FVal := (codesAndValues t).getD i (0, qNaN)
      let top := (codesAndValues t).length - 1
      if !ltV x (at_ top).2 then ((at_ top).1, decide (cmpV x (at_ top).2 ≠ 0))
      else if !ltV (at_ 0).2 x then ((at_ 0).1, decide (cmpV x (at_ 0).2 ≠ 0))
      else nearer x (at_ (encSearch (codesAndValues t) x 9 0 top).1) (at_ (encSearch (codesAndValues t) x 9 0 top).2) := by
  obtain ⟨n, m, e, rfl⟩ := isFinite_iff.mp hx
  rfl

/-- A finite value through a table without finite codes. -/
theorem encode_of_no_finiteCodes (hx : isFinite x = true) (hnil : finiteCodes t = []) : t.encode x = (0, false) := by
  rw [encode_finite hx, if_pos (by simp [hnil])]

/-- The places between which x lies after n steps of the bisection of L, whose last place is top. -/
def places (t : DecTable) (x : FVal) (top n : Nat) : Nat × Nat :=
  (bisect fun i => ltV x ((codesAndValues t).getD i (0, qNaN)).2)^[n] (0, top)

/-- The two places stay in order and inside the list. -/
theorem places_le (t : DecTable) (x : FVal) (top n : Nat) :
    (places t x top n).1 ≤ (places t x top n).2 ∧ (places t x top n).2 ≤ top := iterate_bisect_le _ top n

section Finite

variable {top : Nat} (hx : isFinite x = true) (hlen : (finiteCodes t).length = top + 1)

include hlen

theorem codesAndValues_getD_of_le {i : Nat} (hi : i ≤ top) : (codesAndValues t).getD i (0, qNaN) = place t i :=
  codesAndValues_getD (by omega)

theorem isFinite_place_of_le {i : Nat} (hi : i ≤ top) : isFinite (place t i).2 = true := isFinite_place (by omega)

/-- The model's fuel takes the bisection to its end, at the first step k after which the places are neighbours. -/
theorem exists_places_end (x : FVal) : ∃ k, (∀ j, j < k → 1 < (places t x top j).2 - (places t x top j).1) ∧
    (places t x top k).2 - (places t x top k).1 ≤ 1 ∧ places t x top 9 = places t x top k := by
  have hfuel : top ≤ 2 ^ 9 := by
    have := length_finiteCodes_le t
    omega
  exact exists_bisect_end _ hfuel

include hx

theorem encode_of_length : t.encode x =
    if !ltV x (place t top).2 then ((place t top).1, decide (cmpV x (place t top).2 ≠ 0))
    else if !ltV (place t 0).2 x then ((place t 0).1, decide (cmpV x (place t 0).2 ≠ 0))
    else nearer x (place t (places t x top 9).1) (place t (places t x top 9).2) := by
  obtain ⟨hle, hle'⟩ := places_le t x top 9
  have hsearch : encSearch (codesAndValues t) x 9 0 top = places t x top 9 := encSearch_eq ..
  rw [encode_finite hx, if_neg (by simp [hlen])]
  simp only [length_codesAndValues, hlen, Nat.add_sub_cancel, hsearch, codesAndValues_getD_of_le hlen le_rfl,
    codesAndValues_getD_of_le hlen (Nat.zero_le top), codesAndValues_getD_of_le hlen hle',
    codesAndValues_getD_of_le hlen (hle.trans hle')]

/-- The mark of a saturated extreme: the value of the code is not the one encoded. -/
theorem cmpV_place_ne_zero_iff {i : Nat} (hi : i ≤ top) :
    decide (cmpV x (place t i).2 ≠ 0) = true ↔ realOf x ≠ realOf (place t i).2 := by
  rw [decide_eq_true_eq, ne_eq, ne_eq, cmpV_eq_zero_iff hx (isFinite_place_of_le hlen hi)]

theorem encode_at_top (htop : ¬ Precedes x (place t top).2) :
    (t.encode x).1 = (place t top).1 ∧ ((t.encode x).2 = true ↔ realOf x ≠ realOf (place t top).2) := by
  rw [← ltV_iff_precedes hx (isFinite_place_of_le hlen le_rfl), Bool.not_eq_true] at htop
  rw [encode_of_length hx hlen, htop, Bool.not_false, if_pos rfl]
  exact ⟨rfl, cmpV_place_ne_zero_iff hx hlen le_rfl⟩

theorem encode_at_bottom (htop : Precedes x (place t top).2) (hbottom : ¬ Precedes (place t 0).2 x) :
    (t.encode x).1 = (place t 0).1 ∧ ((t.encode x).2 = true ↔ realOf x ≠ realOf (place t 0).2) := by
  rw [← ltV_iff_precedes hx (isFinite_place_of_le hlen le_rfl)] at htop
  rw [← ltV_iff_precedes (isFinite_place_of_le hlen (Nat.zero_le top)) hx, Bool.not_eq_true] at hbottom
  rw [encode_of_length hx hlen, htop, hbottom, Bool.not_true, if_neg Bool.false_ne_true, Bool.not_false, if_pos rfl]
  exact ⟨rfl, cmpV_place_ne_zero_iff hx hlen (Nat.zero_le top)⟩

theorem encode_between (htop : Precedes x (place t top).2) (hbottom : Precedes (place t 0).2 x) :
    t.encode x = nearer x (place t (places t x top 9).1) (place t (places t x top 9).2) := by
  rw [← ltV_iff_precedes hx (isFinite_place_of_le hlen le_rfl)] at htop
  rw [← ltV_iff_precedes (isFinite_place_of_le hlen (Nat.zero_le top)) hx] at hbottom
  rw [encode_of_length hx hlen, htop, hbottom, Bool.not_true, if_neg Bool.false_ne_true, if_neg Bool.false_ne_true]

/-- A step of the bisection goes by the order of x and the value in the middle. -/
theorem places_succ {j : Nat} (hopen : 1 < (places t x top j).2 - (places t x top j).1) :
    let mid := ((places t x top j).1 + (places t x top j).2) / 2
    (Precedes x (place t mid).2 → places t x top (j + 1) = ((places t x top j).1, mid)) ∧
      (¬ Precedes x (place t mid).2 → places t x top (j + 1) = (mid, (places t x top j).2)) := by
  obtain ⟨hle, hle'⟩ := places_le t x top j
  have hmid : ((places t x top j).1 + (places t x top j).2) / 2 ≤ top := by omega
  have hstep : places t x top (j + 1) =
      bisect (fun i => ltV x ((codesAndValues t).getD i (0, qNaN)).2) (places t x top j) :=
    Function.iterate_succ_apply' ..
  have hlt := ltV_iff_precedes hx (isFinite_place_of_le hlen hmid)
  rw [← codesAndValues_getD_of_le hlen hmid] at hlt
  simp only [hstep, ← codesAndValues_getD_of_le hlen hmid]
  exact ⟨fun hp => bisect_below hopen (hlt.mpr hp), fun hp => bisect_not_below hopen fun h => hp (hlt.mp h)⟩

/-- The whole bisection of R119, and the nearer of the two codes at which it ends. -/
theorem encode_bisects (htop : Precedes x (place t top).2) (hbottom : Precedes (place t 0).2 x) :
    (t.encode x).2 = false ∧ ∃ (lo hi : Nat → Nat) (k : Nat), lo 0 = 0 ∧ hi 0 = top ∧
      (∀ j, 1 < hi j - lo j →
        (Precedes x (place t ((lo j + hi j) / 2)).2 → lo (j + 1) = lo j ∧ hi (j + 1) = (lo j + hi j) / 2) ∧
        (¬ Precedes x (place t ((lo j + hi j) / 2)).2 → lo (j + 1) = (lo j + hi j) / 2 ∧ hi (j + 1) = hi j)) ∧
      (∀ j, j < k → 1 < hi j - lo j) ∧ hi k - lo k ≤ 1 ∧
      (let a := (place t (lo k)).1
       let b := (place t (hi k)).1
       let dl := realOf x - realOf (place t (lo k)).2
       let dh := realOf (place t (hi k)).2 - realOf x
       (dl < dh → (t.encode x).1 = a) ∧ (dh < dl → (t.encode x).1 = b) ∧
       (dl = dh → (t.encode x).1 = if b % 2 = 0 ∧ a % 2 = 1 then b else a)) := by
  obtain ⟨k, hopen, hclosed, hend⟩ := exists_places_end hlen x
  obtain ⟨hle, hle'⟩ := places_le t x top k
  have hcode := encode_between hx hlen htop hbottom
  rw [hend] at hcode
  rw [hcode]
  refine ⟨nearer_snd .., fun j => (places t x top j).1, fun j => (places t x top j).2, k, rfl, rfl, fun j hj => ?_, hopen,
    hclosed, nearer_fst hx (isFinite_place_of_le hlen (hle.trans hle')) (isFinite_place_of_le hlen hle')⟩
  obtain ⟨hbelow, hnot⟩ := places_succ hx hlen hj
  exact ⟨fun hp => Prod.ext_iff.mp (hbelow hp), fun hp => Prod.ext_iff.mp (hnot hp)⟩

end Finite

end Encode

end Sys2Proof.Laws
end

section
/-!
PROOFS. Class 7 without TBLLD (R141 to R147): the lanes of each conversion on the vector lemmas above, the decode tables and
the encoding, put together.
-/

namespace Sys2Proof.Laws

open Sys2Proof.Machine

/-! ### Lane widths and the model's names for them -/

theorem cty_width (t : CTy) : CTy.width t = t.bits := by cases t <;> rfl

theorem ity_width (t : ITy) : ITy.width t = t.bits := by cases t <;> rfl

theorem ity_signed (t : ITy) : ITy.signed t = (t == .i16 || t == .i32) := by cases t <;> rfl

theorem cty_bits_cases (t : CTy) : t.bits = 16 ∨ t.bits = 32 := by cases t <;> decide

theorem ity_bits_cases (t : ITy) : t.bits = 16 ∨ t.bits = 32 := by cases t <;> decide

/-! ### How lanes pair up (R141) -/

/-- The destination lane j of a conversion from ws to wd bits, by its source lane; one without a source keeps its value. -/
def convLane (ws wd : Nat) (half : Bool) (f : BitVec ws → Nat × Flags) (d a : VReg) (q : SlotSt) (j : Nat) :
    BitVec wd × Flags :=
  let src (n : Nat) : BitVec wd × Flags :=
    (BitVec.ofNat wd (f (laneOf ws (q.v a.val) n)).1, (f (laneOf ws (q.v a.val) n)).2)
  if ws = wd then src j
  else if ws < wd then src (if half then 8 + j else j)
  else if half then (if 8 ≤ j then src (j - 8) else (laneOf wd (q.v d.val) j, 0))
  else (if j < 8 then src j else (laneOf wd (q.v d.val) j, 0))

/-- The destination lane of source lane n. -/
def convertedLane {ws : Nat} (wd : Nat) (f : BitVec ws → Nat × Flags) (a : VReg) (q : SlotSt) (n : Nat) :
    BitVec wd × Flags :=
  (BitVec.ofNat wd (f (laneOf ws (q.v a.val) n)).1, (f (laneOf ws (q.v a.val) n)).2)

section Pairs

variable {w : Nat} {half : Bool} {d a : VReg} {q : SlotSt}

theorem convPairs_same : convPairs w w half = (List.range (256 / w)).map fun j => (j, j) := by
  rw [convPairs, if_pos rfl, below_eq_range]

theorem convLane_same (f : BitVec w → Nat × Flags) (j : Nat) :
    convLane w w half f d a q j = convertedLane w f a q j := if_pos rfl

theorem convPairs_widening : convPairs 16 32 half = (List.range 8).map fun i => (8 * boolN half + i, i) := by
  rw [convPairs, if_neg (by decide), if_pos (by decide), below_eq_range]

theorem convLane_widening (f : BitVec 16 → Nat × Flags) (j : Nat) :
    convLane 16 32 half f d a q j = convertedLane 32 f a q (8 * boolN half + j) := by
  cases half
  · rw [boolN, if_neg Bool.false_ne_true, Nat.mul_zero, Nat.zero_add]
    rfl
  · rfl

theorem convPairs_narrowing : convPairs 32 16 half = (List.range 8).map fun i => (i, 8 * boolN half + i) := by
  rw [convPairs, if_neg (by decide), if_neg (by decide), below_eq_range]

theorem convLane_narrowing (f : BitVec 32 → Nat × Flags) {i : Nat} (hi : i < 8) :
    convLane 32 16 half f d a q (8 * boolN half + i) = convertedLane 16 f a q i := by
  cases half
  · rw [boolN, if_neg Bool.false_ne_true, Nat.mul_zero, Nat.zero_add]
    exact if_pos hi
  · have hlane : convLane 32 16 true f d a q (8 + i) = convertedLane 16 f a q (8 + i - 8) := if_pos (by omega)
    rwa [Nat.add_sub_cancel_left] at hlane

/-- A lane of the half to which nothing is converted. -/
theorem convLane_narrowing_other (f : BitVec 32 → Nat × Flags) {j : Nat} (hj : j < 16)
    (hother : ¬ (8 * boolN half ≤ j ∧ j < 8 * boolN half + 8)) :
    convLane 32 16 half f d a q j = (laneOf 16 (q.v d.val) j, 0) := by
  cases half
  · have hout : ¬ j < 8 := fun h => hother ⟨Nat.zero_le j, h⟩
    exact if_neg hout
  · have hout : ¬ 8 ≤ j := fun h => hother ⟨h, hj⟩
    exact if_neg hout

end Pairs

/-- A conversion's run of lane writes gives every lane by its source lane. The model's names ws' and wd' of the widths may
differ from the statement's. -/
theorem givesLanes_of_convLanes {s : State} {h : Hdr} {i : Instr} {ws wd ws' wd' : Nat} {half : Bool} {d a : VReg}
    {f : BitVec ws → Nat × Flags} {g : Nat → Nat × Flags}
    (he : exec i s = issueSlot i h s fun q => convLanes q h ws' wd' half d.val a.val g) (hws' : ws' = ws) (hwd' : wd' = wd)
    (hws : ws = 16 ∨ ws = 32) (hwd : wd = 16 ∨ wd = 32) (hg : ∀ b : BitVec ws, g b.toNat = f b) :
    s.GivesLanes h i wd d (convLane ws wd half f d a) := by
  subst hws' hwd'
  have hrun : ∀ sl k, s.Runs h i sl k → exec i s = .next (s.after h ((sl.started h i s.seq).putV d.val
      (writeLanes wd' (sl.mask h) Prod.snd (fun p => f (laneOf ws' (sl.v a.val) p.1)) (convPairs ws' wd' half)
        (sl.v d.val, 0)))) := by
    intro sl k r
    simp only [he, issueSlot_runs r, convLanes_eq, started_mask, started_v, lane_eq_toNat, hg]
  by_cases hsame : ws' = wd'
  · subst hsame
    rw [convPairs_same] at hrun
    refine givesLanes_of_writeLanes hrun ?_ ?_ ?_ ?_
    · rw [List.map_map]
      exact List.nodup_range.map fun _ _ hij => hij
    · simp
    · simp only [List.mem_map, List.mem_range]
      rintro q _ ⟨j, -, rfl⟩
      exact convLane_same f j
    · exact fun q j hj hmem => absurd hj (by simpa using hmem)
  · obtain ⟨rfl, rfl⟩ | ⟨rfl, rfl⟩ : (ws' = 16 ∧ wd' = 32) ∨ (ws' = 32 ∧ wd' = 16) := by omega
    · rw [convPairs_widening] at hrun
      refine givesLanes_of_writeLanes hrun ?_ ?_ ?_ ?_
      · rw [List.map_map]
        exact List.nodup_range.map fun _ _ hij => hij
      · simp
      · simp only [List.mem_map, List.mem_range]
        rintro q _ ⟨j, -, rfl⟩
        exact convLane_widening f j
      · exact fun q j hj hmem => absurd hj (by simpa using hmem)
    · rw [convPairs_narrowing] at hrun
      have hhalf : boolN half ≤ 1 := by cases half <;> decide
      refine givesLanes_of_writeLanes hrun ?_ ?_ ?_ ?_
      · rw [List.map_map]
        exact List.nodup_range.map fun _ _ => Nat.add_left_cancel
      · simp only [List.mem_map, List.mem_range]
        rintro _ ⟨j, hj, rfl⟩
        dsimp only
        omega
      · simp only [List.mem_map, List.mem_range]
        rintro q _ ⟨j, hj, rfl⟩
        exact convLane_narrowing f hj
      · intro q j hj hmem
        refine convLane_narrowing_other f hj fun ⟨hlo, hhi⟩ => hmem ?_
        simp only [List.map_map, List.mem_map, List.mem_range]
        exact ⟨j - 8 * boolN half, by omega, Nat.add_sub_cancel' hlo⟩

/-! ### Conversions between number types (R142 to R144) -/

section Lanes

variable {s : State} {h : Hdr} {d a b : VReg}

/-- The exact integer of a lane, by its type. -/
def intOf (t : ITy) (b : BitVec t.bits) : Int := if (t == .i16 || t == .i32) = true then b.toInt else b.toNat

theorem intOf_eq (t : ITy) (b : BitVec t.bits) :
    (if ITy.signed t then toSigned (ITy.width t) b.toNat else (b.toNat : Int)) = intOf t b := by
  have hpos : 0 < t.bits := by cases t <;> decide
  rw [intOf, ← ity_signed, ity_width, toSigned_toNat hpos]

theorem ity_lo (t : ITy) : ITy.lo t = if (t == .i16 || t == .i32) = true then -(2 ^ (t.bits - 1)) else 0 := by
  rw [ITy.lo, ity_signed, ity_width]

theorem ity_hi (t : ITy) :
    ITy.hi t = if (t == .i16 || t == .i32) = true then 2 ^ (t.bits - 1) - 1 else 2 ^ t.bits - 1 := by
  rw [ITy.hi, ity_signed, ity_width]

theorem cvt_givesLanes (cd cs : CTy) (rm : Rnd) (half : Bool) :
    s.GivesLanes h (.cvt h cd cs rm half d a) cd.bits d (convLane cs.bits cd.bits half (fun b =>
      (((CTy.fmt cd).pack rm (.val ((CTy.fmt cs).decode b.toNat))).1,
        ((CTy.fmt cd).pack rm (.val ((CTy.fmt cs).decode b.toNat))).2 ||| sigFlags [(CTy.fmt cs).decode b.toNat])) d a) :=
  givesLanes_of_convLanes rfl (cty_width cs) (cty_width cd) (cty_bits_cases cs) (cty_bits_cases cd) fun b => by
    exact congrArg (_, · ||| _) (BitVec.or_zero ..)

theorem cvti_givesLanes (ti : ITy) (cs : CTy) (rm : Rnd) (half : Bool) :
    s.GivesLanes h (.cvti h ti cs rm half d a) ti.bits d (convLane cs.bits ti.bits half (fun b =>
      let r := toIntSat rm (ITy.lo ti) (ITy.hi ti) ((CTy.fmt cs).decode b.toNat)
      ((BitVec.ofInt ti.bits r.1).toNat, r.2)) d a) :=
  givesLanes_of_convLanes rfl (cty_width cs) (ity_width ti) (cty_bits_cases cs) (ity_bits_cases ti) fun b => by
    simp only [ity_width, ofInt_eq_toNat]

theorem cvtf_givesLanes (cd : CTy) (ti : ITy) (rm : Rnd) (half : Bool) :
    s.GivesLanes h (.cvtf h cd ti rm half d a) cd.bits d (convLane ti.bits cd.bits half (fun b =>
      (CTy.fmt cd).pack rm (.val (ofIntV (intOf ti b)))) d a) :=
  givesLanes_of_convLanes rfl (ity_width ti) (cty_width cd) (ity_bits_cases ti) (cty_bits_cases cd) fun b => by
    rw [intOf_eq]

/-! ### Decoding and encoding lanes (R145, R146) -/

theorem tableOf_begun (i : Instr) (sl : SlotSt) (tb : Bool) : tableOf (s.begun h i sl) tb = tableOf s tb := by
  rw [tableOf, State.begun, after_core, getCore_after]
  rfl

/-- No flag comes of decoding into E8M12. -/
theorem decLane_eq (t : DecTable) (cd : CTy) (rm : Rnd) (code : Nat) : decLane t cd rm code =
    (((CTy.fmt cd).pack rm (.val (t.value code))).1,
      if cd = .e8m12 then 0 else ((CTy.fmt cd).pack rm (.val (t.value code))).2) := by
  cases cd <;> rfl

theorem encLane_eq (t : DecTable) (x : FVal) : encLane t x = ((t.encode x).1,
    (if x.isSig then flNV else 0) |||
      (if !x.isNan && ((t.value (t.encode x).1).isNan || cmpV x (t.value (t.encode x).1) != 0) then flNX else 0) |||
      (if (t.encode x).2 then flOF else 0)) := by
  have hsig : sigFlags [x] = if x.isSig then flNV else 0 := by simp [sigFlags]
  rw [← hsig, encLane]
  cases x.isNan <;> simp [bne, beq_eq_decide]

theorem exec_dec8 (cd : CTy) (rm : Rnd) (g : BitVec 2) (tb : Bool) : exec (.dec8 h cd rm g d a tb) s =
    issue (.dec8 h cd rm g d a tb) h s fun _ u => .ok (modCur u fun q => bitLanes q h (CTy.width cd) d.val fun j =>
      decLane (tableOf u tb) cd rm (lane (q.v a.val) 8 (256 / CTy.width cd * g.toNat + j))) := rfl

theorem exec_enc8 (cs : CTy) (g : BitVec 2) (tb : Bool) : exec (.enc8 h cs g d a tb) s =
    issue (.enc8 h cs g d a tb) h s fun _ u => .ok (modCur u fun q => bitLanes q h 8 d.val fun k =>
      if 256 / CTy.width cs * g.toNat ≤ k && k < 256 / CTy.width cs * g.toNat + 256 / CTy.width cs then
        encLane (tableOf u tb) ((CTy.fmt cs).decode (lane (q.v a.val) (CTy.width cs) (k - 256 / CTy.width cs * g.toNat)))
      else (lane (q.v d.val) 8 k, 0)) := rfl

theorem dec8_givesLanes (cd : CTy) (rm : Rnd) (g : BitVec 2) (tb : Bool) :
    s.GivesLanes h (.dec8 h cd rm g d a tb) cd.bits d fun q j =>
      let v := (CTy.fmt cd).pack rm (.val ((tableOf s tb).value (laneOf 8 (q.v a.val) (256 / cd.bits * g.toNat + j)).toNat))
      (BitVec.ofNat cd.bits v.1, if cd = .e8m12 then 0 else v.2) :=
  givesLanes_of_issue (exec_dec8 cd rm g tb) (cty_width cd) fun q j _ => by
    simp only [tableOf_begun, started_v, cty_width, decLane_eq, lane_eq_toNat]

theorem enc8_givesLanes (cs : CTy) (g : BitVec 2) (tb : Bool) :
    s.GivesLanes h (.enc8 h cs g d a tb) 8 d fun q k =>
      let n := 256 / cs.bits
      let x := (CTy.fmt cs).decode (laneOf cs.bits (q.v a.val) (k - n * g.toNat)).toNat
      if n * g.toNat ≤ k ∧ k < n * g.toNat + n then
        (BitVec.ofNat 8 (encLane (tableOf s tb) x).1, (encLane (tableOf s tb) x).2)
      else (laneOf 8 (q.v d.val) k, 0) :=
  givesLanes_of_issue (exec_enc8 cs g tb) rfl fun q k _ => by
    simp only [tableOf_begun, started_v, cty_width, lane_eq_toNat, Bool.and_eq_true, decide_eq_true_eq]
    split
    next => rfl
    next => rw [BitVec.ofNat_toNat, BitVec.setWidth_eq]

/-! ### Packing and unpacking (R147) -/

theorem ofNat_div_eq_extractLsb' {n : Nat} (x : BitVec n) (m k : Nat) :
    BitVec.ofNat k (x.toNat / 2 ^ m) = x.extractLsb' m k := by
  rw [← Nat.shiftRight_eq_div_pow]
  rfl

theorem ofNat_mod_eq_extractLsb' {n : Nat} (x : BitVec n) (k : Nat) :
    BitVec.ofNat k (x.toNat % 2 ^ k) = x.extractLsb' 0 k := by
  rw [← ofNat_div_eq_extractLsb', pow_zero, Nat.div_one]
  exact BitVec.eq_of_toNat_eq (by simp)

theorem permLane_eq_toNat (w : Nat) (v u : Vec) (j : Nat) :
    permLane w v u j = (if j < 256 / w then laneOf w v j else laneOf w u (j - 256 / w)).toNat := by
  rw [permLane, lane_eq_toNat, lane_eq_toNat, apply_ite BitVec.toNat]

theorem pack_givesLanes (byte hi : Bool) :
    s.GivesLanes h (.pack h byte hi d a b) (wideOf byte / 2) d fun q j =>
      let e := wideOf byte
      let wide : BitVec e := if j < 256 / e then laneOf e (q.v a.val) j else laneOf e (q.v b.val) (j - 256 / e)
      (wide.extractLsb' (if hi then e / 2 else 0) (e / 2), 0) := by
  refine givesLanes_of_issueSlot rfl rfl fun q j _ => ?_
  simp only [started_v, permLane_eq_toNat]
  cases hi
  · exact congrArg (·, 0) (ofNat_mod_eq_extractLsb' _ _).symm
  · exact congrArg (·, 0) (ofNat_div_eq_extractLsb' _ _ _).symm

theorem unpack_givesLanes (byte hi sx half : Bool) :
    s.GivesLanes h (.unpack h byte hi sx half d a) (wideOf byte) d fun q m =>
      let e := wideOf byte
      let v : BitVec (e / 2) := laneOf (e / 2) (q.v a.val) ((if half then 256 / e else 0) + m)
      (if hi then v.setWidth e <<< (e / 2) else if sx then v.signExtend e else v.setWidth e, 0) := by
  refine givesLanes_of_issueSlot rfl rfl fun q m _ => ?_
  have hplace : 256 / wideOf byte * boolN half = if half then 256 / wideOf byte else 0 := by
    cases half <;> simp [boolN]
  have hpos : 0 < wideOf byte / 2 := by cases byte <;> decide
  simp only [started_v, hplace, lane_eq_toNat, toSigned_toNat hpos]
  generalize laneOf (wideOf byte / 2) (q.v a.val) ((if half then 256 / wideOf byte else 0) + m) = v
  refine congrArg (·, 0) ?_
  split
  next =>
    rw [← ofNat_mul_two_pow, BitVec.toNat_setWidth_of_le (Nat.div_le_self _ _)]
  next =>
    split
    next =>
      rw [ofNat_ofInt]
      rfl
    next => exact (BitVec.ofNat_toNat _ _).symm

end Lanes

/-- Settles O16. The first part holds lane by lane, the second entry by entry and, for the encoding, by the cases of R119. -/
theorem conversions : Obligations.Conversions := by
  refine ⟨?lanes, ?tables⟩
  case lanes =>
    intro s h cd cs ti rm half tb byte hi sx g d a b signed conv val int lo top table e
    refine ⟨fun _ => cvt_givesLanes cd cs rm half, fun _ => ?cvti, fun _ => cvtf_givesLanes cd ti rm half,
      fun _ => dec8_givesLanes cd rm g tb, fun _ => ?enc8, pack_givesLanes byte hi, unpack_givesLanes byte hi sx half⟩
    case cvti =>
      have hrun := cvti_givesLanes (s := s) (h := h) (d := d) (a := a) ti cs rm half
      rw [ity_lo, ity_hi] at hrun
      exact hrun
    case enc8 =>
      have hrun := enc8_givesLanes (s := s) (h := h) (d := d) (a := a) cs g tb
      simp only [encLane_eq] at hrun
      exact hrun
  case tables =>
    intro t ws c x real signMag word sg ex frac
    refine ⟨value_img_finite, fun hk => ?kindNan, fun hk => value_of_kind_two (kind_img (by decide) hk),
      fun hk => value_of_kind_three (kind_img (by decide) hk), value_q43, value_q43_nan, value_q52, value_q52_special,
      by decide, by decide, by decide, order_q43, order_q52, order_img ws, ?encoding⟩
    case kindNan =>
      rw [value_of_kind_one (kind_img (by decide) hk)]
      rfl
    case encoding =>
      intro below L v lowest
      have hL : L = finiteCodes t := by
        refine List.filter_congr fun c _ => ?_
        cases t.value c <;> rfl
      have hv (i : Nat) : v i = (place t i).2 := by
        simp only [v, hL]
        rfl
      refine ⟨?ofNan, ?ofInf, ?noCodes, ?codes⟩
      case ofNan =>
        rintro sg rfl
        exact encode_nan sg
      case ofInf =>
        rintro n rfl
        rw [hL]
        exact encode_inf n
      case noCodes =>
        rintro n m e rfl hnil
        exact encode_of_no_finiteCodes rfl (hL ▸ hnil)
      case codes =>
        rintro n m e top rfl hlen
        have hx : isFinite (.fin n m e) = true := rfl
        rw [hL] at hlen ⊢
        simp only [hv]
        exact ⟨encode_at_top hx hlen, encode_at_bottom hx hlen, encode_bisects hx hlen⟩

end Sys2Proof.Laws
end

section
/-!
PROOFS. Predicate results bit by bit (R131, R137): what a write of one bit leaves of every bit, what a run of such
writes under a guard gives, and how an instruction whose effect is such a run meets `State.GivesBits`.
-/

namespace Sys2Proof.Laws

open Sys2Proof.Machine

/-! ### One bit -/

/-- A predicate in which bit i has become b, as the model writes it. -/
def putBit (p : Pred) (i : Nat) (b : Bool) : Pred := p &&& ~~~ ((1 : Pred) <<< i) ||| BitVec.ofNat 8 (boolN b * 2 ^ i)

theorem testBit_boolN (b : Bool) (k : Nat) : (boolN b).testBit k = (decide (k = 0) && b) := by
  have hnat : boolN b = b.toNat := by cases b <;> rfl
  rw [hnat, Nat.testBit_bool_toNat]

theorem getLsbD_putBit (p : Pred) (i : Nat) (b : Bool) {j : Nat} (hj : j < 8) :
    (putBit p i b).getLsbD j = if j = i then b else p.getLsbD j := by
  simp only [putBit, BitVec.getLsbD_or, BitVec.getLsbD_and, BitVec.getLsbD_not, BitVec.getLsbD_shiftLeft,
    BitVec.getLsbD_ofNat, Nat.testBit_mul_two_pow, testBit_boolN, hj]
  by_cases hji : j = i
  · simp [hji]
  · by_cases hlt : j < i
    · simp [hji, hlt, hlt.not_ge]
    · have hpos : j - i ≠ 0 := by omega
      simp [hji, hlt, hpos, BitVec.getLsbD_one]

/-! ### A run of bits under a guard -/

/-- The bits of l written in turn where the guard turns them on, with their flags. The model's `predLanes` is such a run
(`predLanes_eq`). -/
def writeBits (g : Pred) (val : Nat → Bool × Flags) (l : List Nat) (st : Pred × Flags) : Pred × Flags :=
  l.foldl (fun st i => if g.getLsbD i then (putBit st.1 i (val i).1, st.2 ||| (val i).2) else st) st

theorem predLanes_eq (w : Nat) (odd : Bool) (g old : Pred) (f : Nat → Bool × Flags) : predLanes w odd g old f =
    writeBits g (fun i => f (if w = 16 then 2 * i + boolN odd else i)) (below 8) (old, 0) := rfl

section Run

variable {g : Pred} {val : Nat → Bool × Flags}

theorem writeBits_cons (i : Nat) (l : List Nat) (st : Pred × Flags) : writeBits g val (i :: l) st =
    writeBits g val l (if g.getLsbD i then (putBit st.1 i (val i).1, st.2 ||| (val i).2) else st) := rfl

theorem getLsbD_writeBits {j : Nat} (hj : j < 8) (l : List Nat) (st : Pred × Flags) :
    (writeBits g val l st).1.getLsbD j = if j ∈ l ∧ g.getLsbD j then (val j).1 else st.1.getLsbD j := by
  induction l generalizing st with
  | nil => simp [writeBits]
  | cons i l ih =>
    rw [writeBits_cons, ih]
    by_cases hon : g.getLsbD i = true
    · rw [if_pos hon, getLsbD_putBit _ _ _ hj]
      by_cases hji : j = i
      · simp [hji, hon]
      · simp [hji]
    · have hoff (hg : g.getLsbD j = true) : j ≠ i := fun hji => hon (hji ▸ hg)
      rw [if_neg hon]
      by_cases hg : g.getLsbD j = true
      · simp [hoff hg]
      · simp [hg]

/-- The flags of a run are those of the bits that are on. -/
theorem getLsbD_writeBits_flags (l : List Nat) (st : Pred × Flags) (b : Nat) :
    (writeBits g val l st).2.getLsbD b = true ↔
      st.2.getLsbD b = true ∨ ∃ i ∈ l, g.getLsbD i = true ∧ (val i).2.getLsbD b = true := by
  induction l generalizing st with
  | nil => simp [writeBits]
  | cons i l ih =>
    rw [writeBits_cons, ih]
    by_cases hon : g.getLsbD i = true <;> simp [hon, or_assoc]

theorem writeBits_no_flags (hval : ∀ i, (val i).2 = 0) (l : List Nat) (p : Pred) :
    (writeBits g val l (p, 0)).2 = 0 := by
  apply BitVec.eq_of_getLsbD_eq
  intro b _
  rw [Bool.eq_iff_iff, getLsbD_writeBits_flags]
  simp [hval]

end Run

/-! ### Instructions that write a predicate bit by bit -/

@[simp] theorem orFlags_zero (q : SlotSt) : q.orFlags 0 = q := by
  have hor : q.fpstat ||| 0 = q.fpstat := BitVec.or_zero
  rw [SlotSt.orFlags, hor]

/-- The lane that bit j of a predicate is made from: lane j, or lane 2j or 2j + 1 of 16 bits (R131). -/
theorem predLane_eq (w : Nat) (odd : Bool) (j : Nat) : (if w = 16 then 2 * j + boolN odd else j) =
    if w = 16 then 2 * j + (if odd then 1 else 0) else j := rfl

section Gives

variable {s : State} {h : Hdr} {i : Instr} {w w' : Nat} {odd : Bool} {d : PReg} {f : SlotSt → Nat → Bool × Flags}

/-- An instruction whose effect is a run of bit writes gives f, where g has f's values on the lanes. The model's name
w' of the lane width may differ from the statement's. -/
theorem givesBits_of_predLanes {g : SlotSt → Nat → Bool × Flags}
    (he : exec i s = issueSlot i h s fun q => (q.setPr d.val (predLanes w' odd (q.mask h) (q.p d.val) (g q)).1).orFlags
      (predLanes w' odd (q.mask h) (q.p d.val) (g q)).2)
    (hw : w' = w) (hg : ∀ q j, f q j = g (q.started h i s.seq) (if w = 16 then 2 * j + (if odd then 1 else 0) else j)) :
    s.GivesBits h i d f := by
  subst hw
  intro sl k r
  have hrun := he
  rw [issueSlot_runs r] at hrun
  simp only [started_mask, started_p, predLanes_eq, predLane_eq, ← hg] at hrun
  refine ⟨_, _, hrun, fun j hj => ?_, fun b => ?_⟩
  · rw [getLsbD_writeBits hj]
    simp [hj]
  · simp [getLsbD_writeBits_flags]

/-- The same where no lane has a flag. -/
theorem givesBits_of_predLanes_no_flags {g : SlotSt → Nat → Bool × Flags}
    (he : exec i s = issueSlot i h s fun q => q.setPr d.val (predLanes w' odd (q.mask h) (q.p d.val) (g q)).1)
    (hw : w' = w) (hflags : ∀ q j, (g q j).2 = 0)
    (hg : ∀ q j, f q j = g (q.started h i s.seq) (if w = 16 then 2 * j + (if odd then 1 else 0) else j)) :
    s.GivesBits h i d f := by
  refine givesBits_of_predLanes (w' := w') (odd := odd) (g := g) ?_ hw hg
  simp only [he, predLanes_eq, writeBits_no_flags fun _ => hflags _ _, orFlags_zero]

end Gives

end Sys2Proof.Laws
end

section
/-!
PROOFS. Class 5, element by element (R128 to R132): the lanes of each function on the vector lemmas above, for the
model's functions on exact values, and what those that work on the bits of a lane make of it.
-/

namespace Sys2Proof.Laws

open Sys2Proof.Machine

theorem fty_width (t : FTy) : FTy.width t = t.bits := by cases t <;> rfl

theorem fval_eq (t : FTy) (v : Vec) (j : Nat) : fval t v j = (FTy.fmt t).decode (laneOf t.bits v j).toNat := by
  rw [fval, fty_width, lane_eq_toNat]

/-! ### Lanes that are rounded once (R128, R130) -/

/-- A result rounded into a lane, with the flags of its operands. -/
def roundedLane (t : FTy) (rm : Rnd) (ops : List FVal) (r : Res × Flags) : BitVec t.bits × Flags :=
  (BitVec.ofNat t.bits ((FTy.fmt t).pack rm r.1).1, ((FTy.fmt t).pack rm r.1).2 ||| r.2 ||| sigFlags ops)

section Rounded

variable {s : State} {h : Hdr} {i : Instr} {t : FTy} {rm : Rnd} {d a b c : VReg}

theorem givesLanes_of_fLanes1 {f : FVal → Res × Flags}
    (he : exec i s = issueSlot i h s fun q => fLanes1 q h t rm d.val a.val f) :
    s.GivesLanes h i t.bits d fun q j =>
      let x := (FTy.fmt t).decode (laneOf t.bits (q.v a.val) j).toNat
      roundedLane t rm [x] (f x) :=
  givesLanes_of_issueSlot he (fty_width t) fun q j _ => by
    simp only [started_v, fval_eq]
    rfl

theorem givesLanes_of_fLanes2 {f : FVal → FVal → Res × Flags}
    (he : exec i s = issueSlot i h s fun q => fLanes2 q h t rm d.val a.val b.val f) :
    s.GivesLanes h i t.bits d fun q j =>
      let x := (FTy.fmt t).decode (laneOf t.bits (q.v a.val) j).toNat
      let y := (FTy.fmt t).decode (laneOf t.bits (q.v b.val) j).toNat
      roundedLane t rm [x, y] (f x y) :=
  givesLanes_of_issueSlot he (fty_width t) fun q j _ => by
    simp only [started_v, fval_eq]
    rfl

theorem givesLanes_of_fLanes3 {f : FVal → FVal → FVal → FVal × Flags}
    (he : exec i s = issueSlot i h s fun q => fLanes3 q h t rm d.val a.val b.val c.val f) :
    s.GivesLanes h i t.bits d fun q j =>
      let x := (FTy.fmt t).decode (laneOf t.bits (q.v a.val) j).toNat
      let y := (FTy.fmt t).decode (laneOf t.bits (q.v b.val) j).toNat
      let z := (FTy.fmt t).decode (laneOf t.bits (q.v c.val) j).toNat
      roundedLane t rm [x, y, z] (.val (f x y z).1, (f x y z).2) :=
  givesLanes_of_issueSlot he (fty_width t) fun q j _ => by
    simp only [started_v, fval_eq]
    rfl

/-- The scale is a lane read as a signed integer. -/
theorem fscale_givesLanes : s.GivesLanes h (.fscale h t rm d a b) t.bits d fun q j =>
    let x := (FTy.fmt t).decode (laneOf t.bits (q.v a.val) j).toNat
    roundedLane t rm [x] (.val (scaleV x (laneOf t.bits (q.v b.val) j).toInt), 0) :=
  givesLanes_of_issueSlot rfl (fty_width t) fun q j _ => by
    have hpos : 0 < t.bits := by cases t <;> decide
    simp only [started_v, fval_eq, fty_width, lane_eq_toNat, toSigned_toNat hpos]
    rfl

end Rounded

/-! ### Comparison (R131) -/

/-- What FCMP answers for two lanes, and its flags: a quiet NaN is invalid to the ordered conditions alone. -/
def comparedLane (cc : FCc) (x y : FVal) : Bool × Flags :=
  let un := x.isNan || y.isNan
  let invalid (ordered : Bool) : Flags := if x.isSig || y.isSig || (ordered && un) then flNV else 0
  match cc with
  | .eq => (!un && cmpV x y = 0, invalid false)
  | .ne => (un || cmpV x y ≠ 0, invalid false)
  | .lt => (!un && cmpV x y < 0, invalid true)
  | .le => (!un && cmpV x y ≤ 0, invalid true)
  | .gt => (!un && 0 < cmpV x y, invalid true)
  | .ge => (!un && 0 ≤ cmpV x y, invalid true)
  | .ord => (!un, invalid false)
  | .uno => (un, invalid false)

theorem sigFlags_pair (x y : FVal) : sigFlags [x, y] = if x.isSig || y.isSig then flNV else 0 := by
  simp [sigFlags]

theorem nv_or_nv (p q : Bool) : (if p then flNV else 0) ||| (if q then flNV else 0) = if p || q then flNV else 0 := by
  cases p <;> cases q <;> decide

theorem fcmpV_eq (cc : FCc) (x y : FVal) : fcmpV cc x y = comparedLane cc x y := by
  cases cc <;>
  simp only [fcmpV, comparedLane, sigFlags_pair, nv_or_nv, Bool.false_and, Bool.true_and,
    Bool.or_false, gt_iff_lt, ge_iff_le]

theorem fcmp_givesBits {s : State} {h : Hdr} (cc : FCc) (t : FTy) (odd : Bool) (p : PReg) (a b : VReg) :
    s.GivesBits h (.fcmp h cc t odd p a b) p fun q j =>
      let k := if t.bits = 16 then 2 * j + (if odd then 1 else 0) else j
      comparedLane cc ((FTy.fmt t).decode (laneOf t.bits (q.v a.val) k).toNat)
        ((FTy.fmt t).decode (laneOf t.bits (q.v b.val) k).toNat) := by
  refine givesBits_of_predLanes rfl (fty_width t) fun q j => ?_
  simp only [started_v, fval_eq, fcmpV_eq]

/-! ### Lanes worked out on their bits (R128, R129, R132) -/

theorem and_not_top {n : Nat} (x : BitVec n) :
    BitVec.ofNat n (x.toNat % 2 ^ (n - 1)) = x &&& ~~~ BitVec.ofNat n (2 ^ (n - 1)) := by
  apply BitVec.eq_of_getLsbD_eq
  intro i hi
  simp only [BitVec.getLsbD_ofNat, BitVec.getLsbD_and, BitVec.getLsbD_not, Nat.testBit_mod_two_pow, Nat.testBit_two_pow,
    hi, BitVec.testBit_toNat, decide_true, Bool.true_and]
  by_cases htop : n - 1 = i
  · simp [htop]
  · have hlt : i < n - 1 := by omega
    simp [htop, hlt]

theorem ofNat_xor_top {n : Nat} (x : BitVec n) :
    BitVec.ofNat n (x.toNat ^^^ 2 ^ (n - 1)) = x ^^^ BitVec.ofNat n (2 ^ (n - 1)) := by
  rw [BitVec.ofNat_xor, BitVec.ofNat_toNat, BitVec.setWidth_eq]

/-- The place of the bit that FCLASS sets. -/
def classOf (t : FTy) (v : FVal) : Nat := match v with
  | .inf true => 0
  | .fin true m _ => if m = 0 then 3 else if m < 2 ^ (FTy.fmt t).fb then 2 else 1
  | .fin false m _ => if m = 0 then 4 else if m < 2 ^ (FTy.fmt t).fb then 5 else 6
  | .inf false => 7
  | .nan true => 8
  | .nan false => 9

theorem classBits_eq (t : FTy) (x : Nat) : classBits (FTy.fmt t) x = 2 ^ classOf t ((FTy.fmt t).decode x) := by
  unfold classBits classOf
  split
  next n hv => cases n <;> simp [hv]
  next sg hv => cases sg <;> simp [hv]
  next n m e hv =>
    cases n <;>
    (simp only [hv, reduceIte, Bool.false_eq_true]; split_ifs <;> rfl)

theorem ofNat_two_pow (n k : Nat) : BitVec.ofNat n (2 ^ k) = 1#n <<< k := by
  rw [← BitVec.twoPow_eq]
  apply BitVec.eq_of_toNat_eq
  rw [BitVec.toNat_ofNat, BitVec.toNat_twoPow]

/-- The lane that FMIN or FMAX gives. -/
def pickedLane (t : FTy) (mx : Bool) (x y : BitVec t.bits) : BitVec t.bits :=
  let val (x : BitVec t.bits) : FVal := (FTy.fmt t).decode x.toNat
  if (val x).isNan && (val y).isNan then BitVec.ofNat t.bits (FTy.fmt t).qnan
  else if (val x).isNan then y
  else if (val y).isNan then x
  else if mx then (if ltV (val y) (val x) then x else y) else (if ltV (val y) (val x) then y else x)

theorem minmaxBits_snd (f : Fmt) (mx : Bool) (x y : Nat) :
    (minmaxBits f mx x y).2 = sigFlags [f.decode x, f.decode y] := by
  rw [minmaxBits]
  split_ifs <;> rfl

/-- Of two ordered lanes, FMAX gives the greater and FMIN the lesser; `lt` says that the second is the lesser. -/
theorem picked_of_ordered {α : Type} (mx lt : Bool) (x y : α) :
    (if lt != mx then y else x) = if mx then (if lt then x else y) else (if lt then y else x) := by
  cases mx <;> cases lt <;> rfl

theorem minmaxBits_fst (t : FTy) (mx : Bool) (x y : BitVec t.bits) :
    BitVec.ofNat t.bits (minmaxBits (FTy.fmt t) mx x.toNat y.toNat).1 = pickedLane t mx x y := by
  have hself (z : BitVec t.bits) : BitVec.ofNat t.bits z.toNat = z := by rw [BitVec.ofNat_toNat, BitVec.setWidth_eq]
  simp only [minmaxBits, pickedLane]
  cases ((FTy.fmt t).decode x.toNat).isNan with
  | true => cases ((FTy.fmt t).decode y.toNat).isNan <;> simp [hself]
  | false =>
    cases ((FTy.fmt t).decode y.toNat).isNan with
    | true => simp [hself]
    | false =>
      rw [← picked_of_ordered]
      simp only [Bool.false_eq_true, reduceIte, Bool.and_self, apply_ite (BitVec.ofNat t.bits), hself]

section Bits

variable {s : State} {h : Hdr} {t : FTy} {d a b : VReg}

theorem fabs_givesLanes : s.GivesLanes h (.fabs h t d a) t.bits d fun q j =>
    (laneOf t.bits (q.v a.val) j &&& ~~~ BitVec.ofNat t.bits (2 ^ (t.bits - 1)), 0) :=
  givesLanes_of_issueSlot rfl (fty_width t) fun q j _ => by
    simp only [started_v, fty_width, lane_eq_toNat, and_not_top]

theorem fneg_givesLanes : s.GivesLanes h (.fneg h t d a) t.bits d fun q j =>
    (laneOf t.bits (q.v a.val) j ^^^ BitVec.ofNat t.bits (2 ^ (t.bits - 1)), 0) :=
  givesLanes_of_issueSlot rfl (fty_width t) fun q j _ => by
    simp only [started_v, fty_width, lane_eq_toNat, ofNat_xor_top]

theorem fclass_givesLanes : s.GivesLanes h (.fclass h t d a) t.bits d fun q j =>
    (1#t.bits <<< classOf t ((FTy.fmt t).decode (laneOf t.bits (q.v a.val) j).toNat), 0) :=
  givesLanes_of_issueSlot rfl (fty_width t) fun q j _ => by
    simp only [started_v, fty_width, lane_eq_toNat, classBits_eq, ofNat_two_pow]

/-- FMIN and FMAX, which are lanes of the model's `minmaxBits`. -/
theorem givesLanes_of_minmaxBits {i : Instr} {mx : Bool}
    (he : exec i s = issueSlot i h s fun q => bitLanes q h (FTy.width t) d.val fun j =>
      minmaxBits (FTy.fmt t) mx (lane (q.v a.val) (FTy.width t) j) (lane (q.v b.val) (FTy.width t) j)) :
    s.GivesLanes h i t.bits d fun q j =>
      let x := laneOf t.bits (q.v a.val) j
      let y := laneOf t.bits (q.v b.val) j
      (pickedLane t mx x y,
        if ((FTy.fmt t).decode x.toNat).isSig || ((FTy.fmt t).decode y.toNat).isSig then flNV else 0) :=
  givesLanes_of_issueSlot he (fty_width t) fun q j _ => by
    simp only [started_v, fty_width, lane_eq_toNat, minmaxBits_fst, minmaxBits_snd, sigFlags_pair]

end Bits

/-- Settles O12: the rounded functions by their number of operands, FSCALE and FCMP; then those on a lane's bits. -/
theorem floatLanes : Obligations.FloatLanes := by
  refine ⟨?rounded, ?onBits⟩
  case rounded =>
    intro s h t rm d a b c p cc odd val out one two three exactly
    exact ⟨
      givesLanes_of_fLanes2 (f := fun x y => exactly (addV rm x y)) rfl,
      givesLanes_of_fLanes2 (f := fun x y => exactly (addV rm x y.negate)) rfl,
      givesLanes_of_fLanes2 (f := fun x y => exactly (mulV x y)) rfl,
      givesLanes_of_fLanes2 (f := divV) rfl,
      givesLanes_of_fLanes3 (f := fun x y z => fmaV rm x y z) rfl,
      givesLanes_of_fLanes3 (f := fun x y z => fmaV rm x y z.negate) rfl,
      givesLanes_of_fLanes3 (f := fun x y z => fmaV rm x.negate y z) rfl,
      givesLanes_of_fLanes1 (f := sqrtV) rfl,
      givesLanes_of_fLanes1 (f := rcpV) rfl,
      givesLanes_of_fLanes1 (f := rsqV) rfl,
      givesLanes_of_fLanes1 (f := exp2V) rfl,
      givesLanes_of_fLanes1 (f := log2V) rfl,
      fscale_givesLanes,
      fcmp_givesBits cc t odd p a b⟩
  case onBits =>
    intro s h t d a b val top nv pick cls
    exact ⟨fabs_givesLanes, fneg_givesLanes, fclass_givesLanes, givesLanes_of_minmaxBits rfl,
      givesLanes_of_minmaxBits rfl⟩

end Sys2Proof.Laws
end

section
/-!
PROOFS. The reductions (R121, R133). The model keeps the bits of a level of the tree and the flags of the whole apart;
the statement pairs each value with the flags of the operations below it. `treeOf` is the tree on such pairs, `withFlags`
the operation on them, and `tree_eq` and `dotVal_eq` join the two.
-/

namespace Sys2Proof.Laws

open Sys2Proof.Machine

theorem flags_or_zero (fl : Flags) : fl ||| 0 = fl := BitVec.or_zero

theorem flags_zero_or (fl : Flags) : 0 ||| fl = fl := BitVec.zero_or

/-! ### The tree on values with their flags -/

/-- An operation with flags, on values that carry the flags of the operations below them. -/
def withFlags {α β : Type} (f : α → α → β × Flags) (x y : α × Flags) : β × Flags :=
  ((f x.1 y.1).1, x.2 ||| y.2 ||| (f x.1 y.1).2)

/-- The union of the flags of a level. -/
def flagsOf {α : Type} (l : List (α × Flags)) : Flags := l.foldr (fun p fl => p.2 ||| fl) 0

theorem foldl_flags {α : Type} (l : List (α × Flags)) (fl : Flags) :
    l.foldl (fun fl p => fl ||| p.2) fl = fl ||| flagsOf l := by
  induction l generalizing fl with
  | nil => exact (flags_or_zero fl).symm
  | cons p l ih => exact (ih _).trans (BitVec.or_assoc ..)

/-- Neighbours combined. -/
def pairs {α β : Type} (op : α → α → β) : List α → List β
  | x :: y :: l => op x y :: pairs op l
  | _ => []

/-- The tree of n levels over 2^n values. -/
def treeOf (op : Nat × Flags → Nat × Flags → Nat × Flags) : Nat → List (Nat × Flags) → Nat × Flags
  | 0, l => l.getD 0 (0, 0)
  | n + 1, l => treeOf op n (pairs op l)

theorem exists_of_length_two_mul_succ {α : Type} {n : Nat} {l : List α} (hl : l.length = 2 * (n + 1)) :
    ∃ x y r, l = x :: y :: r ∧ r.length = 2 * n := by
  match l, hl with
  | x :: y :: r, hl => exact ⟨x, y, r, rfl, by simpa [Nat.mul_succ] using hl⟩

theorem length_pairs {α β : Type} (op : α → α → β) {n : Nat} {l : List α} (hl : l.length = 2 * n) :
    (pairs op l).length = n := by
  induction n generalizing l with
  | zero => rw [List.length_eq_zero_iff.mp hl]; rfl
  | succ n ih =>
    obtain ⟨x, y, r, rfl, hr⟩ := exists_of_length_two_mul_succ hl
    rw [pairs, List.length_cons, ih hr]

/-- A level of the model, which lists the values and joins the flags that it adds, is the level on values with their
flags. -/
theorem level_eq {α : Type} {f : α → α → Nat × Flags} {level : List α → List Nat × Flags} (hnil : level [] = ([], 0))
    (hcons : ∀ x y r, level (x :: y :: r) = ((f x y).1 :: (level r).1, (f x y).2 ||| (level r).2)) {n : Nat}
    {l : List (α × Flags)} (hl : l.length = 2 * n) :
    (level (l.map Prod.fst)).1 = (pairs (withFlags f) l).map Prod.fst ∧
    flagsOf l ||| (level (l.map Prod.fst)).2 = flagsOf (pairs (withFlags f) l) := by
  induction n generalizing l with
  | zero =>
    obtain rfl := List.length_eq_zero_iff.mp hl
    exact ⟨congrArg Prod.fst hnil, (flags_zero_or _).trans (congrArg Prod.snd hnil)⟩
  | succ n ih =>
    obtain ⟨x, y, r, rfl, hr⟩ := exists_of_length_two_mul_succ hl
    obtain ⟨hvals, hflags⟩ := ih hr
    rw [List.map_cons, List.map_cons, hcons, hvals]
    refine ⟨rfl, ?_⟩
    change x.2 ||| (y.2 ||| flagsOf r) ||| ((f x.1 y.1).2 ||| (level (r.map Prod.fst)).2) =
      x.2 ||| y.2 ||| (f x.1 y.1).2 ||| flagsOf (pairs (withFlags f) r)
    rw [← hflags]
    ac_rfl

/-- The model's tree over the values, with the flags of the leaves, is the tree on values with their flags. -/
theorem treeOf_withFlags (f : Nat → Nat → Nat × Flags) {n : Nat} {l : List (Nat × Flags)} (hl : l.length = 2 ^ n) :
    treeOf (withFlags f) n l = ((tree f n (l.map Prod.fst)).1, flagsOf l ||| (tree f n (l.map Prod.fst)).2) := by
  induction n generalizing l with
  | zero =>
    obtain ⟨x, rfl⟩ := List.length_eq_one_iff.mp hl
    exact Prod.ext rfl ((flags_or_zero _).trans (flags_or_zero _)).symm
  | succ n ih =>
    have hl' : l.length = 2 * 2 ^ n := by rw [hl, pow_succ']
    obtain ⟨hvals, hflags⟩ := level_eq (level := pairUp f) rfl (fun _ _ _ => rfl) hl'
    rw [treeOf, ih (length_pairs _ hl'), ← hflags, ← hvals, BitVec.or_assoc]
    rfl

/-- The same over leaves that have no flags, as the lanes of a register. -/
theorem tree_eq (f : Nat → Nat → Nat × Flags) (n : Nat) (v : Nat → Nat) :
    tree f n ((List.range (2 ^ n)).map v) = treeOf (withFlags f) n ((List.range (2 ^ n)).map fun j => (v j, 0)) := by
  have hflags (l : List Nat) : flagsOf (l.map fun j => (v j, (0 : Flags))) = 0 := by
    induction l with
    | nil => rfl
    | cons j l ih => exact (flags_zero_or _).trans ih
  rw [treeOf_withFlags f (by simp), hflags, List.map_map, flags_zero_or]
  rfl

/-! ### The operations of the trees (R133) -/

/-- A rounded addition of the tree, with the flags below it. -/
theorem withFlags_addBits (f : Fmt) (rm : Rnd) (x y : Nat × Flags) : withFlags (addBits f rm) x y =
    let r := addV rm (f.decode x.1) (f.decode y.1)
    ((f.pack rm (.val r.1)).1,
      x.2 ||| y.2 ||| (f.pack rm (.val r.1)).2 ||| r.2 ||| sigFlags [f.decode x.1, f.decode y.1]) := by
  simp only [withFlags, addBits, fRes, exactly, BitVec.or_assoc]

/-- The sum of two exact products, rounded to f32: the first level of FDOT. -/
def dotSum (rm : Rnd) (x y : FVal) : Nat × Flags := fRes fmtF32 rm [] (exactly (addV rm x y))

theorem withFlags_dotSum (rm : Rnd) (x y : FVal × Flags) : withFlags (dotSum rm) x y =
    let r := addV rm x.1 y.1
    ((fmtF32.pack rm (.val r.1)).1, x.2 ||| y.2 ||| (fmtF32.pack rm (.val r.1)).2 ||| r.2) := by
  have hno : sigFlags [] = 0 := rfl
  simp only [withFlags, dotSum, fRes, exactly, hno, flags_or_zero, BitVec.or_assoc]

/-! ### The leaves -/

theorem levelsOf_fty (t : FTy) : 256 / t.bits = 2 ^ levelsOf t.bits := by cases t <;> rfl

theorem redLanes_eq (t : FTy) (g : Pred) (v : Vec) (o : Nat) : redLanes (FTy.width t) g v o =
    (List.range (2 ^ levelsOf t.bits)).map fun j =>
      if g.getLsbD (t.bits * j / 32) then (laneOf t.bits v j).toNat else o := by
  simp only [redLanes, laneOn, below_eq_range, fty_width, levelsOf_fty, lane_eq_toNat]

/-- A product of FDOT with its flags; a lane that is off enters as the identity of a sum. -/
def dotProduct (t : FTy) (rm : Rnd) (g : Pred) (a b : Vec) (j : Nat) : FVal × Flags :=
  let x := (FTy.fmt t).decode (laneOf t.bits a j).toNat
  let y := (FTy.fmt t).decode (laneOf t.bits b j).toNat
  (if g.getLsbD (t.bits * j / 32) then (mulV x y).1 else .fin (rm != .rdn) 0 0,
    if g.getLsbD (t.bits * j / 32) then (mulV x y).2 ||| sigFlags [x, y] else 0)

theorem dotProducts_eq (t : FTy) (rm : Rnd) (g : Pred) (a b : Vec) :
    let ps := (List.range (2 ^ levelsOf t.bits)).map (dotProduct t rm g a b)
    dotProducts t rm g a b = (ps.map Prod.fst, flagsOf ps) := by
  have hsum : sumIdentity rm = .fin (rm != .rdn) 0 0 := by cases rm <;> rfl
  have hps : ((below (256 / FTy.width t)).map fun j =>
      if laneOn g (FTy.width t) j then
        ((mulV (fval t a j) (fval t b j)).1, (mulV (fval t a j) (fval t b j)).2 ||| sigFlags [fval t a j, fval t b j])
      else (sumIdentity rm, 0)) = (List.range (2 ^ levelsOf t.bits)).map (dotProduct t rm g a b) := by
    rw [below_eq_range, fty_width, levelsOf_fty]
    refine List.map_congr_left fun j _ => ?_
    simp only [laneOn, fval_eq, hsum, dotProduct]
    split <;> rfl
  simp only [dotProducts, hps, foldl_flags, flags_zero_or]

theorem dotVal_eq (t : FTy) (rm : Rnd) (g : Pred) (a b : Vec) : dotVal t rm g a b =
    treeOf (withFlags (addBits fmtF32 rm)) (levelsOf t.bits - 1)
      (pairs (withFlags (dotSum rm)) ((List.range (2 ^ levelsOf t.bits)).map (dotProduct t rm g a b))) := by
  have hlen : ((List.range (2 ^ levelsOf t.bits)).map (dotProduct t rm g a b)).length =
      2 * 2 ^ (levelsOf t.bits - 1) := by
    rw [List.length_map, List.length_range]
    cases t <;> rfl
  obtain ⟨hvals, hflags⟩ := level_eq (f := dotSum rm) (level := dotLevel rm) rfl (fun _ _ _ => rfl) hlen
  rw [treeOf_withFlags _ (length_pairs _ hlen), ← hflags, ← hvals]
  simp only [dotVal, dotProducts_eq, fty_width]

/-! ### The reductions (R133) -/

/-- The tree over eight lanes from lane o on. -/
def tree8 (f : Nat × Flags → Nat × Flags → Nat × Flags) (l : Nat → Nat × Flags) (o : Nat) : Nat × Flags :=
  f (f (f (l o) (l (o + 1))) (f (l (o + 2)) (l (o + 3)))) (f (f (l (o + 4)) (l (o + 5))) (f (l (o + 6)) (l (o + 7))))

theorem treeOf_lanes (t : FTy) (f : Nat × Flags → Nat × Flags → Nat × Flags) (l : Nat → Nat × Flags) :
    treeOf f (levelsOf t.bits) ((List.range (2 ^ levelsOf t.bits)).map l) =
      if t.bits = 16 then f (tree8 f l 0) (tree8 f l 8) else tree8 f l 0 := by
  cases t <;> rfl

theorem treeOf_products (t : FTy) (f : Nat × Flags → Nat × Flags → Nat × Flags)
    {g : FVal × Flags → FVal × Flags → Nat × Flags} (l : Nat → FVal × Flags) :
    let first (j : Nat) : Nat × Flags := g (l (2 * j)) (l (2 * j + 1))
    treeOf f (levelsOf t.bits - 1) (pairs g ((List.range (2 ^ levelsOf t.bits)).map l)) =
      if t.bits = 16 then tree8 f first 0 else f (f (first 0) (first 1)) (f (first 2) (first 3)) := by
  cases t <;> rfl

/-- An instruction that puts a tree over the lanes of a vector into an x register. -/
theorem exec_of_putRed_tree {s : State} {h : Hdr} {i : Instr} {sl : SlotSt} {k : TaskSt} {t : FTy} {d : XReg} {a : VReg}
    {f : Nat → Nat → Nat × Flags} {o : Nat}
    (he : exec i s = issueSlot i h s fun q => q.putRed d.val (tree f (levelsOf (FTy.width t))
      (redLanes (FTy.width t) (q.mask h) (q.v a.val) o))) (r : s.Runs h i sl k) :
    let lane (j : Nat) : Nat × Flags :=
      (if (sl.mask h).getLsbD (t.bits * j / 32) then (laneOf t.bits (sl.v a.val) j).toNat else o, 0)
    exec i s = .next (s.after h ((sl.started h i s.seq).putRed d.val
      (if t.bits = 16 then withFlags f (tree8 (withFlags f) lane 0) (tree8 (withFlags f) lane 8)
        else tree8 (withFlags f) lane 0))) := by
  rw [he, issueSlot_runs r, started_mask, started_v, redLanes_eq, fty_width, tree_eq, treeOf_lanes]

theorem exec_fdot {s : State} {h : Hdr} {sl : SlotSt} {k : TaskSt} {t : FTy} {rm : Rnd} {d : XReg} {a b : VReg}
    (r : s.Runs h (.fdot h t rm d a b) sl k) :
    let prod := dotProduct t rm (sl.mask h) (sl.v a.val) (sl.v b.val)
    let first (j : Nat) : Nat × Flags := withFlags (dotSum rm) (prod (2 * j)) (prod (2 * j + 1))
    let add32 := withFlags (addBits fmtF32 rm)
    exec (.fdot h t rm d a b) s = .next (s.after h ((sl.started h (.fdot h t rm d a b) s.seq).putRed d.val
      (if t.bits = 16 then tree8 add32 first 0
        else add32 (add32 (first 0) (first 1)) (add32 (first 2) (first 3))))) := by
  have he : exec (.fdot h t rm d a b) s = issueSlot (.fdot h t rm d a b) h s fun q =>
    q.putRed d.val (dotVal t rm (q.mask h) (q.v a.val) (q.v b.val)) := rfl
  rw [he, issueSlot_runs r, started_mask, started_v, started_v, dotVal_eq, treeOf_products]

/-- Settles O13: three trees over the lanes of va, and FDOT's over the sums of its products. -/
theorem floatReductions : Obligations.FloatReductions := by
  intro s h t rm d a b sl k on tree8 tree lane add pick zero val prod prodFl first add32 dot gives
  have hadd (f : Fmt) : add f = withFlags (addBits f rm) := by
    funext x y
    exact (withFlags_addBits f rm x y).symm
  have hzero : sumIdentity rm = zero := by cases rm <;> rfl
  refine ⟨fun r => ?fred, fun r => exec_of_putRed_tree rfl r, fun r => exec_of_putRed_tree rfl r, fun r => ?fdot⟩
  case fred =>
    have hrun := exec_of_putRed_tree (a := a) rfl r
    rw [hzero] at hrun
    rw [hadd]
    exact hrun
  case fdot =>
    have hrun := exec_fdot r
    simp only [withFlags_dotSum] at hrun
    rw [← hadd] at hrun
    exact hrun

end Sys2Proof.Laws
end

section
/-!
PROOFS. Class 6 arithmetic (R136 to R138): the lanes of each function on the vector lemmas above, by the way in which
the model computes them (an exact integer clamped and wrapped, the bits, a shift); VCMP's predicate bits; and the sum of
VRED.
-/

namespace Sys2Proof.Laws

open Sys2Proof.Machine

theorem ity_bits_pos (t : ITy) : 0 < t.bits := by cases t <;> decide

theorem ilane_eq (t : ITy) (v : Vec) (j : Nat) : ilane t v j = intOf t (laneOf t.bits v j) := by
  rw [← intOf_eq, ilane, lane_eq_toNat, ity_width]

/-! ### Exact integers into lanes (R136) -/

/-- An exact integer as a lane: clamped with sat, then wrapped. -/
def fitted (t : ITy) (sat : Bool) (e : Int) : BitVec t.bits :=
  let signed : Bool := t == .i16 || t == .i32
  let lo : Int := if signed then -(2 ^ (t.bits - 1)) else 0
  let hi : Int := if signed then 2 ^ (t.bits - 1) - 1 else 2 ^ t.bits - 1
  BitVec.ofInt t.bits (if sat then max lo (min hi e) else e)

theorem clampInt_eq {lo hi : Int} (hle : lo ≤ hi) (e : Int) : clampInt lo hi e = max lo (min hi e) := by
  rw [clampInt]
  split_ifs <;> omega

theorem ity_lo_le_hi (t : ITy) : ITy.lo t ≤ ITy.hi t := by cases t <;> decide

theorem intoLane_eq (t : ITy) (sat : Bool) (e : Int) : BitVec.ofNat t.bits (intoLane t sat e) = fitted t sat e := by
  rw [intoLane, clampInt_eq (ity_lo_le_hi t), ity_width, ofNat_ofInt, ity_lo, ity_hi]
  rfl

/-- The amount by which a lane is shifted: the immediate or vb's lane, reduced to the width. -/
def shiftOf (t : ITy) (imm : Option (BitVec 5)) (b : BitVec t.bits) : Nat :=
  (match imm with | some n => n.toNat | none => b.toNat) % t.bits

theorem laneShift_eq (t : ITy) (imm : Option (BitVec 5)) (v : Vec) (j : Nat) :
    laneShift t imm v j = shiftOf t imm (laneOf t.bits v j) := by
  cases imm with
  | some n => exact congrArg (n.toNat % ·) (ity_width t)
  | none =>
    rw [laneShift, lane_eq_toNat, ity_width]
    rfl

section Arithmetic

variable {s : State} {h : Hdr} {i : Instr} {t : ITy} {u : LTy} {d a b c : VReg}

/-- An instruction whose lanes are exact integers clamped and wrapped. -/
theorem givesLanes_of_intoLane {sat : Bool} {f : Int → Int → Int → Int}
    (he : exec i s = issueSlot i h s fun q => bitLanes q h (ITy.width t) d.val fun j =>
      (intoLane t sat (f (ilane t (q.v a.val) j) (ilane t (q.v b.val) j) (ilane t (q.v c.val) j)), 0)) :
    s.GivesLanes h i t.bits d fun q j =>
      (fitted t sat (f (intOf t (laneOf t.bits (q.v a.val) j)) (intOf t (laneOf t.bits (q.v b.val) j))
        (intOf t (laneOf t.bits (q.v c.val) j))), 0) :=
  givesLanes_of_issueSlot he (ity_width t) fun q j _ => by
    simp only [started_v, ilane_eq, intoLane_eq]

/-- One whose lanes are the lesser or the greater of two, which fit. -/
theorem givesLanes_of_ofInt {f : Int → Int → Int}
    (he : exec i s = issueSlot i h s fun q => bitLanes q h (ITy.width t) d.val fun j =>
      (ofInt (ITy.width t) (f (ilane t (q.v a.val) j) (ilane t (q.v b.val) j)), 0)) :
    s.GivesLanes h i t.bits d fun q j =>
      (BitVec.ofInt t.bits (f (intOf t (laneOf t.bits (q.v a.val) j)) (intOf t (laneOf t.bits (q.v b.val) j))), 0) :=
  givesLanes_of_issueSlot he (ity_width t) fun q j _ => by
    simp only [started_v, ilane_eq, ity_width, ofNat_ofInt]

/-- A shift, which g computes on numbers and f on bits. -/
theorem givesLanes_of_shift {imm : Option (BitVec 5)} {g : Nat → Nat → Nat} {f : BitVec t.bits → Nat → BitVec t.bits}
    (he : exec i s = issueSlot i h s fun q => bitLanes q h (ITy.width t) d.val fun j =>
      (g (lane (q.v a.val) (ITy.width t) j) (laneShift t imm (q.v b.val) j), 0))
    (hg : ∀ x n, BitVec.ofNat t.bits (g x.toNat n) = f x n) :
    s.GivesLanes h i t.bits d fun q j =>
      (f (laneOf t.bits (q.v a.val) j) (shiftOf t imm (laneOf t.bits (q.v b.val) j)), 0) :=
  givesLanes_of_issueSlot he (ity_width t) fun q j _ => by
    simp only [started_v, ity_width, lane_eq_toNat, laneShift_eq, hg]

theorem lty_width (u : LTy) : LTy.width u = u.bits := by
  cases u with
  | int t => exact ity_width t
  | flt t => exact fty_width t

/-- An operation on the bits of lanes of either kind. -/
theorem givesLanes_of_bits {g : Nat → Nat → Nat} {f : BitVec u.bits → BitVec u.bits → BitVec u.bits}
    (he : exec i s = issueSlot i h s fun q => bitLanes q h (LTy.width u) d.val fun j =>
      (g (lane (q.v a.val) (LTy.width u) j) (lane (q.v b.val) (LTy.width u) j), 0))
    (hg : ∀ x y, BitVec.ofNat u.bits (g x.toNat y.toNat) = f x y) :
    s.GivesLanes h i u.bits d fun q j => (f (laneOf u.bits (q.v a.val) j) (laneOf u.bits (q.v b.val) j), 0) :=
  givesLanes_of_issueSlot he (lty_width u) fun q j _ => by
    simp only [started_v, lty_width, lane_eq_toNat, hg]

end Arithmetic

theorem ofNat_of_toNat_eq {n m : Nat} {z : BitVec n} (hz : z.toNat = m) : BitVec.ofNat n m = z := by
  rw [← hz, BitVec.ofNat_toNat, BitVec.setWidth_eq]

/-- VSAR, whose lanes are signed whatever the type (R136). -/
theorem sarLane_eq (t : ITy) (x : BitVec t.bits) (n : Nat) :
    BitVec.ofNat t.bits (ofInt (ITy.width t) (toSigned (ITy.width t) x.toNat / 2 ^ n)) = x.sshiftRight n := by
  rw [ity_width, ofNat_ofInt, toSigned_toNat (ity_bits_pos t), ofInt_toInt_div_two_pow]

/-! ### Comparison (R85, R137) -/

/-- A condition of R85 on two lanes. -/
def comparedBits (cc : Cc) {n : Nat} (x y : BitVec n) : Bool := match cc with
  | .eq => x == y
  | .ne => x != y
  | .lt => x.slt y
  | .le => x.sle y
  | .gt => y.slt x
  | .ge => y.sle x
  | .ltn => x.ult y
  | .len => x.ule y
  | .gtn => y.ult x
  | .gen => y.ule x

theorem condHolds_eq (cc : Cc) {n : Nat} (hn : 0 < n) (x y : BitVec n) :
    condHolds cc n x.toNat y.toNat = comparedBits cc x y := by
  have hx : x.toNat % 2 ^ n = x.toNat := Nat.mod_eq_of_lt x.isLt
  have hy : y.toNat % 2 ^ n = y.toNat := Nat.mod_eq_of_lt y.isLt
  have heq : (x == y) = decide (x.toNat = y.toNat) := by
    rw [beq_eq_decide, decide_eq_decide, BitVec.toNat_inj]
  simp only [condHolds, comparedBits, hx, hy, toSigned_toNat hn, bne, heq]
  cases cc
  case ne => exact decide_not
  all_goals rfl

theorem vcmp_givesBits {s : State} {h : Hdr} (cc : Cc) (t : ITy) (odd : Bool) (p : PReg) (a b : VReg) :
    s.GivesBits h (.vcmp h cc t odd p a b) p fun q j =>
      let k := if t.bits = 16 then 2 * j + (if odd then 1 else 0) else j
      (comparedBits cc (laneOf t.bits (q.v a.val) k) (laneOf t.bits (q.v b.val) k), 0) := by
  refine givesBits_of_predLanes_no_flags rfl (ity_width t) (fun _ _ => rfl) fun q j => ?_
  simp only [started_v, ity_width, lane_eq_toNat, condHolds_eq _ (ity_bits_pos t)]

/-! ### VRED (R138) -/

theorem foldl_add_eq_sum {on : Nat → Bool} {f : Nat → Int} (l : List Nat) (n : Int) :
    l.foldl (fun n j => if on j then n + f j else n) n = n + (l.map fun j => if on j then f j else 0).sum := by
  induction l generalizing n with
  | nil => simp
  | cons j l ih =>
    rw [List.foldl_cons, ih, List.map_cons, List.sum_cons]
    cases on j <;> simp [add_assoc]

theorem vred_gives {s : State} {h : Hdr} (t : ITy) (x : XReg) (a : VReg) :
    s.Gives h (.vred h t x a) fun q => q.setX x.val (BitVec.ofInt 64 ((List.range (256 / t.bits)).map fun j =>
      if (q.mask h).getLsbD (t.bits * j / 32) then intOf t (laneOf t.bits (q.v a.val) j) else 0).sum) :=
  gives_setX rfl fun q => by
    rw [foldl_add_eq_sum (on := laneOn (q.mask h) (ITy.width t)), zero_add, below_eq_range]
    simp only [laneOn, ity_width, ilane_eq]

/-- Settles O14: each function by the kind of its lanes, then VCMP's bits and VRED's sum. -/
theorem integerLanes : Obligations.IntegerLanes := by
  intro s h t u sat odd imm cc d a b c p x signed w int lo hi fit lane arith shift bits holds
  exact ⟨
    givesLanes_of_intoLane (c := c) (f := fun x y _ => x + y) rfl,
    givesLanes_of_intoLane (c := c) (f := fun x y _ => x - y) rfl,
    givesLanes_of_intoLane (c := c) (f := fun x y _ => x * y) rfl,
    givesLanes_of_intoLane (f := fun x y z => x * y + z) rfl,
    givesLanes_of_ofInt (f := min) rfl,
    givesLanes_of_ofInt (f := max) rfl,
    givesLanes_of_bits (g := (· &&& ·)) rfl fun x y => ofNat_of_toNat_eq (BitVec.toNat_and x y),
    givesLanes_of_bits (g := (· ||| ·)) rfl fun x y => ofNat_of_toNat_eq (BitVec.toNat_or x y),
    givesLanes_of_bits (g := (· ^^^ ·)) rfl fun x y => ofNat_of_toNat_eq (BitVec.toNat_xor x y),
    givesLanes_of_shift (g := fun x n => x * 2 ^ n) rfl ofNat_mul_two_pow,
    givesLanes_of_shift (g := fun x n => x / 2 ^ n) rfl ofNat_div_two_pow,
    givesLanes_of_shift (g := fun x n => ofInt (ITy.width t) (toSigned (ITy.width t) x / 2 ^ n)) rfl (sarLane_eq t),
    vcmp_givesBits cc t odd p a b,
    vred_gives t x a⟩

end Sys2Proof.Laws
end

section
/-!
PROOFS. The moves and permutes of class 6 (R139), and the words of VMOVX: in whatever a word decodes to, the x field of
a VMOVX is a multiple of 4.
-/

namespace Sys2Proof.Laws

open Sys2Proof.Machine

/-! ### What a word can decode to -/

/-- Whatever instruction the decoder answers meets P. -/
def Yields (P : Instr → Prop) (r : Decoded) : Prop := ∀ i, r = .ok i → P i

section Yields

variable {P : Instr → Prop}

@[simp] theorem yields_ok (i : Instr) : Yields P (.ok i) ↔ P i := by
  simp [Yields]

@[simp] theorem yields_error (r : Reject) : Yields P (.error r) := by
  simp [Yields]

@[simp] theorem yields_need (c : Bool) (k : Decoded) : Yields P (need c k) ↔ (c = true → Yields P k) := by
  cases c <;> simp [need]

@[simp] theorem yields_want {α : Type} (o : Option α) (k : α → Decoded) :
    Yields P (want o k) ↔ ∀ x, o = some x → Yields P (k x) := by
  cases o <;> simp [want]

@[simp] theorem yields_reg (n : Nat) (f : BitVec 6) (k : Fin n → Decoded) :
    Yields P (reg n f k) ↔ ∀ r : Fin n, r.val = f.toNat → Yields P (k r) := by
  rw [reg]
  split
  next hlt =>
    refine ⟨fun hk r hr => ?_, fun hk => hk _ rfl⟩
    obtain rfl : r = ⟨f.toNat, hlt⟩ := Fin.ext hr
    exact hk
  next hge =>
    have hno (r : Fin n) : r.val ≠ f.toNat := fun hr => hge (hr ▸ r.isLt)
    simp [hno]

@[simp] theorem yields_ordOf (m : MOps) (allow : Ord → Bool) (k : Ord → Decoded) :
    Yields P (ordOf m allow k) ↔ ∀ y, Sync.ofCode m.sync = some y → ∀ c, Scope.ofCode m.scope = some c →
      allow ⟨fin8 m.stream, m.after, y, c⟩ = true → Yields P (k ⟨fin8 m.stream, m.after, y, c⟩) := by
  simp [ordOf]

@[simp] theorem yields_ite (c : Prop) [Decidable c] (x y : Decoded) :
    Yields P (if c then x else y) ↔ (c → Yields P x) ∧ (¬ c → Yields P y) := by
  split <;> simp [*]

end Yields

/-- A VMOVX names an aligned group of four x registers (R139). -/
def VmovxAligned : Instr → Prop
  | .vmovx _ _ _ x => x.val % 4 = 0
  | _ => True

@[simp] theorem vmovxAligned_vmovx (h : Hdr) (dir : Bool) (v : VReg) (x : XReg) :
    VmovxAligned (.vmovx h dir v x) ↔ x.val % 4 = 0 := Iff.rfl

@[simp] theorem vmovxAligned_of_ne {i : Instr} (hi : ∀ h dir v x, i ≠ .vmovx h dir v x) : VmovxAligned i := by
  unfold VmovxAligned
  split
  next => exact absurd rfl (hi _ _ _ _)
  next => trivial

@[simp] theorem vmovxAligned_ite (c : Prop) [Decidable c] (i j : Instr) :
    VmovxAligned (if c then i else j) ↔ (c → VmovxAligned i) ∧ (¬ c → VmovxAligned j) := by
  split <;> simp [*]

/-- Class 6 checks the field; it alone has VMOVX. -/
theorem decodeClass6_vmovxAligned (h : Hdr) (fn : Nat) (ops : BitVec 84) :
    Yields VmovxAligned (decodeClass6 h fn ops) := by
  unfold decodeClass6
  split
  case h_20 => simp +contextual
  all_goals simp

theorem decodePark_vmovxAligned (h : Hdr) (o : Ord) (kind : Nat) (m : MOps) :
    Yields VmovxAligned (decodePark h o kind m) := by
  unfold decodePark
  split
  all_goals simp

theorem decodeOps_vmovxAligned (h : Hdr) (cls fn : Nat) (ops : BitVec 84) :
    Yields VmovxAligned (decodeOps h cls fn ops) := by
  unfold decodeOps
  split
  case h_7 => exact decodeClass6_vmovxAligned h fn ops
  case h_16 => exact yields_error _
  all_goals
    simp only [decodeClass0, decodeClass1, decodeClass2, decodeClass3, decodeClass4, decodeClass5, decodeClass7,
      decodeClass8, decodeClass9, decodeClassA, decodeClassB, decodeClassC, decodeClassD, decodeClassE]
    split
    all_goals
      simp only [yields_ok, yields_error, yields_need, yields_want, yields_reg, yields_ordOf, yields_ite,
        vmovxAligned_ite, vmovxAligned_of_ne, decodePark_vmovxAligned, ne_eq, reduceCtorEq, not_false_eq_true, implies_true, and_self]

theorem decode_vmovxAligned (w : BitVec 128) : Yields VmovxAligned (decode w) := by
  simp only [decode, yields_ite, yields_error, yields_ok, implies_true, true_and]
  refine fun _ _ => ⟨fun _ => trivial, fun _ _ => ?_⟩
  split
  next => exact yields_error _
  next h _ => exact decodeOps_vmovxAligned h _ _ _

theorem decode_ne_vmovx {x : XReg} (hx : x.val % 4 ≠ 0) (w : BitVec 128) (h : Hdr) (dir : Bool) (v : VReg) :
    decode w ≠ .ok (.vmovx h dir v x) := fun hdec => hx (decode_vmovxAligned w _ hdec)

/-! ### Lanes moved (R139) -/

section Moves

variable {s : State} {h : Hdr} {u : LTy} {d a b c : VReg}

theorem vbcast_givesLanes (imm : Option (BitVec 32)) (x : XReg) :
    s.GivesLanes h (.vbcast h u imm d x) u.bits d fun q _ =>
      (match imm with | some i => i.setWidth u.bits | none => (q.x x.val).setWidth u.bits, 0) :=
  givesLanes_of_issueSlot rfl (lty_width u) fun q j _ => by
    cases imm with
    | some i => exact congrArg (·, 0) (BitVec.ofNat_toNat ..).symm
    | none => exact congrArg (·, 0) ((BitVec.ofNat_toNat ..).symm.trans (by rw [started_x]))

/-- The two vectors of the table have as many lanes as one vector of half the width. -/
theorem two_vectors_lanes (u : LTy) : 512 / u.bits = 2 * (256 / u.bits) := by
  rcases u with t | t <;> cases t <;> rfl

theorem vperm_givesLanes : s.GivesLanes h (.vperm h u d a b c) u.bits d fun q j =>
    let i := (laneOf u.bits (q.v b.val) j).toNat % (2 * (256 / u.bits))
    (if i < 256 / u.bits then laneOf u.bits (q.v a.val) i else laneOf u.bits (q.v c.val) (i - 256 / u.bits), 0) :=
  givesLanes_of_issueSlot rfl (lty_width u) fun q j _ => by
    simp only [started_v, lty_width, lane_eq_toNat, permLane_eq_toNat, two_vectors_lanes]
    rw [BitVec.ofNat_toNat, BitVec.setWidth_eq]

theorem vsel_givesLanes (p : PReg) : s.GivesLanes h (.vsel h u d a b p) u.bits d fun q j =>
    (if (q.p p.val).getLsbD (j * u.bits / 32) then laneOf u.bits (q.v a.val) j else laneOf u.bits (q.v b.val) j, 0) :=
  givesLanes_of_issueSlot rfl (lty_width u) fun q j _ => by
    simp only [started_v, started_p, lty_width, lane_eq_toNat, laneOn, Nat.mul_comm j]
    rw [BitVec.ofNat_toNat, BitVec.setWidth_eq, ← apply_ite (laneOf u.bits · j)]

theorem exec_vins {x : XReg} {n : BitVec 4} {sl : SlotSt} {k : TaskSt} (r : s.Runs h (.vins h u d x n) sl k) :
    exec (.vins h u d x n) s = .next (s.after h (if (sl.mask h).getLsbD (u.bits * n.toNat / 32)
      then (sl.started h (.vins h u d x n) s.seq).setV d.val (putLane (sl.v d.val) u.bits n.toNat (sl.x x.val).toNat)
      else sl.started h (.vins h u d x n) s.seq)) := by
  have he : exec (.vins h u d x n) s = issueSlot (.vins h u d x n) h s fun q =>
    if laneOn (q.mask h) (LTy.width u) n.toNat then
      q.setV d.val (putLane (q.v d.val) (LTy.width u) n.toNat (q.x x.val).toNat)
    else q := rfl
  simp only [he, issueSlot_runs r, started_mask, started_v, started_x, lty_width, laneOn]

/-- One lane replaced, the others kept. -/
theorem laneOf_putLane (v : Vec) {w n j : Nat} (x : Word) (hj : j < 256 / w) :
    laneOf w (putLane v w n x.toNat) j = if j = n then x.setWidth w else laneOf w v j := by
  split
  next heq =>
    subst heq
    rw [laneOf_putLane_same _ _ hj, BitVec.ofNat_toNat]
  next hne => exact laneOf_putLane_ne _ _ hj hne

/-! ### Moves to and from x registers (R139) -/

/-- Whether VEXT extends a lane with its sign. -/
def laneSigned : LTy → Bool
  | .int .i16 => true
  | .int .i32 => true
  | .int .n16 => false
  | .int .n32 => false
  | .flt _ => false

theorem extLane_eq (u : LTy) (v : BitVec u.bits) :
    extLane u v.toNat = if laneSigned u then v.signExtend 64 else v.setWidth 64 := by
  have hzero : BitVec.ofNat 64 v.toNat = v.setWidth 64 := BitVec.ofNat_toNat ..
  cases u with
  | flt t => exact hzero
  | int t =>
    have hsigned : toSigned t.bits v.toNat = v.toInt := toSigned_toNat (ity_bits_pos t) v
    rw [extLane, ity_width, hsigned, hzero]
    cases t <;> rfl

theorem vext_gives (y : XReg) (n : BitVec 4) : s.Gives h (.vext h u y a n) fun q => q.setX y.val
    (if laneSigned u then (laneOf u.bits (q.v a.val) n.toNat).signExtend 64
      else (laneOf u.bits (q.v a.val) n.toNat).setWidth 64) :=
  gives_setX rfl fun q => by
    rw [lane_eq_toNat, lty_width, extLane_eq]

end Moves

/-- Settles O15: the lanes that are moved, the one that VINS replaces, and the words and the registers of VMOVX. -/
theorem laneMoves : Obligations.LaneMoves := by
  intro s h u imm d a b c p x y n sl k w signed
  refine ⟨vbcast_givesLanes imm x, vperm_givesLanes, vsel_givesLanes p, fun _ r => ?vins, ?vext,
    fun hy w dir => decode_ne_vmovx hy w h dir a, fun _ => gives_of_issueSlot rfl fun _ => rfl,
    fun _ => gives_of_issueSlot rfl fun _ => rfl⟩
  case vins => exact ⟨_, exec_vins r, fun j hj => laneOf_putLane _ _ hj⟩
  case vext =>
    have hsigned : signed = laneSigned u := by
      rcases u with t | t <;> cases t <;> rfl
    rw [hsigned]
    exact vext_gives y n

end Sys2Proof.Laws
end
